-- ==== Sys2Proof/Word.lean ====
section
/-! DEFINITION. The plain value types of the model: bytes, words, and the sparse table that holds
everything the manual numbers (ports, contexts, groups, blocks). -/

namespace Sys2Proof

/-- One byte. -/
abbrev Byte := BitVec 8

/-- A byte string: a frame, a descriptor, an image. Offset 0 is the head (R7, R8). -/
abbrev Bytes := List Byte

/-- The bit pattern of a binary32 value, or of an INT32: the two working types of
03_feature_preparation share this width. -/
abbrev Word32 := BitVec 32

/-- A 64-bit register or scalar. -/
abbrev Word64 := BitVec 64

/-- A sparse table: pairs of a number and what stands there, numbers strictly rising. -/
abbrev Tbl (α : Type) := List (Nat × α)

end Sys2Proof
end

