-- ==== Sys2Proof/Machine/Bits.lean ====
section
/-! DEFINITION. Byte order, bit fields and small arithmetic shared by every family (R6, R7, R8). -/

namespace Sys2Proof.Machine

/-- Bits [hi:lo] of a number (R6). -/
def bitsOf (x hi lo : Nat) : Nat := (x >>> lo) % 2 ^ (hi + 1 - lo)

/-- Bit i of a number. -/
def bit (x i : Nat) : Bool := (x >>> i) % 2 == 1

/-- 0 or 1. -/
def b2n (b : Bool) : Nat := if b then 1 else 0

/-- `x` with field [hi:lo] replaced by `v`. -/
def setBits (x hi lo v : Nat) : Nat :=
  x - bitsOf x hi lo * 2 ^ lo + (v % 2 ^ (hi + 1 - lo)) * 2 ^ lo

/-- `n` bytes from offset `off`; bytes past the end are not there. -/
def slice (b : Bytes) (off n : Nat) : Bytes := (b.drop off).take n

/-- Big-endian value of a byte string: the first byte is the most significant (R7). -/
def beVal (b : Bytes) : Nat := b.foldl (fun a x => a * 256 + x.toNat) 0

/-- Little-endian value of a byte string: the first byte is the least significant (R8). -/
def leVal (b : Bytes) : Nat := b.foldr (fun x a => x.toNat + 256 * a) 0

/-- Big-endian field of `n` bytes at `off`. -/
def be (b : Bytes) (off n : Nat) : Nat := beVal (slice b off n)

/-- Little-endian field of `n` bytes at `off`. -/
def le (b : Bytes) (off n : Nat) : Nat := leVal (slice b off n)

/-- The byte at `off`, 0 past the end. -/
def byteAt (b : Bytes) (off : Nat) : Nat := (b.getD off 0).toNat

/-- `n` bytes of `v`, little-endian. -/
def leBytes : Nat → Nat → Bytes
  | 0, _ => []
  | n + 1, v => BitVec.ofNat 8 v :: leBytes n (v / 256)

/-- `n` bytes of `v`, big-endian. -/
def beBytes (n v : Nat) : Bytes := (leBytes n v).reverse

/-- `n` zero bytes. -/
def zeros (n : Nat) : Bytes := List.replicate n 0

/-- Every byte of the string is 0. -/
def allZero (b : Bytes) : Bool := b.all (· == 0)

/-- The string padded with zero bytes to `n` bytes. -/
def padTo (n : Nat) (b : Bytes) : Bytes := b ++ zeros (n - b.length)

/-- The string padded with zero bytes to a multiple of `n`. -/
def padMul (n : Nat) (b : Bytes) : Bytes := b ++ zeros ((n - b.length % n) % n)

/-- Smallest whole number not below a / b. -/
def ceilDiv (a b : Nat) : Nat := (a + b - 1) / b

/-- Two's-complement value of the low `w` bits. -/
def sext (w v : Nat) : Int :=
  let u := v % 2 ^ w
  if u < 2 ^ (w - 1) then (u : Int) else (u : Int) - (2 ^ w : Nat)

/-- The low `w` bits of an integer, two's complement. -/
def wrap (w : Nat) (i : Int) : Nat := (i % ((2 ^ w : Nat) : Int)).toNat

/-- Signed difference a − b modulo 2^32 (R47). -/
def diff32 (a b : Nat) : Int := sext 32 (wrap 32 ((a : Int) - (b : Int)))

/-- `x` limited to [lo, hi]. -/
def clampInt (x lo hi : Int) : Int := if x < lo then lo else if hi < x then hi else x

/-- Counters of 64 bits that never wrap (R304): the sum saturates. -/
def sat64 (x : Nat) : Nat := min x (2 ^ 64 - 1)

/-- Chunks of `n` items; the last may be short. -/
def chunks {α : Type} (n : Nat) : Nat → List α → List (List α)
  | 0, _ => []
  | f + 1, l => if l.isEmpty then [] else l.take n :: chunks n f (l.drop n)

/-- The list with item `i` replaced, where there is one. -/
def setAt {α : Type} (l : List α) (i : Nat) (v : α) : List α := l.set i v

/-- The numbers 0 to n − 1. -/
def upTo (n : Nat) : List Nat := List.range n

/-- The first index at which the test holds. -/
def firstIdx {α : Type} (p : α → Bool) : List α → Nat → Option Nat
  | [], _ => none
  | a :: t, i => if p a then some i else firstIdx p t (i + 1)

/-- Insertion of one item into a list sorted by `k`, after its equals. -/
def insertBy {α : Type} (k : α → Nat) (a : α) : List α → List α
  | [] => [a]
  | b :: t => if k a < k b then a :: b :: t else b :: insertBy k a t

/-- The list sorted by `k`, equals in their old order. -/
def sortBy {α : Type} (k : α → Nat) (l : List α) : List α := l.foldl (fun acc a => insertBy k a acc) []

/-- Number of set bits below bit `n`. -/
def popcount (n x : Nat) : Nat := (upTo n).foldl (fun a i => a + b2n (bit x i)) 0

/-- ASCII bytes of a name. -/
def ascii (s : String) : Bytes := s.toList.map (fun c => BitVec.ofNat 8 c.toNat)

end Sys2Proof.Machine
end

