-- ==== Sys2Proof/Machine/Table.lean ====
section
/-! DEFINITION. Lookup and update of sparse tables, by structural recursion. -/

namespace Sys2Proof.Tbl

/-- What stands at `k`, if anything. -/
def find? {α : Type} : Tbl α → Nat → Option α
  | [], _ => none
  | (k', v) :: t, k => if k' = k then some v else find? t k

/-- What stands at `k`, with `d` where the table is silent. -/
def getD {α : Type} (t : Tbl α) (k : Nat) (d : α) : α := (find? t k).getD d

/-- Writes `v` at `k`, keeping the numbers strictly rising. -/
def put {α : Type} : Tbl α → Nat → α → Tbl α
  | [], k, v => [(k, v)]
  | (k', v') :: t, k, v =>
    if k < k' then (k, v) :: (k', v') :: t
    else if k = k' then (k, v) :: t
    else (k', v') :: put t k v

/-- Removes what stands at `k`. -/
def del {α : Type} (t : Tbl α) (k : Nat) : Tbl α := t.filter (fun p => p.1 != k)

/-- Writes `v` at `k` in a table whose unlisted entries read as `d`: writing `d` removes the entry. -/
def putD {α : Type} [DecidableEq α] (d : α) (t : Tbl α) (k : Nat) (v : α) : Tbl α :=
  if v = d then del t k else put t k v

/-- Applies `f` to the entry at `k`, where there is one. -/
def modify {α : Type} (t : Tbl α) (k : Nat) (f : α → α) : Tbl α :=
  match find? t k with
  | none => t
  | some v => put t k (f v)

/-- The table holds an entry at `k`. -/
def has {α : Type} (t : Tbl α) (k : Nat) : Bool := (find? t k).isSome

/-- The numbers with an entry, rising. -/
def keys {α : Type} (t : Tbl α) : List Nat := t.map Prod.fst

/-- The entries, in rising order of their numbers. -/
def vals {α : Type} (t : Tbl α) : List α := t.map Prod.snd

/-- Applies `f` to every entry. -/
def mapVals {α β : Type} (t : Tbl α) (f : Nat → α → β) : Tbl β := t.map (fun p => (p.1, f p.1 p.2))

/-- Keeps the entries that satisfy `f`. -/
def filterT {α : Type} (t : Tbl α) (f : Nat → α → Bool) : Tbl α := t.filter (fun p => f p.1 p.2)

/-- The numbers are strictly rising from above `lo`. -/
def sortedFrom {α : Type} : Option Nat → Tbl α → Bool
  | _, [] => true
  | lo, (k, _) :: t => (match lo with | none => true | some l => decide (l < k)) && sortedFrom (some k) t

/-- The canonical form: numbers strictly rising. -/
def sorted {α : Type} (t : Tbl α) : Bool := sortedFrom none t

/-- The lowest number below `n` (from `lo`) that has no entry. -/
def freeKey {α : Type} (t : Tbl α) (lo : Nat) : Nat → Option Nat
  | 0 => none
  | n + 1 => if has t lo then freeKey t (lo + 1) n else some lo

end Sys2Proof.Tbl
end

