-- ==== Sys2Proof/Machine/QueryState.lean ====
section
/-! DEFINITION. State of the query path: flows, requests, threads, model contexts, stage-program contexts
(chapters 02 to 05, 08, 14). Functions are numbered host port · 64 + function; threads block · 4096 + slot. -/

namespace Sys2Proof.Machine

/-- A flow tracker entry (R397). -/
structure Flow where
  keyAddr : Nat := 0
  flowId : Nat := 0
  host : Bool := false
  nextSeq : Nat := 0
  /-- Home block, once HOMED. -/
  home : Option Nat := none
  /-- Target of a migration that moves the home (MOVING). -/
  moving : Option Nat := none
  /-- GAP_WAIT in µs; 0xFFFF_FFFF selects the model default (R458). -/
  gapWait : Nat := 0xFFFFFFFF
  collector : Nat := 0xFFFF
  /-- Cycle of last use. -/
  lastUse : Nat := 0
  /-- Cycle at which the gap wait expires, 0 if none. -/
  gapEnd : Nat := 0
  /-- The held number that bounds the gap the wait runs for (R49). -/
  gapTo : Nat := 0
  /-- A FLOW_CONFIG REMOVE waits for the flow to be idle: the command number (R458). -/
  removing : Option Nat := none
  deriving DecidableEq, Repr, Inhabited

/-- Where a request came from. -/
inductive Src where
  | port (p : Nat)
  /-- Host function, query ring 0-3, descriptor TAG. -/
  | host (fn ring tag : Nat)
  deriving DecidableEq, Repr, Inhabited

/-- How a request stands in its flow's order (R46 to R50). -/
inductive Order where
  /-- Sequenced by the flow entry. -/
  | seq
  /-- Late: no place in the sequence. -/
  | late
  /-- No flow entry: ordered by arrival among its like. -/
  | free
  /-- A copy that waits for an earlier request's verdict (R48). -/
  | copy
  /-- Its flow's state was lost: answered 0x32, in the order of the numbers (R50). -/
  | lost
  deriving DecidableEq, Repr, Inhabited

/-- One located query of a request. -/
structure QRec where
  qid : Nat
  status : Nat := 0
  /-- Status decided in steps 1 to 3 of R568. -/
  early : Bool := false
  /-- Status and scores are ready for reply build. -/
  ready : Bool := false
  thread : Option Nat := none
  /-- FP32 scores. -/
  scores : List Nat := []
  /-- Reply record built. -/
  built : Bool := false
  /-- Its reply frame has left with a good FCS. -/
  ended : Bool := false
  deriving DecidableEq, Repr, Inhabited

/-- A request in the device. -/
structure Request where
  src : Src
  smac : Nat := 0
  /-- Outer VLAN tag: (TPID, TCI). -/
  tag : Option (Nat × Nat) := none
  v6 : Bool := false
  ipSrc : Nat := 0
  ipDst : Nat := 0
  tos : Nat := 0
  udpS : Nat := 0
  udpD : Nat := 0
  model : Nat
  flowId : Nat
  seq : Nat
  /-- COLLECTOR takes effect: address and port (R39). -/
  collector : Option (Nat × Nat) := none
  spec : Bool := false
  split : Bool := false
  /-- BF16 scores as applied. -/
  bf16 : Bool := false
  handle : Option Nat := none
  keyAddr : Nat := 0
  order : Order := .seq
  /-- Arrival number, for order among equals. -/
  arrival : Nat := 0
  /-- NEXT_SEQ has moved past it. -/
  passed : Bool := false
  /-- NEXT_SEQ before it advanced past the request (R474). -/
  fromSeq : Nat := 0
  /-- It has been held ahead of a gap: it counts in BACKLOG until its reply is built (R261). -/
  heldGap : Bool := false
  /-- The flow's gap wait is 0 for it (R49). -/
  noHold : Bool := false
  /-- Gap wait in cycles if it is the first held (R49). -/
  gapCycles : Nat := 0
  /-- What the frame's own checks say, apart from truncation (02, commit). -/
  checksGood : Bool := true
  verdict : Option Bool := none
  /-- Time at which the verdict reaches the reply queues: 12 cycles after the last FCS byte (R59). -/
  verdictAt : Nat := 0
  recs : List QRec := []
  /-- Some promised query is missing (R44). -/
  missing : Bool := false
  /-- The missing record has been built, and the frame that holds it has left with a good FCS. -/
  missingBuilt : Bool := false
  missingEnded : Bool := false
  nout : Nat := 0
  tArrive : Nat := 0
  evalBlock : Option Nat := none
  /-- The home block has released the reply position (R242). -/
  released : Bool := true
  /-- Base die and held granules (R289). -/
  die : Nat := 0
  granules : Nat := 0
  /-- SQF content, held for replay. -/
  content : Bytes := []
  /-- Its cells of the query hold are poisoned (R277). -/
  heldBad : Bool := false
  /-- Every record is built and its frames are queued. -/
  allBuilt : Bool := false
  /-- Reply frames queued or in transmission. -/
  framesOut : Nat := 0
  /-- Time at which the second copy of its RETRACT frame falls due (R63). -/
  retractAt : Option Nat := none
  deriving DecidableEq, Repr, Inhabited

/-- State of a thread's hook (R83 to R85). -/
inductive HookSt where
  | none | waiting | bound | done
  deriving DecidableEq, Repr, Inhabited

/-- Where a neural thread stands in its layer (R25). -/
inductive Phase where
  /-- Waiting for its bags. -/
  | bags
  /-- Waiting for an array batch. -/
  | array
  /-- In a batch. -/
  | batch
  /-- Waiting for a LAYER program. -/
  | vector
  /-- LAYER program bound. -/
  | running
  /-- Scored. -/
  | done
  deriving DecidableEq, Repr, Inhabited

/-- A request thread (R26, R51). -/
structure Thread where
  req : Nat
  qi : Nat
  model : Nat
  /-- Version of the model's rules it runs on (R21, R23). -/
  ver : Nat
  replica : Nat
  ffmt : Nat
  fcount : Nat
  /-- Raw features after LOAD (R73): 32-bit patterns. -/
  raw : List Nat := []
  tArrive : Nat
  tDeadline : Nat
  scratch : Bytes := []
  /-- Prepared values ready, by prepared feature. -/
  prepd : Tbl Nat := []
  /-- (block · 4096 + prepared feature) presented (R107). -/
  presented : List Nat := []
  /-- Predicate bits: block · 4096 + bit (R105). -/
  pvec : Tbl Bool := []
  /-- Trees whose lookup is queued (R112). -/
  queued : List Nat := []
  /-- Matched rule of each tree. -/
  matched : Tbl Nat := []
  /-- A NaN was given its meaning (R100). -/
  nanMapped : Bool := false
  /-- Answered 0x21 by evaluation. -/
  invalid : Bool := false
  /-- Answered 0x30 by evaluation. -/
  fault : Bool := false
  /-- Margin check failed once: replayed (R285). -/
  replayed : Bool := false
  hook : HookSt := .none
  hookOut : Tbl Nat := []
  /-- Neural: layer, phase, bags pooled, array rows. -/
  layer : Nat := 0
  phase : Phase := .bags
  waitFrom : Nat := 0
  bags : Tbl (List Nat) := []
  /-- Input row: 256-element chunk to (element codes, scale bytes). -/
  inRow : Tbl (List Nat × List Nat) := []
  /-- Output row, FP32 patterns. -/
  outRow : List Nat := []
  /-- Blocks whose columns of the layer are done or in a batch, the columns done, and an attention layer's value rows (R143,
  R148). -/
  parts : List Nat := []
  colRow : Tbl Nat := []
  vals : List Nat := []
  scores : Tbl Nat := []
  /-- Evaluated: scores final. -/
  done : Bool := false
  /-- Exact partial sums received from other devices: output to units of 2^−149 (R231). -/
  remoteSum : Tbl Int := []
  /-- Leaf values received for SUM_ORDERED, by tree · 64 + output (R118, R231). -/
  remoteLeaf : Tbl Nat := []
  /-- Holders on other devices, device · 64 + block, whose values have arrived. -/
  remoteGot : List Nat := []
  /-- Blocks in whose combine stage it holds NOUT output sums (R115). -/
  sums : List Nat := []
  /-- Cycle at which its SUM_ORDERED additions began (R256). -/
  sumFrom : Option Nat := none
  deriving DecidableEq, Repr, Inhabited

/-- Where one tree lies (R108, R109). -/
structure TreePl where
  tree : Nat
  bank : Nat
  group : Nat
  first : Nat
  deriving DecidableEq, Repr, Inhabited

/-- One comparator: prepared feature's predicate and its predicate-vector bit (R105, R106). -/
structure CompPl where
  pred : Nat
  bit : Nat
  deriving DecidableEq, Repr, Inhabited

/-- Columns of a neural layer on a block: `cols` of them from `first` on; a layer that is not divided has one (R148). -/
structure LayerPl where
  layer : Nat
  first : Nat := 0
  cols : Nat := 1
  deriving DecidableEq, Repr, Inhabited

/-- What one block holds of a replica. -/
structure Slice where
  block : Nat
  /-- Board position of a slice on another device (bulk models, R239). -/
  dev : Option Nat := none
  trees : List TreePl := []
  comps : List CompPl := []
  /-- Layers of a neural model on this block, or columns of them. -/
  layers : List LayerPl := []
  deriving DecidableEq, Repr, Inhabited

/-- What a block of this device holds of another device's model (R28, R231): the image, the owner's function and the context
there, and the slice. -/
structure GuestSlice where
  image : Bytes
  fn : Nat
  ctx : Nat
  slice : Slice
  deriving DecidableEq, Repr, Inhabited

/-- A replica (R239): slices, and the load figures of R259 (S in cycles per query). -/
structure Replica where
  slices : List Slice := []
  /-- Measured mean of the last sample, 0 before the first. -/
  measured : Nat := 0
  /-- Draining: takes no new threads. -/
  draining : Bool := false
  deriving DecidableEq, Repr, Inhabited

/-- A region of HBM with its grant (R223, R224). -/
structure Region where
  base : Nat
  len : Nat
  /-- Owner: board position · 256 + function; CTX or 0xFFF. -/
  owner : Nat
  ctx : Nat
  /-- Board position that holds it. -/
  dev : Nat := 0
  deriving DecidableEq, Repr, Inhabited

/-- The MODEL_LOAD parameters in force (R456). -/
structure LoadArgs where
  enable : Bool := false
  hostq : Bool := false
  bulk : Bool := false
  deadline : Nat := 1
  collector : Nat := 0xFFFF
  rate : Nat := 0
  portRates : Nat := 0
  admitVlan : List Nat := []
  admitPorts : Nat := 0
  deriving DecidableEq, Repr, Inhabited

/-- One version of a model's rules. -/
structure MVer where
  image : Bytes := []
  args : LoadArgs := {}
  replicas : Tbl Replica := []
  /-- Tables: ETAB index to the board addresses of row 0 of its copies (R223, R262). -/
  tables : Tbl (List Nat) := []
  /-- Local address of the image copy (R281). -/
  copyAt : Nat := 0
  /-- Region numbers. -/
  regions : List Nat := []
  deriving DecidableEq, Repr, Inhabited

/-- A drain under way (R457). -/
structure Drain where
  /-- Cycle at which DEADLINE has passed. -/
  until_ : Nat
  unload : Bool
  /-- Commands to complete: numbers in `cmds`. -/
  cmd : Nat
  cancelled : Nat := 0
  expired : Bool := false
  deriving DecidableEq, Repr, Inhabited

/-- A model context (R457). States: 0 EMPTY, 1 LOADED, 2 ENABLED, 3 DRAINING, 4 MODEL_FAULT. -/
structure Model where
  st : Nat := 0
  owner : Nat := 0
  ver : Nat := 0
  vers : Tbl MVer := []
  /-- New rules in shadow: their version and the command (R23). -/
  shadow : Option (Nat × Nat) := none
  drain : Option Drain := none
  /-- Placement samples (R258): consecutive above 90%, consecutive low, refused since the last sample,
  admitted since the last sample, next replica number, REPLICA_SHORT minute. -/
  high : Nat := 0
  low : Nat := 0
  refused : Bool := false
  admitted : Nat := 0
  nextRep : Nat := 0
  shortAt : Option Nat := none
  /-- Time of the last sample. -/
  sampledAt : Nat := 0
  deriving DecidableEq, Repr, Inhabited

/-- A pending asynchronous load (R158). -/
structure Pend where
  /-- Destination: scalar register, or vector register + 64. -/
  dst : Nat
  /-- (lane, board address) pairs; one entry of lane 0 for LDB and LDVB. -/
  addrs : List (Nat × Nat)
  /-- Bytes per address: 8, 1024 or 4. -/
  size : Nat
  deriving DecidableEq, Repr, Inhabited

/-- A stage-program context of a VSE (R150), keyed (block · 4 + VSE) · 64 + context. -/
structure VCtx where
  thread : Nat
  prog : Nat
  layerRun : Bool
  vregs : Nat
  pc : Nat := 0
  /-- Context cycle of the last issue, and the device cycle at which it, or the binding, was (R163). -/
  cyc : Nat := 0
  since : Nat := 0
  s : Tbl Nat := []
  v : Tbl (List Nat) := []
  p : Tbl Nat := []
  flags : Nat := 0
  /-- Context cycle at which a register's result is usable: s r at r, v r at 64 + r, p r at 96 + r. -/
  ready : Tbl Nat := []
  tags : Tbl Pend := []
  /-- Argument of the free values of its registers at bind (log 6). -/
  seed : Nat := 0
  /-- Contexts that must issue first (YIELD). -/
  yieldOn : List Nat := []
  /-- Tag waited for, 4 for all (WAITG, WAITALL). -/
  wait : Option Nat := none
  deriving DecidableEq, Repr, Inhabited

/-- One associative bank entry (R109). -/
structure BankEntry where
  value : Nat
  care : Nat
  group : Nat
  valid : Bool
  /-- Cycle of its last restore (R283). -/
  restored : Option Nat := none
  /-- CRC-32C check over the other stored fields. -/
  check : Nat := 0
  deriving DecidableEq, Repr, Inhabited

/-- What a command acts on (R454). -/
inductive ObjRef where
  | model (n : Nat)
  | group (n : Nat)
  | flow (host : Bool) (key id : Nat)
  | port (n : Nat)
  | mgmt (n : Nat)
  | link (n : Nat)
  | device
  | slot (n : Nat)
  | block (n : Nat)
  | routes
  | firmware
  | none
  deriving DecidableEq, Repr, Inhabited

/-- A batch in a block's array (R143). -/
structure Batch where
  model : Nat
  ver : Nat
  layer : Nat
  threads : List Nat
  deriving DecidableEq, Repr, Inhabited

/-- A block (R24, R292 to R298). -/
structure Block where
  /-- Fenced, out of service until tested or for good. -/
  fenced : Bool := false
  retired : Bool := false
  standby : Bool := false
  /-- Draining for a test or a migration: takes no new work. -/
  draining : Bool := false
  /-- Test: due, deferral ends, under test, kernel results so far. -/
  testDue : Option Nat := none
  deferEnd : Option Nat := none
  testing : Bool := false
  /-- TEST_RUN waiting for the block: its command. -/
  testCmd : Option Nat := none
  /-- Where the work went for the test: the target, and whether it was a standby block (R296). -/
  testMove : Option (Nat × Bool) := none
  /-- The models and fold groups that went there. -/
  testWork : List ObjRef := []
  /-- Rule banks and VSEs retired (R283, R296, R297). -/
  retiredBanks : List Nat := []
  retiredVses : List Nat := []
  /-- Array in use and its clock gate (R505): time of the last row. -/
  batch : Option Batch := none
  gated : Bool := true
  lastRow : Nat := 0
  /-- Since when the array waits for start or stop credit (R505). -/
  creditFrom : Option Nat := none
  /-- Time of the last rebalancing migration (R247). -/
  lastMove : Option Nat := none
  /-- Failure being remapped (R298). -/
  failed : Bool := false
  deriving DecidableEq, Repr, Inhabited

end Sys2Proof.Machine
end

