-- ==== Sys2Proof/Machine/HostState.lean ====
section
/-! DEFINITION. State of the host functions and their rings (chapters 14 and 17), of boot and firmware (chapter 15),
of power (chapter 16), and of placement and integrity (chapters 07 to 09). A function is numbered
host port · 64 + function (R434). Times are picoseconds of model time unless a comment says cycles. -/

namespace Sys2Proof.Machine

/-- One ring block (R531). -/
structure Ring where
  base : Nat := 0
  piAddr : Nat := 0
  ciAddr : Nat := 0
  bufBase : Nat := 0
  stride : Nat := 0
  log2 : Nat := 0
  pollUs : Nat := 10
  modUs : Nat := 0
  modCount : Nat := 1
  vector : Nat := 0
  enable : Bool := false
  stopCause : Nat := 0
  cfgErr : Bool := false
  /-- DEV_INDEX: the device's own index copy. -/
  index : Nat := 0
  /-- The last CI word read of a device-produced ring (R439). -/
  far : Nat := 0
  /-- Time of the last poll, or of the enabling. -/
  polled : Nat := 0
  /-- Entries written since the last signal, and the time of the first (R442). -/
  unsig : Nat := 0
  unsigAt : Nat := 0
  deriving DecidableEq, Repr, Inhabited

/-- One MSI-X table entry (R534). -/
structure MsixEnt where
  addr : Nat := 0
  data : Nat := 0
  ctrl : Nat := 1
  deriving DecidableEq, Repr, Inhabited

/-- A host reply waiting for its ring: the 64-byte descriptor and the buffer's records (R451). -/
structure HostReply where
  desc : Bytes
  buf : Bytes
  /-- The request whose held granules free when it is written (R289). -/
  req : Option Nat
  deriving DecidableEq, Repr, Inhabited

/-- A control-plane receive entry waiting for its ring (R453). -/
structure CpRx where
  desc : Bytes
  frame : Bytes
  deriving DecidableEq, Repr, Inhabited

/-- One PCIe function (R433, R529). -/
structure Fn where
  apertureHi : Nat := 0
  ringStopped : Bool := false
  /-- Bus Master Enable of configuration space. -/
  bme : Bool := false
  /-- Ring blocks 0 to 12; an unlisted block has its reset values. -/
  rings : Tbl Ring := []
  msix : Tbl MsixEnt := []
  msixPend : Nat := 0
  /-- Internal event queue: 48-byte bodies (R449), and DROPPED (R446). -/
  events : List Bytes := []
  dropped : Nat := 0
  /-- Completions without PHASE waiting for the ring (R533). -/
  comps : List Bytes := []
  /-- Host replies waiting, per reply ring 0 to 3. -/
  replies : Tbl (List HostReply) := []
  /-- Query descriptors fetched and not yet taken by HOST_QUERY, per ring. -/
  queryQ : Tbl (List Bytes) := []
  /-- Control-plane transmit descriptors fetched and not yet sent. -/
  txQ : List Bytes := []
  /-- Control-plane frames waiting for the receive ring. -/
  rxQ : List CpRx := []
  /-- Latches of R526 and R528. -/
  snap : Bytes := []
  liveLatch : Nat := 0
  /-- Board-link lane counters (link · 8 + lane) and tile lane counters (1024 + tile · 64 + lane). -/
  laneLatch : Tbl Nat := []
  /-- PWR_REQ (R516). -/
  pwrTarget : Nat := 0
  pwrWake : Nat := 1
  pushResult : Nat := 0
  deriving DecidableEq, Repr, Inhabited

/-- A command fetched from a command ring and not yet completed (R443). -/
structure Cmd where
  fn : Nat
  opcode : Nat
  fence : Bool
  tag : Nat
  argAddr : Nat
  argLen : Nat
  outLen : Nat
  outAddr : Nat
  /-- First reserved byte that is not zero, if any (R9). -/
  badOff : Option Nat := none
  started : Bool := false
  obj : ObjRef := .none
  /-- Its function was reset: the completion is not written (R474). -/
  silent : Bool := false
  /-- A result that waits only for HBM training (R513): RESULT0 and RESULT1. -/
  waitHbm : Option (Nat × Nat) := none
  deriving DecidableEq, Repr, Inhabited

/-- A firmware image held in control-die memory (R482). -/
structure Firmware where
  version : Nat := 0
  jrnl : Nat := 0
  jrnlMin : Nat := 0
  deriving DecidableEq, Repr, Inhabited

/-- Boot and firmware (R476 to R493). -/
structure Boot where
  /-- BOOT_STATE: 0 ROM, 1 LOADING, 2 VERIFY, 3 WAIT_PUSH, 4 START, 5 READY, 6 HALT. -/
  st : Nat := 0
  err : Nat := 0
  source : Nat := 0
  flash : Nat := 0
  pushPort : Nat := 0
  cfg : Nat := 0
  fwVersion : Nat := 0
  pushAddr : Nat := 0
  pushLen : Nat := 0
  minVersion : Nat := 0
  ownerId : Nat := 0
  hostPushEn : Bool := true
  debugEn : Bool := false
  /-- Any host port may push: BOOT_SRC 0b10, or a fallback under R486. -/
  pushAny : Bool := false
  bootSrc : Nat := 0
  boardPos : Nat := 0
  profile : Nat := 0
  running : Firmware := {}
  staged : Option Firmware := none
  /-- The PF that staged it. -/
  stagedBy : Nat := 0
  /-- FW_ACTIVATE under way: command and time it began. -/
  activating : Option (Nat × Nat) := none
  /-- POWER_STATE waits for the activation (R495): function, TARGET, WAKE, command. -/
  pwrWait : List (Nat × Nat × Nat × Nat) := []
  /-- Function whose push is being read. -/
  pushing : Option Nat := none
  /-- Time at which the firmware was started (step 5 of R479). -/
  startedAt : Nat := 0
  /-- Reset has been released (R551). -/
  released : Bool := false
  /-- Service number (row of R490) to core, and service processors driven by a core (R297). -/
  cores : Tbl Nat := []
  deadCores : List Nat := []
  spCore : Tbl Nat := []
  deriving DecidableEq, Repr, Inhabited

/-- One telemetry sample, in thousandths of V, A, W and °C. -/
structure Sample where
  vin : Int := 0
  iin : Int := 0
  pin : Int := 0
  tDie : Int := 0
  tTile : Int := 0
  tiles : List Int := [0, 0, 0, 0]
  deriving DecidableEq, Repr, Inhabited

/-- The fault record (R521). -/
structure FaultRec where
  cause : Nat := 0
  sub : Nat := 0
  unitKind : Nat := 0
  unit : Nat := 0
  vin : Int := 0
  temp : Int := 0
  sinceOn : Nat := 0
  fences : Nat := 0
  deriving DecidableEq, Repr, Inhabited

/-- Where a state entry or exit stands (R510, R513). -/
inductive Transit where
  | none
  /-- An entry sequence since a time, its goal; its egress queues drain since then (R510 step 3); a wake has come, so
  that the exit follows (R522). -/
  | drain (since goal : Nat) (egress woken : Bool)
  /-- Leaving the state since a time; in S3 and S4 the rails come back (R513). -/
  | exit (since : Nat)
  deriving DecidableEq, Repr, Inhabited

/-- Power (R496 to R523). -/
structure Power where
  st : Nat := 0
  transit : Transit := .none
  targetEff : Nat := 0
  /-- Wake sources in force (R508). -/
  wakeEff : Nat := 1
  throttle : Bool := false
  wakeSrc : Nat := 0
  wakePat : Nat := 0
  laserIdle : Bool := false
  /-- Supply present, and its four 6 V rails in regulation (R498). -/
  powered : Bool := true
  /-- Latest samples taken in S0 to S2, newest first (at most 10). -/
  samples : List Sample := []
  /-- Latest input voltages in any state, newest first (at most 10). -/
  vins : List Int := []
  /-- Latest trigger sample and the sample count (R520). -/
  trig : Sample := {}
  trigCount : Nat := 0
  /-- STATUS bits: STATUS_INPUT byte, STATUS_TEMPERATURE byte, CML and the THROTTLE bit latched. -/
  stInput : Nat := 0
  stTemp : Nat := 0
  cml : Bool := false
  stThrottle : Bool := false
  fault : FaultRec := {}
  /-- Fences since VIN was applied. -/
  fences : Nat := 0
  /-- Time at which VIN reached UV_ON. -/
  vinOn : Nat := 0
  /-- WAKE_N seen low on 10 samples and not high since (R518). -/
  wakeLow : Bool := false
  fenced : Bool := false
  /-- Power tiles whose converters have stopped. -/
  stopped : List Nat := []
  /-- When the converters of the other tiles stop after a power fence (R503). -/
  stopAt : Option Nat := none
  /-- The dump loads draw from VIN (R500). -/
  dumping : Bool := false
  hbmTrained : Bool := false
  /-- Governor (R505): times of array starts and stops in the last 1 µs. -/
  starts : List Nat := []
  /-- Time at which the state was entered, for PWR_RES_NS. -/
  since : Nat := 0
  /-- Time up to which THROTTLE_NS has been counted. -/
  throttleAt : Nat := 0
  /-- Clocks without an edge, by row of R29. -/
  stalledClk : List Nat := []
  deriving DecidableEq, Repr, Inhabited

/-- A stake (R248). -/
structure Stake where
  devices : Nat
  blocks : Nat
  deriving DecidableEq, Repr, Inhabited

/-- A migration (R245): what moves from one block to another. -/
structure Mig where
  /-- CAUSE of MIGRATION_DONE: 0 rebalance, 1 test, 2 failure, 3 stake, 4 load. -/
  cause : Nat
  src : Nat
  dst : Nat
  /-- What moves: everything, or one model context, or one fold group. -/
  what : ObjRef := .none
  /-- Target reported ready; steering has switched. -/
  switched : Bool := false
  /-- Its target failed during the load: placement chooses another (R252). -/
  lost : Bool := false
  startedAt : Nat := 0
  deriving DecidableEq, Repr, Inhabited

/-- Kinds of hardened object (R275), in the order of its table. -/
inductive HardKind where
  /-- Model context descriptor, steering or placement entry of a context. -/
  | model (ctx : Nat)
  | group (g : Nat)
  /-- Route or forwarding entry: table (R465) and key. -/
  | route (table key : Nat)
  | port (p : Nat)
  | region (r : Nat)
  | sequencer (block : Nat)
  /-- RWH register of BAR0: function and offset. -/
  | reg (fn off : Nat)
  deriving DecidableEq, Repr, Inhabited

/-- Number of a kind (R275). -/
def HardKind.code : HardKind → Nat
  | .model _ => 0 | .group _ => 1 | .route _ _ => 2 | .port _ => 3 | .region _ => 4 | .sequencer _ => 5 | .reg _ _ => 6

/-- A register write in its vote, or behind one of the same function: it takes effect at `due` (R11, R540, R541). -/
structure Vote where
  fn : Nat
  off : Nat
  value : Nat
  due : Nat
  deriving DecidableEq, Repr, Inhabited

/-- A lost hardened word: its object, and which of the object's words it is (R275). -/
structure Lost where
  obj : HardKind
  at_ : Nat
  word : Nat := 0
  /-- No readable journal entry either (R276). -/
  unrecoverable : Bool := false
  deriving DecidableEq, Repr, Inhabited

/-- A coalescing record (R307), keyed FCODE · 2^24 + UNIT_KIND · 2^16 + UNIT. -/
structure Coal where
  /-- Time of the record posted last. -/
  postedAt : Nat
  count : Nat := 0
  detail : Nat := 0
  obj : Nat := 0
  addr : Nat := 0
  tLin : Nat := 0
  syn : Nat := 0
  deriving DecidableEq, Repr, Inhabited

/-- A bank under a fault scrub or a relocation (R283), keyed block · 64 + bank. -/
structure BankFault where
  group : Nat
  ctx : Nat
  since : Nat
  /-- Retired and waiting for its rules to move. -/
  relocating : Bool := false
  /-- Further faulting groups of the bank, each with its context, whose scrubs follow (R283). -/
  more : List (Nat × Nat) := []
  deriving DecidableEq, Repr, Inhabited

/-- Placement and integrity (R239 to R308). -/
structure Place where
  qhold : Nat := 32
  qholdNow : Nat := 32
  qholdPending : Bool := false
  standby : Nat := 2
  testInterval : Nat := 600
  testDefer : Nat := 2000
  setRefused : Bool := false
  /-- Stakes: kind · 4096 + target. -/
  stakes : Tbl Stake := []
  migs : Tbl Mig := []
  nextMig : Nat := 0
  lost : List Lost := []
  bankFaults : Tbl BankFault := []
  /-- Last test time and consecutive skips of each block. -/
  lastTest : Tbl Nat := []
  skips : Tbl Nat := []
  stackLive : Nat := 15
  evseq : Nat := 0
  coal : Tbl Coal := []
  /-- Granules of each stack found uncorrectable in the last second, each with the time it was last found (R297). -/
  poisonRate : Tbl (List (Nat × Nat)) := []
  /-- Numbers the opening and completion of fold blocks; base dies under spill pressure (R192, R205, R208). -/
  foldSeq : Nat := 0
  /-- Time and sequence number of the last HELLO sent (R374). -/
  helloAt : Option Nat := none
  helloSeq : Nat := 0
  spillPress : List Nat := []
  deriving DecidableEq, Repr, Inhabited

/-- What the device sends out, oldest first (log 9). -/
inductive Out where
  /-- A frame on a port, with its FCS. -/
  | frame (port : Nat) (bytes : Bytes)
  /-- A frame on a management port. -/
  | mgmt (port : Nat) (bytes : Bytes)
  /-- A write to a function's host memory with its requester ID (R435). -/
  | dma (fn addr : Nat) (bytes : Bytes)
  /-- An MSI-X message. -/
  | msix (fn addr data : Nat)
  /-- Data of a completed BAR read. -/
  | bar (fn : Nat) (bytes : Bytes)
  /-- A completion with Completer Abort, or with EP-poisoned data. -/
  | barAbort (fn : Nat)
  | barPoison (fn : Nat) (bytes : Bytes)
  /-- A BLP packet on a board link. -/
  | blp (link : Nat) (bytes : Bytes)
  /-- A training set on a link's lanes; an exercise sequence, with the data of each active lane. -/
  | train (link : Nat) (ts2 : Bool) (bytes : Bytes)
  | exercise (link : Nat) (data : List (Nat × Bytes))
  /-- An answer on PMBus, or a NACK. -/
  | pmbus (bytes : Bytes)
  | nack
  deriving DecidableEq, Repr, Inhabited

end Sys2Proof.Machine
end

