-- ==== Sys2Proof/Syntax.lean ====
section
/-! DEFINITION. The commands of the block: one constructor per row of spec/opcode_table.json, in its order. An operand
names the object the step acts on, carries what comes from outside the device (a frame with its FCS, the bytes a DMA
read returned, a measured value), or carries a choice the manual leaves to the placement engine (log 1, log 4). -/

namespace Sys2Proof

open Sys2Proof.Machine

/-- What a DMA read of host memory gave: the bytes, or the PCIe completion status of its failure (R445). -/
inductive Dma where
  | data (b : Bytes)
  | err (status : Nat)
  deriving DecidableEq, Repr

/-- What the protection of R277 finds with a query request: nothing, an error that was corrected, its flow's cached tracker
entry lost, or its cells of the query hold poisoned. -/
inductive Upset where
  | none | corrected | flow | hold
  deriving DecidableEq, Repr

/-- A lane with diagnostic registers (R538): of a board link, or of a port tile. -/
inductive LaneRef where
  | board (link lane : Nat)
  | tile (tile lane : Nat)
  deriving DecidableEq, Repr

/-- What placement decides for a model load (R239): the replicas with their slices, and for each embedding table the
board address of the first byte of each of its copies' regions, in the order of the image's sections; a list that ends early says
that nothing has room for the next. `copyAt` is the local address of the image copy (R281). The context is for CTX 0xFFFF. -/
structure PlaceChoice where
  ctx : Nat
  replicas : List Replica
  regions : List (Nat × Nat)
  copyAt : Nat
  deriving DecidableEq, Repr

/-- What a combine meets: the margins a corrupted accumulator delivers in place of the computed ones, (output, FP32), and an
exception of the SOFTMAX firmware (R167, R284). -/
structure CombineRun where
  upset : List (Nat × Nat) := []
  exc : Option Nat := none
  deriving DecidableEq, Repr

/-- The record of a request that a reply build reads, and whether its thread context's parity is bad (R277). -/
structure RecordRead where
  qi : Nat
  parity : Bool := false
  deriving DecidableEq, Repr

/-- What a fold check meets: elements of bad parity, an exception of the check program, a poisoned cell (R167, R200, R277). -/
structure CheckRun where
  bad : List Nat := []
  exc : Option Nat := none
  poisoned : Bool := false
  deriving DecidableEq, Repr

/-- A RESULT frame, and whether a cell that holds it is poisoned (R277). -/
structure ResultRx where
  frame : Bytes
  poisoned : Bool := false
  deriving DecidableEq, Repr

/-- A QMSG packet, and the slice of another device's model that it finds here (log 15). -/
structure QmsgRx where
  pkt : Bytes
  held : Option GuestSlice := none
  deriving DecidableEq, Repr

/-- A device and those to which it has links up (R237). -/
structure DevLinks where
  dev : Nat
  peers : List Nat
  deriving DecidableEq, Repr

/-- A hardened word: its object, and which of the object's words it is (R275). -/
structure HardWord where
  obj : HardKind
  word : Nat
  deriving DecidableEq, Repr

/-- How a block fails: 0 test, 1 check, 2 heartbeat, 3 parity, which may concern one VSE only (R297). -/
structure BlockFault where
  cause : Nat
  vse : Option Nat := none
  deriving DecidableEq, Repr

/-- What placement decides for a fold group: its accumulating blocks and its parent's level in the tree (R171, R243). -/
structure GroupPlace where
  blocks : List Nat
  level : Nat
  deriving DecidableEq, Repr

/-- One command. -/
inductive Instr where
  /-- QUERY_FRAME (R34). -/
  | queryFrame (port : Nat) (frame : Bytes) (upset : Upset)
  /-- HOST_QUERY (R71). -/
  | hostQuery (fn : Nat) (ring : Nat) (req : Dma) (upset : Upset)
  /-- COMMIT_VERDICT (R59). -/
  | commitVerdict (req : Nat) (intact : Bool)
  /-- RETRACT_SECOND_COPY (R63). -/
  | retractSecondCopy (req : Nat)
  /-- GAP_WAIT_EXPIRY (R49). -/
  | gapWaitExpiry (flow : Nat)
  /-- FEATURE_PRESENTATION (R106). -/
  | featurePresentation (thread : Nat) (block : Nat) (prep : Nat)
  /-- TREE_LOOKUP (R112). -/
  | treeLookup (thread : Nat) (tree : Nat)
  /-- COMBINE_MARGIN (R115). -/
  | combineMargin (thread : Nat) (run : CombineRun)
  /-- REPLY_BUILD (R69). -/
  | replyBuild (req : Nat) (read : RecordRead)
  /-- REPLY_POSITION_RELEASE (R242). -/
  | replyPositionRelease (req : Nat)
  /-- EGRESS_TRANSMIT (R268). -/
  | egressTransmit (port : Nat)
  /-- STREAM_STOP_TIMEOUT (R287). -/
  | streamStopTimeout (port : Nat) (sent : Nat)
  /-- HOOK_BIND (R162). -/
  | hookBind (thread : Nat)
  /-- LAYER_BIND (R162). -/
  | layerBind (thread : Nat)
  /-- VSE_CYCLES_EXCEEDED (R163). -/
  | vseCyclesExceeded (ctx : Nat)
  /-- ADD_SUB_MUL (R157). -/
  | addSubMul (ctx : Nat)
  /-- AND_OR_XOR (R157). -/
  | andOrXor (ctx : Nat)
  /-- SHL_SHR_SRA (R157). -/
  | shlShrSra (ctx : Nat)
  /-- SLT_SLTU (R157). -/
  | sltSltu (ctx : Nat)
  /-- MIN_MAX (R157). -/
  | minMax (ctx : Nat)
  /-- FADD_FSUB_FMUL (R157). -/
  | faddFsubFmul (ctx : Nat)
  /-- FFMA (R157). -/
  | ffma (ctx : Nat)
  /-- FDIV_FSQRT (R157). -/
  | fdivFsqrt (ctx : Nat)
  /-- FGE (R157). -/
  | fge (ctx : Nat)
  /-- CVTFI (R157). -/
  | cvtfi (ctx : Nat)
  /-- CVTIF (R157). -/
  | cvtif (ctx : Nat)
  /-- FEXP_FLOG (R154). -/
  | fexpFlog (ctx : Nat)
  /-- RDFL (R157). -/
  | rdfl (ctx : Nat)
  /-- CLRFL (R157). -/
  | clrfl (ctx : Nat)
  /-- ADDI_SHLI_SLTI (R157). -/
  | addiShliSlti (ctx : Nat)
  /-- MOVK (R157). -/
  | movk (ctx : Nat)
  /-- VADD_VSUB_VMUL (R157). -/
  | vaddVsubVmul (ctx : Nat)
  /-- VFMA (R157). -/
  | vfma (ctx : Nat)
  /-- VMIN_VMAX (R157). -/
  | vminVmax (ctx : Nat)
  /-- VDIV_VSQRT (R157). -/
  | vdivVsqrt (ctx : Nat)
  /-- VEXP_VLOG_VLGST_VTANH (R154). -/
  | vexpVlogVlgstVtanh (ctx : Nat)
  /-- VAND_VOR_VXOR (R157). -/
  | vandVorVxor (ctx : Nat)
  /-- VSHL_VSHR (R157). -/
  | vshlVshr (ctx : Nat)
  /-- VCVT (R157). -/
  | vcvt (ctx : Nat)
  /-- VGE_VEQ_VLT (R157). -/
  | vgeVeqVlt (ctx : Nat)
  /-- VMOV (R157). -/
  | vmov (ctx : Nat)
  /-- VRSUM_VRMAX (R154). -/
  | vrsumVrmax (ctx : Nat)
  /-- VPAND_VPOR_VPNOT (R157). -/
  | vpandVporVpnot (ctx : Nat)
  /-- VIOTA (R157). -/
  | viota (ctx : Nat)
  /-- VSHUF (R157). -/
  | vshuf (ctx : Nat)
  /-- LDL (R157). -/
  | ldl (ctx : Nat)
  /-- LDVL (R157). -/
  | ldvl (ctx : Nat)
  /-- GATHL (R157). -/
  | gathl (ctx : Nat)
  /-- LDC (R157). -/
  | ldc (ctx : Nat)
  /-- STC (R157). -/
  | stc (ctx : Nat)
  /-- LDB (R158). -/
  | ldb (ctx : Nat)
  /-- LDVB (R158). -/
  | ldvb (ctx : Nat)
  /-- GATHB (R158). -/
  | gathb (ctx : Nat)
  /-- ASYNC_LOAD_COMPLETE (R158). -/
  | asyncLoadComplete (ctx : Nat) (tag : Nat) (bad : List Nat)
  /-- BR (R157). -/
  | br (ctx : Nat)
  /-- BZ_BNZ_BLTZ_BGEZ (R157). -/
  | bzBnzBltzBgez (ctx : Nat)
  /-- BANY_BNONE (R157). -/
  | banyBnone (ctx : Nat)
  /-- LOOP (R157). -/
  | loopDec (ctx : Nat)
  /-- END (R157). -/
  | endRun (ctx : Nat)
  /-- FRD (R157). -/
  | frd (ctx : Nat)
  /-- FRDX (R157). -/
  | frdx (ctx : Nat)
  /-- FRDV (R157). -/
  | frdv (ctx : Nat)
  /-- HOUT (R157). -/
  | hout (ctx : Nat)
  /-- EMIT (R164). -/
  | emit (ctx : Nat)
  /-- REFUSE (R157). -/
  | refuse (ctx : Nat)
  /-- GETA (R157). -/
  | geta (ctx : Nat)
  /-- PUTA (R159). -/
  | puta (ctx : Nat)
  /-- GETE (R157). -/
  | gete (ctx : Nat)
  /-- YIELD (R157). -/
  | yieldIssue (ctx : Nat)
  /-- WAITG (R158). -/
  | waitg (ctx : Nat)
  /-- WAITALL (R158). -/
  | waitall (ctx : Nat)
  /-- ARRAY_BATCH (R143). -/
  | arrayBatch (block : Nat) (model : Nat) (layer : Nat)
  /-- ARRAY_PASS_DONE (R142). -/
  | arrayPassDone (block : Nat)
  /-- ARRAY_IDLE_GATE (R505). -/
  | arrayIdleGate (block : Nat)
  /-- BAG_GATHER_COMPLETE (R144). -/
  | bagGatherComplete (thread : Nat) (bag : Nat)
  /-- CONTRIB (R180). -/
  | contrib (port : Nat) (frame : Bytes) (poisoned : Bool)
  /-- PARTIAL (R194). -/
  | partialFrame (port : Nat) (frame : Bytes) (poisoned : Bool)
  /-- SPILL_RESTORE (R192). -/
  | spillRestore (die : Nat) (poisoned : Bool)
  /-- FOLD_CHECK_VERDICT (R198). -/
  | foldCheckVerdict (group : Nat) (pos : Nat) (run : CheckRun)
  /-- FOLD_RESULT (R183). -/
  | foldResult (port : Nat) (rx : ResultRx)
  /-- FOLD_ACK (R184). -/
  | foldAck (port : Nat) (frame : Bytes)
  /-- NOTICE_RESEND (R200). -/
  | noticeResend (port : Nat) (frame : Bytes)
  /-- NOTICE_RESEND_RESULT (R204). -/
  | noticeResendResult (port : Nat) (frame : Bytes)
  /-- NOTICE_EXPEL (R211). -/
  | noticeExpel (port : Nat) (frame : Bytes)
  /-- NOTICE_HOLD (R212). -/
  | noticeHold (port : Nat) (frame : Bytes)
  /-- NOTICE_RELEASED (R212). -/
  | noticeReleased (port : Nat) (frame : Bytes)
  /-- NOTICE_DELETED (R215). -/
  | noticeDeleted (port : Nat) (frame : Bytes)
  /-- NOTICE_RESTART (R214). -/
  | noticeRestart (port : Nat) (frame : Bytes)
  /-- NOTICE_ILLEGAL (R185). -/
  | noticeIllegal (port : Nat) (frame : Bytes)
  /-- DIGEST (R209). -/
  | digest (port : Nat) (frame : Bytes)
  /-- DIGEST_WAIT_EXPIRY (R209). -/
  | digestWaitExpiry (group : Nat) (step : Nat)
  /-- HELLO (R187). -/
  | hello (port : Nat) (frame : Bytes)
  /-- HELLO_TX (R374). -/
  | helloTx
  /-- NEIGHBOUR_MISSING (R253). -/
  | neighbourMissing (port : Nat)
  /-- NO_OTHER_PATH_EXPIRY (R254). -/
  | noOtherPathExpiry (group : Nat)
  /-- TREE_REBUILD_DONE (R214). -/
  | treeRebuildDone (group : Nat) (gen : Nat) (parent : Option (Nat × Nat × Nat × Nat))
  /-- LLDP (R373). -/
  | lldp (port : Nat) (frame : Bytes)
  /-- MAC_FRAME_RX (R355). -/
  | macFrameRx (port : Nat) (frame : Bytes) (codewords : Nat × Nat × Nat) (syms : List Nat)
  /-- PAUSE (R362). -/
  | pause (port : Nat) (frame : Bytes)
  /-- PFC (R364). -/
  | pfc (port : Nat) (frame : Bytes)
  /-- PAUSE_TIMER_EXPIRY (R362). -/
  | pauseTimerExpiry (port : Nat) (cls : Nat)
  /-- PAUSE_REFRESH (R366). -/
  | pauseRefresh (port : Nat) (cls : Nat)
  /-- LINK_HOLD_EXPIRY (R358). -/
  | linkHoldExpiry (port : Nat)
  /-- LINK_DOWN (R358). -/
  | linkDown (port : Nat) (cause : Nat)
  /-- MGMT_FRAME_RX (R369). -/
  | mgmtFrameRx (mg : Nat) (frame : Bytes)
  /-- WAKE_PATTERN_MATCH (R371). -/
  | wakePatternMatch (mg : Nat) (frame : Bytes)
  /-- FORWARD_FRAME (R377). -/
  | forwardFrame (port : Nat) (frame : Bytes)
  /-- FLOW_AGE_EXPIRY (R396). -/
  | flowAgeExpiry (flow : Nat)
  /-- CP_TX (R452). -/
  | cpTx (fn : Nat) (data : Dma)
  /-- BLP_RD (R233). -/
  | blpRd (link : Nat) (pkt : Bytes)
  /-- BLP_WR (R233). -/
  | blpWr (link : Nat) (pkt : Bytes)
  /-- BLP_ATOMIC (R230). -/
  | blpAtomic (link : Nat) (pkt : Bytes)
  /-- BLP_CPL (R232). -/
  | blpCpl (link : Nat) (pkt : Bytes)
  /-- BLP_CPL_ABORT (R235). -/
  | blpCplAbort (link : Nat) (seq : Nat)
  /-- BLP_ACK (R234). -/
  | blpAck (link : Nat) (pkt : Bytes)
  /-- BLP_NAK (R234). -/
  | blpNak (link : Nat) (pkt : Bytes)
  /-- BLP_ACK_TIMER (R234). -/
  | blpAckTimer (link : Nat)
  /-- BLP_REPLAY_TIMEOUT (R234). -/
  | blpReplayTimeout (link : Nat)
  /-- BLP_TIMEOUT (R232). -/
  | blpTimeout (dev : Nat) (tag : Nat)
  /-- BLP_MSG (R230). -/
  | blpMsg (link : Nat) (pkt : Bytes)
  /-- BLP_QMSG (R231). -/
  | blpQmsg (link : Nat) (rx : QmsgRx)
  /-- ROUTE_SWITCH (R237). -/
  | routeSwitch (far : DevLinks)
  /-- TRAINING_SET (R403). -/
  | trainingSet (link : Nat) (lane : Nat) (set : Bytes)
  /-- TRAIN_GOOD_STABLE (R406). -/
  | trainGoodStable (link : Nat)
  /-- TRAIN_TIMEOUT (R406). -/
  | trainTimeout (link : Nat)
  /-- TRAIN_IDLE_END (R406). -/
  | trainIdleEnd (link : Nat)
  /-- LANE_LOST (R412). -/
  | laneLost (link : Nat) (lane : Nat) (viol : Nat)
  /-- RETRAIN_TIMEOUT (R414). -/
  | retrainTimeout (link : Nat)
  /-- LANE_FREEZE (R410). -/
  | laneFreeze (link : Nat) (lane : Nat)
  /-- EXERCISE_SEQUENCE (R411). -/
  | exerciseSequence (link : Nat) (errs : List Nat)
  /-- DEEP_ENTRY (R416). -/
  | deepEntry (link : Nat) (set : Bytes)
  /-- DEEP_REFUSED (R416). -/
  | deepRefused (link : Nat)
  /-- DEEP_RETRY (R416). -/
  | deepRetry (link : Nat)
  /-- DEEP_EXIT (R417). -/
  | deepExit (link : Nat)
  /-- WARM_TRAIN_TIMEOUT (R417). -/
  | warmTrainTimeout (link : Nat)
  /-- PRBS_SYNC (R419). -/
  | prbsSync (lane : LaneRef) (bits : Nat) (errors : Nat)
  /-- ACTION_PULSE (R336). -/
  | actionPulse (slot : Nat)
  /-- PULSE_END (R337). -/
  | pulseEnd (pin : Nat)
  /-- ACTION_PPS (R338). -/
  | actionPps (slot : Nat)
  /-- ACTION_TRIGGER (R336). -/
  | actionTrigger (slot : Nat) (sample : Sample)
  /-- ACTION_EVENT (R336). -/
  | actionEvent (slot : Nat)
  /-- ACTION_SNAPSHOT (R336). -/
  | actionSnapshot (slot : Nat)
  /-- ACTION_STEP (R336). -/
  | actionStep (slot : Nat)
  /-- STEP_APPLY (R315). -/
  | stepApply
  /-- HOLDOVER_START (R314). -/
  | holdoverStart
  /-- TIN_CAPTURE (R339). -/
  | tinCapture (pin : Nat) (rising : Bool)
  /-- CAPTURE_DELIVER (R340). -/
  | captureDeliver
  /-- HARD_SCRUB (R274). -/
  | hardScrub (word : HardWord) (a : Nat) (b : Nat) (c : Nat)
  /-- HARD_RESTORED (R275). -/
  | hardRestored (word : HardWord) (source : Nat)
  /-- HBM_SCRUB (R278). -/
  | hbmScrub (granule : Nat) (uncorrectable : Bool)
  /-- DATA_RESTORED (R281). -/
  | dataRestored (ctx : Nat) (sec : Nat) (block : Nat) (hit : List Nat) (bad : List Nat)
  /-- RULE_SCRUB (R282). -/
  | ruleScrub (block : Nat) (bank : Nat) (entry : Nat) (flip : Nat)
  /-- FAULT_SCRUB_DONE (R283). -/
  | faultScrubDone (block : Nat) (bank : Nat) (failed : Option Nat)
  /-- BANK_RELOCATED (R283). -/
  | bankRelocated (block : Nat) (bank : Nat) (reps : List (Nat × Nat × Nat × Replica))
  /-- TEST_DUE (R292). -/
  | testDue (block : Nat)
  /-- TEST_DEFER_EXPIRY (R293). -/
  | testDeferExpiry (block : Nat) (target : Option Nat)
  /-- BLOCK_TEST (R291). -/
  | blockTest (block : Nat) (results : List (Nat × Nat))
  /-- BLOCK_FAILURE (R298). -/
  | blockFailure (block : Nat) (fault : BlockFault)
  /-- BLOCK_REMAP_STEER (R298). -/
  | blockRemapSteer (block : Nat) (target : Nat)
  /-- SEQUENCER_HEARTBEAT_MISS (R297). -/
  | sequencerHeartbeatMiss (block : Nat)
  /-- CORE_RESTART (R300). -/
  | coreRestart (core : Nat) (takeover : Nat)
  /-- SP_FAILOVER (R297). -/
  | spFailover (sp : Nat) (core : Nat)
  /-- STACK_LOST (R299). -/
  | stackLost (stack : Nat) (cause : Nat)
  /-- CLOCK_STALL (R33). -/
  | clockStall (domain : Nat) (die : Nat)
  /-- FENCED (R301). -/
  | fenced (cause : Nat) (unitKind : Nat) (unit : Nat)
  /-- EVENT_COALESCE_FLUSH (R307). -/
  | eventCoalesceFlush (key : Nat)
  /-- PLACEMENT_SAMPLE (R258). -/
  | placementSample (ctx : Nat) (measured : List Nat) (add : Option Replica)
  /-- MIGRATION_LOAD_DONE (R245). -/
  | migrationLoadDone (mig : Nat)
  /-- FLOW_HOME_MOVE (R245). -/
  | flowHomeMove (flow : Nat)
  /-- MIGRATION_DONE (R245). -/
  | migrationDone (mig : Nat)
  /-- SHADOW_SWITCH (R23). -/
  | shadowSwitch (ctx : Nat)
  /-- DRAIN_DEADLINE (R457). -/
  | drainDeadline (ctx : Nat)
  /-- MODEL_DRAIN_END (R457). -/
  | modelDrainEnd (ctx : Nat)
  /-- FLOW_REMOVE_DONE (R458). -/
  | flowRemoveDone (flow : Nat)
  /-- RING_POLL (R439). -/
  | ringPoll (fn : Nat) (ring : Nat) (pi : Option Nat) (descs : Bytes)
  /-- DEVICE_RING_CI_POLL (R439). -/
  | deviceRingCiPoll (fn : Nat) (ring : Nat) (ci : Option Nat)
  /-- MSIX_MODERATION_EXPIRY (R442). -/
  | msixModerationExpiry (fn : Nat) (ring : Nat)
  /-- FUNCTION_LEVEL_RESET (R474). -/
  | functionLevelReset (fn : Nat)
  /-- BUS_MASTER_CLEAR (R474). -/
  | busMasterClear (fn : Nat)
  /-- MODEL_LOAD (R456). -/
  | modelLoad (fn : Nat) (arg : Dma) (image : Dma) (place : PlaceChoice)
  /-- MODEL_ENABLE (R457). -/
  | modelEnable (fn : Nat) (arg : Dma)
  /-- MODEL_DISABLE (R457). -/
  | modelDisable (fn : Nat) (arg : Dma)
  /-- MODEL_UNLOAD (R457). -/
  | modelUnload (fn : Nat) (arg : Dma)
  /-- FLOW_CONFIG (R458). -/
  | flowConfig (fn : Nat) (arg : Dma)
  /-- GROUP_CREATE (R459). -/
  | groupCreate (fn : Nat) (arg : Dma) (place : GroupPlace)
  /-- GROUP_MEMBER (R460). -/
  | groupMember (fn : Nat) (arg : Dma)
  /-- GROUP_DELETE (R215). -/
  | groupDelete (fn : Nat) (arg : Dma)
  /-- GROUP_DIGEST (R461). -/
  | groupDigest (fn : Nat) (arg : Dma)
  /-- GROUP_RELEASE (R212). -/
  | groupRelease (fn : Nat) (arg : Dma)
  /-- PORT_PLAN (R462). -/
  | portPlan (fn : Nat) (arg : Dma)
  /-- PORT_CONFIG (R463). -/
  | portConfig (fn : Nat) (arg : Dma)
  /-- ROUTE (R465). -/
  | route (fn : Nat) (arg : Dma)
  /-- TIME_ACTION (R329). -/
  | timeAction (fn : Nat) (arg : Dma)
  /-- TEST_RUN (R461). -/
  | testRun (fn : Nat) (arg : Dma)
  /-- STAKE (R248). -/
  | stake (fn : Nat) (arg : Dma) (moves : List (Nat × Nat))
  /-- STATS (R466). -/
  | stats (fn : Nat) (arg : Dma)
  /-- FW_STAGE (R491). -/
  | fwStage (fn : Nat) (arg : Dma) (image : Dma)
  /-- FW_ACTIVATE (R492). -/
  | fwActivate (fn : Nat) (restarted : Bool)
  /-- FLASH_PROGRAM_DONE (R492). -/
  | flashProgramDone (ok : Bool)
  /-- POWER_STATE (R461). -/
  | powerState (fn : Nat) (arg : Dma)
  /-- TU_INC_COMMIT (R313). -/
  | tuIncCommit (fn : Nat) (value : Nat)
  /-- TU_STEP_ARM (R315). -/
  | tuStepArm (fn : Nat) (value : Nat)
  /-- TU_SNAP_LATCH (R327). -/
  | tuSnapLatch (fn : Nat)
  /-- BL_LANE_CNT_LATCH (R425). -/
  | blLaneCntLatch (fn : Nat) (link : Nat) (lane : Nat)
  /-- TILE_LANE_CNT_LATCH (R428). -/
  | tileLaneCntLatch (fn : Nat) (tile : Nat) (lane : Nat)
  /-- BLOCK_LIVE_LATCH (R528). -/
  | blockLiveLatch (fn : Nat)
  /-- CNT_CLR (R422). -/
  | cntClr (fn : Nat) (lane : LaneRef) (value : Nat)
  /-- INJECT (R422). -/
  | inject (fn : Nat) (lane : LaneRef) (value : Nat)
  /-- TEST_MODE_WRITE (R420). -/
  | testModeWrite (fn : Nat) (lane : LaneRef) (value : Nat)
  /-- PUSH_LEN_WRITE (R481). -/
  | pushLenWrite (fn : Nat) (value : Nat)
  /-- PUSH_IMAGE_DONE (R481). -/
  | pushImageDone (image : Dma)
  /-- PWR_REQ_WRITE (R508). -/
  | pwrReqWrite (fn : Nat) (value : Nat)
  /-- RING_ENABLE (R532). -/
  | ringEnable (fn : Nat) (ring : Nat)
  /-- RING_DISABLE (R533). -/
  | ringDisable (fn : Nat) (ring : Nat)
  /-- QHOLD_WRITE (R537). -/
  | qholdWrite (fn : Nat) (value : Nat)
  /-- QHOLD_SHRINK_DONE (R537). -/
  | qholdShrinkDone
  /-- STANDBY_WRITE (R537). -/
  | standbyWrite (fn : Nat) (value : Nat)
  /-- TEST_INTERVAL_WRITE (R537). -/
  | testIntervalWrite (fn : Nat) (value : Nat)
  /-- TEST_DEFER_WRITE (R537). -/
  | testDeferWrite (fn : Nat) (value : Nat)
  /-- REGISTER_WRITE (R11). -/
  | registerWrite (fn : Nat) (off : Nat) (value : Nat)
  /-- SYS_RESET (R477). -/
  | sysReset
  /-- EFFECTIVE_RELEASE (R551). -/
  | effectiveRelease (bootSrc : Nat) (boardPos : Nat) (profile : Nat)
  /-- BOOT_FLASH (R479). -/
  | bootFlash (config : Option Bytes) (image : Option Bytes)
  /-- BOOT_START_TIMEOUT (R487). -/
  | bootStartTimeout
  /-- VIN_APPLIED (R498). -/
  | vinApplied
  /-- VIN_UV (R503). -/
  | vinUv
  /-- VIN_OV (R503). -/
  | vinOv
  /-- TILE_FAULT (R503). -/
  | tileFault (tile : Nat)
  /-- OVER_TEMP (R503). -/
  | overTemp (kind : Nat) (die : Nat)
  /-- KEEPALIVE_LOSS (R496). -/
  | keepaliveLoss
  /-- TELEMETRY_SAMPLE (R520). -/
  | telemetrySample (sample : Sample)
  /-- STATE_ENTRY (R510). -/
  | stateEntry
  /-- EGRESS_DRAIN_EXPIRY (R510). -/
  | egressDrainExpiry
  /-- STATE_EXIT (R513). -/
  | stateExit
  /-- WAKE_N (R518). -/
  | wakeN
  /-- PCIE_WAKE (R511). -/
  | pcieWake (hostPort : Nat)
  /-- PF_ATTACH_CHANGE (R508). -/
  | pfAttachChange (fn : Nat) (attach : Bool)
  /-- PCIE_LINK_CHANGE (R430). -/
  | pcieLinkChange (hostPort : Nat) (up : Bool)
  /-- CLEAR_FAULTS (R520). -/
  | clearFaults
  /-- STATUS_WORD (R520). -/
  | statusWord
  /-- STATUS_INPUT (R520). -/
  | statusInput
  /-- STATUS_TEMPERATURE (R520). -/
  | statusTemperature
  /-- READ_VIN (R520). -/
  | readVin
  /-- READ_IIN (R520). -/
  | readIin
  /-- READ_PIN (R520). -/
  | readPin
  /-- READ_TEMPERATURE_1 (R520). -/
  | readTemperature1
  /-- READ_TEMPERATURE_2 (R520). -/
  | readTemperature2
  /-- PMBUS_REVISION (R520). -/
  | pmbusRevision
  /-- MFR_STATE (R520). -/
  | mfrState
  /-- MFR_FAULT_RECORD (R521). -/
  | mfrFaultRecord
  /-- MFR_TILE_IIN (R520). -/
  | mfrTileIin
  /-- MFR_SAMPLE (R520). -/
  | mfrSample
  /-- PMBUS_UNSUPPORTED (R519). -/
  | pmbusUnsupported (code : Nat)
  /-- CLOCK_RETURN (R33). -/
  | clockReturn (domain : Nat)
  /-- LASER_LOW (R428). -/
  | laserLow (tile : Nat) (milliwatt : Nat)
  /-- NOTICE_WINDOW (R206). -/
  | noticeWindow (port : Nat) (frame : Bytes)
  /-- NOTICE_FAILED (R202). -/
  | noticeFailed (port : Nat) (frame : Bytes)
  /-- FOLD_TYPE_ILLEGAL (R177). -/
  | foldTypeIllegal (port : Nat) (frame : Bytes)
  /-- BLP_ILLEGAL (R230). -/
  | blpIllegal (link : Nat) (pkt : Bytes)
  /-- BLP_PACKET_DISCARD (R234). -/
  | blpPacketDiscard (link : Nat) (pkt : Bytes) (aborted : Bool) (viol : List Nat)
  /-- APERTURE_ACCESS (R227). -/
  | apertureAccess (fn : Nat) (off : Nat) (len : Nat) (write : Bool)
  /-- BUS_MASTER_SET (R474). -/
  | busMasterSet (fn : Nat)
  /-- WAKE_N_HIGH (R518). -/
  | wakeNHigh
  /-- HBM_TRAINED (R513). -/
  | hbmTrained
  /-- ACTIVATE_MIGRATION_TIMEOUT (R492). -/
  | activateMigrationTimeout
  deriving DecidableEq, Repr

end Sys2Proof
end

