-- ==== Sys2Proof/Decode.lean ====
section
/-! DEFINITION. Words of the table: spec/opcode_table.json gives none of its rows any bits ("fields" is empty in every
row), so no word spells a command. -/

namespace Sys2Proof

/-- The command a table word spells: none, whatever its bits. -/
def decodeTableWord (_nbits _w : Nat) : Option Instr := none

end Sys2Proof
end

