-- ==== Sys2Proof/Config.lean ====
section
/-! DEFINITION. What the manual leaves to the part or to chance: constants without a body, so that
no proof can see their value. -/

namespace Sys2Proof.Config

/-- The random draw of the ECN marker of R390: a number for the n-th draw of a port's generator.
The manual gives the generator's width (32 bits) and no algorithm (log 5). -/
opaque ecnDraw : (port n : Nat) → BitVec 32

/-- SHA-384 of the Ifendahus root key held in the boot ROM (R483 order 2): the manual gives no value
(log 7). -/
opaque rootKeyHash : BitVec 384

/-- Whether tininess is detected before rounding (IEEE 754-2019 leaves the choice to the
implementation; R154 does not make it) (log 8). -/
opaque tinyBeforeRounding : Bool

/-- Whether an ordered compare (FGE, VGE, VLT) of a quiet NaN signals invalid: IEEE 754-2019 has both
predicates and R157 names neither (log 8). -/
opaque orderedCompareSignals : Bool

/-- Whether a rounding conversion to an integer signals inexact: IEEE 754-2019 has both operations and
R157 names neither (log 8). -/
opaque convertSignalsInexact : Bool

/-- Whether a fused multiply-add of zero, infinity and a quiet NaN signals invalid
(IEEE 754-2019 clause 7.2 leaves it to the implementation) (log 8). -/
opaque fmaZeroInfNanInvalid : Bool

/-- What a scalar register holds that nothing has written since the context was bound: the manual gives registers no
value at binding (R150, R154 clears FLAGS only) (log 6). `seed` numbers the binding. -/
opaque vseScalar : (seed reg : Nat) → BitVec 64

/-- As `vseScalar`, for one lane of a vector register (log 6). -/
opaque vseLane : (seed reg lane : Nat) → BitVec 32

/-- As `vseScalar`, for a predicate register p1 to p7 (log 6). -/
opaque vsePred : (seed reg : Nat) → BitVec 256

/-- VSHR of a lane with ET F32: R157 gives a result for U32 and I32 only (log 8). -/
opaque vshrF32 : (x sh : BitVec 32) → BitVec 32

/-- A feature, row element or pooled element an instruction names beyond those the thread has, where the manual states
no result (log 8). -/
opaque beyondRow : (what elem : Nat) → BitVec 32

/-- The LINEAR11 pattern of a quantity in thousandths: PMBus gives several patterns to one value and R520 does not say
which is sent (log 11). -/
opaque linear11 : (milli : Int) → BitVec 16

/-- A byte of a base-die window (R221, R308): the manual gives the regions of a window and not where an entry of a group
or model lies in them (log 26). `n` numbers the reading, `addr` is the offset, with bit 30 for BD1. -/
opaque windowByte : (n addr : Nat) → BitVec 8

/-- The equaliser word of a board-link lane (BL_LANE_EQ) that its adaptation has reached at a CCLK cycle: R409 and R424 give the
fields and no value on a channel (log 135). `lane` is link · 8 + lane. -/
opaque laneEq : (lane cycle : Nat) → BitVec 64

/-- The board inverts the polarity a lane receives (R404, R423; log 135). -/
opaque laneInverted : (lane : Nat) → Bool

/-- Optical power that a tile lane receives at a CCLK cycle, in µW (R428; log 135). `lane` is tile · 64 + lane. -/
opaque rxPower : (lane cycle : Nat) → BitVec 16

/-- Whether every entry that a diagnostic read names belongs to the calling function (log 26). -/
opaque windowOwned : (n fn addr len : Nat) → Bool

end Sys2Proof.Config
end

