-- ==== Sys2Proof/Machine/Crc.lean ====
section
/-! DEFINITION. The check values of the manual: CRC-32 of IEEE 802.3 (R228), CRC-32C (R81), CRC-64 of the
tensor block check (R181), CRC-8 of a training set (R403), PRBS15 (R411), the Internet checksum (R57). -/

namespace Sys2Proof.Machine

/-- One reflected CRC-32 bit step with the reflected polynomial `poly`. -/
def crc32Bit (poly c : BitVec 32) : BitVec 32 :=
  if c.getLsbD 0 then (c >>> 1) ^^^ poly else c >>> 1

/-- One byte into a reflected CRC-32. -/
def crc32Byte (poly c : BitVec 32) (b : Byte) : BitVec 32 :=
  let x := c ^^^ b.setWidth 32
  (List.range 8).foldl (fun a _ => crc32Bit poly a) x

/-- Reflected CRC-32 with all-ones start and final exclusive-or. -/
def crc32With (poly : BitVec 32) (b : Bytes) : BitVec 32 :=
  (b.foldl (crc32Byte poly) 0xFFFFFFFF#32) ^^^ 0xFFFFFFFF#32

/-- CRC-32 with the IEEE 802.3 FCS parameters (R228, R371): polynomial 0x04C1_1DB7, reflected. -/
def crc32 (b : Bytes) : BitVec 32 := crc32With 0xEDB88320#32 b

/-- CRC-32C of RFC 3720 (R81): Castagnoli polynomial 0x1EDC_6F41, reflected. -/
def crc32c (b : Bytes) : BitVec 32 := crc32With 0x82F63B78#32 b

/-- One byte into the CRC-64 of R181, most significant bit first. -/
def crc64Byte (c : BitVec 64) (b : Byte) : BitVec 64 :=
  let x := c ^^^ (b.setWidth 64 <<< 56)
  (List.range 8).foldl
    (fun a _ => if a.getLsbD 63 then (a <<< 1) ^^^ 0x42F0E1EBA9EA3693#64 else a <<< 1) x

/-- The tensor block check value (R181): CRC-64/ECMA-182, start 0, no reflection, no final
exclusive-or. -/
def tbc (b : Bytes) : BitVec 64 := b.foldl crc64Byte 0#64

/-- One byte into the CRC-8 of R403. -/
def crc8Byte (c b : Byte) : Byte :=
  (List.range 8).foldl (fun a _ => if a.getLsbD 7 then (a <<< 1) ^^^ 0x07#8 else a <<< 1) (c ^^^ b)

/-- CRC-8 of a training set (R403): polynomial 0x07, start 0, unreflected. -/
def crc8 (b : Bytes) : Byte := b.foldl crc8Byte 0#8

/-- One bit of the PRBS15 generator x^15 + x^14 + 1 (R411): next register and output bit. -/
def prbs15Bit (r : Nat) : Nat × Bool :=
  let o := (r / 16384 + r / 8192) % 2 == 1
  ((r * 2) % 32768 + b2n o, o)

/-- One byte of the PRBS15 sequence, first bit in bit 0 (R411). -/
def prbs15Byte (r : Nat) : Nat × Byte :=
  let step := fun (a : Nat × Nat) (i : Nat) =>
    let (r', o) := prbs15Bit a.1
    (r', a.2 + b2n o * 2 ^ i)
  let (r', v) := (List.range 8).foldl step (r, 0)
  (r', BitVec.ofNat 8 v)

/-- `n` bytes of the PRBS15 sequence. -/
def prbs15Bytes : Nat → Nat → Nat × Bytes
  | 0, r => (r, [])
  | n + 1, r =>
    let (r', b) := prbs15Byte r
    let (r'', t) := prbs15Bytes n r'
    (r'', b :: t)

/-- One's-complement sum of the 16-bit words of a byte string, the last byte padded with zero. -/
def onesSum : Bytes → Nat
  | [] => 0
  | [a] => a.toNat * 256
  | a :: b :: t =>
    let s := a.toNat * 256 + b.toNat + onesSum t
    if s < 65536 then s else s - 65535

/-- A checksum over the bytes verifies: the one's-complement sum is 0xFFFF. -/
def csumOk (b : Bytes) : Bool := onesSum b == 0xFFFF

/-- The checksum field that makes the bytes (with the field at 0) verify. -/
def csumOf (b : Bytes) : Nat := 0xFFFF - onesSum b

/-- Incremental update of an Internet checksum when a 16-bit word changes from `o` to `n` (R377, R390). -/
def csumUpdate (c o n : Nat) : Nat :=
  let s := (0xFFFF - c) + (0xFFFF - o) + n
  let s1 := s % 65536 + s / 65536
  let s2 := s1 % 65536 + s1 / 65536
  0xFFFF - s2

end Sys2Proof.Machine
end

