-- ==== Sys2Proof/Machine/Float.lean ====
section
/-! DEFINITION. IEEE 754-2019 arithmetic as R154 asks for it: exact values, one rounding to nearest even,
canonical NaN, five sticky conditions; the narrow formats of R137; the functions of R120 and R154
rounded once from their exact value. -/

namespace Sys2Proof.Machine

/-- What a format does above its largest finite value. -/
inductive Specials where
  /-- An all-ones exponent holds infinities and NaNs. -/
  | ieee
  /-- One NaN code per sign and no infinity (E4M3). -/
  | nanOnly
  /-- Neither (E2M3, E3M2, E2M1). -/
  | none
  deriving DecidableEq, Repr

/-- A binary format: exponent bits, fraction bits, exponent of the least subnormal, kind. -/
structure Fmt where
  ebits : Nat
  mbits : Nat
  qmin : Int
  kind : Specials
  deriving DecidableEq, Repr

/-- binary32. -/
def fp32 : Fmt := ⟨8, 23, -149, .ieee⟩
/-- BF16 (R73). -/
def bf16 : Fmt := ⟨8, 7, -133, .ieee⟩
/-- binary16 (R137). -/
def fp16 : Fmt := ⟨5, 10, -24, .ieee⟩
/-- binary64 (R121). -/
def fp64 : Fmt := ⟨11, 52, -1074, .ieee⟩
/-- E4M3 of OCP MX 1.0 (R137). -/
def e4m3 : Fmt := ⟨4, 3, -9, .nanOnly⟩
/-- E5M2 of OCP MX 1.0 (R137). -/
def e5m2 : Fmt := ⟨5, 2, -16, .ieee⟩
/-- E2M3 of OCP MX 1.0 (R137). -/
def e2m3 : Fmt := ⟨2, 3, -3, .none⟩
/-- E3M2 of OCP MX 1.0 (R137). -/
def e3m2 : Fmt := ⟨3, 2, -4, .none⟩
/-- E2M1 of OCP MX 1.0 (R137). -/
def e2m1 : Fmt := ⟨2, 1, -1, .none⟩

/-- Magnitude bits of the infinity code (or of what would be it). -/
def Fmt.infBits (f : Fmt) : Nat := (2 ^ f.ebits - 1) * 2 ^ f.mbits
/-- Magnitude bits of the canonical quiet NaN: 0x7FC0_0000 for binary32 (R154). -/
def Fmt.nanBits (f : Fmt) : Nat :=
  match f.kind with
  | .ieee => f.infBits + 2 ^ (f.mbits - 1)
  | _ => 2 ^ (f.ebits + f.mbits) - 1
/-- Magnitude bits of the largest finite value. -/
def Fmt.maxBits (f : Fmt) : Nat :=
  match f.kind with
  | .ieee => f.infBits - 1
  | .nanOnly => 2 ^ (f.ebits + f.mbits) - 2
  | .none => 2 ^ (f.ebits + f.mbits) - 1
/-- The sign bit's weight. -/
def Fmt.signBit (f : Fmt) : Nat := 2 ^ (f.ebits + f.mbits)
/-- Exponent of the least normal value. -/
def Fmt.emin (f : Fmt) : Int := f.qmin + f.mbits

/-- An exact value: NaN (signalling or not), an infinity, or ± m · 2^e. -/
inductive FV where
  | nan (signalling : Bool)
  | inf (neg : Bool)
  | fin (neg : Bool) (m : Nat) (e : Int)
  deriving DecidableEq, Repr

/-- Reading a bit pattern. -/
def Fmt.decode (f : Fmt) (b : Nat) : FV :=
  let neg := bit b (f.ebits + f.mbits)
  let mag := b % f.signBit
  let frac := mag % 2 ^ f.mbits
  let ex := mag / 2 ^ f.mbits
  if f.kind = .ieee ∧ ex = 2 ^ f.ebits - 1 then
    if frac = 0 then .inf neg else .nan (!(bit frac (f.mbits - 1)))
  else if f.kind = .nanOnly ∧ mag = f.nanBits then .nan false
  else if ex = 0 then .fin neg frac f.qmin
  else .fin neg (2 ^ f.mbits + frac) (f.qmin + ((ex - 1 : Nat) : Int))

/-- The pattern is a NaN. -/
def Fmt.isNan (f : Fmt) (b : Nat) : Bool := match f.decode b with | .nan _ => true | _ => false
/-- The pattern is finite. -/
def Fmt.isFinite (f : Fmt) (b : Nat) : Bool := match f.decode b with | .fin .. => true | _ => false

/-- Conditions of R150: [0] invalid. -/
def fInvalid : Nat := 1
/-- [1] divide by zero. -/
def fDivZero : Nat := 2
/-- [2] overflow. -/
def fOverflow : Nat := 4
/-- [3] underflow. -/
def fUnderflow : Nat := 8
/-- [4] inexact. -/
def fInexact : Nat := 16

/-- 2^i for an integer exponent, as the pair (numerator, denominator). -/
def pow2Q (i : Int) : Nat × Nat := if 0 ≤ i then (2 ^ i.toNat, 1) else (1, 2 ^ (-i).toNat)

/-- floor(log2(num / den)) for positive num and den. -/
def floorLog2Q (num den : Nat) : Int :=
  let k : Int := (num.log2 : Int) - (den.log2 : Int)
  let (a, b) := pow2Q k
  if a * den ≤ num * b then k else k - 1

/-- num / den rounded to an integer, ties to even, and whether that was exact. -/
def divRne (num den : Nat) : Nat × Bool :=
  let q := num / den
  let r := num % den
  if 2 * r < den then (q, r == 0)
  else if 2 * r = den then (if q % 2 = 0 then q else q + 1, false)
  else (q + 1, false)

/-- num / den · 2^e to a multiple of 2^q, ties to even. -/
def scaledRne (num den : Nat) (e q : Int) : Nat × Bool :=
  let (a, b) := pow2Q (e - q)
  divRne (num * a) (den * b)

/-- One rounding to nearest even of ± num / den · 2^e: the magnitude and the conditions. Above the range
an IEEE format gives its infinity; the others saturate (R159). -/
def Fmt.roundMag (f : Fmt) (num den : Nat) (e : Int) : Nat × Nat :=
  if num = 0 then (0, 0)
  else
    let ex := floorLog2Q num den + e
    let q0 := ex - f.mbits
    let q := if q0 < f.qmin then f.qmin else q0
    let (n, exact) := scaledRne num den e q
    let mag := (q - f.qmin).toNat * 2 ^ f.mbits + n
    if f.maxBits < mag then
      (match f.kind with
       | .ieee => (f.infBits, fOverflow + fInexact)
       | _ => (f.maxBits, fOverflow + fInexact))
    else if exact then (mag, 0)
    else
      let before := decide (ex < f.emin)
      let (n', _) := scaledRne num den e q0
      let after := before && !(decide (ex = f.emin - 1) && n' == 2 ^ (f.mbits + 1))
      let tiny := if Config.tinyBeforeRounding then before else after
      (mag, fInexact + (if tiny then fUnderflow else 0))

/-- The value ± num / den · 2^e rounded once, with its conditions; an exact zero keeps the sign given. -/
def Fmt.roundQ (f : Fmt) (neg : Bool) (num den : Nat) (e : Int) : Nat × Nat :=
  let (mag, fl) := f.roundMag num den e
  (b2n neg * f.signBit + mag, fl)

/-- The pattern of a sign and a magnitude. -/
def Fmt.signed (f : Fmt) (neg : Bool) (mag : Nat) : Nat := b2n neg * f.signBit + mag

/-- A value rounded into the format. -/
def Fmt.encode (f : Fmt) (v : FV) : Nat × Nat :=
  match v with
  | .nan s => (f.nanBits, if s then fInvalid else 0)
  | .inf n => (match f.kind with
      | .ieee => (f.signed n f.infBits, 0)
      | _ => (f.signed n f.maxBits, 0))
  | .fin n m e => f.roundQ n m 1 e

/-- Conversion between formats. -/
def cvtFmt (src dst : Fmt) (b : Nat) : Nat × Nat := dst.encode (src.decode b)

/-- The signed integer m · 2^(e − q) for q ≤ e. -/
def alignTo (neg : Bool) (m : Nat) (e q : Int) : Int :=
  let v : Int := ((m * 2 ^ (e - q).toNat : Nat) : Int)
  if neg then -v else v

/-- Exact sum of two finite values; an exact zero is +0 unless both are negative (round to nearest). -/
def addFin (n1 : Bool) (m1 : Nat) (e1 : Int) (n2 : Bool) (m2 : Nat) (e2 : Int) : FV :=
  let q := if e1 < e2 then e1 else e2
  let s := alignTo n1 m1 e1 q + alignTo n2 m2 e2 q
  if s = 0 then .fin (n1 && n2) 0 q else .fin (decide (s < 0)) s.natAbs q

/-- invalid if some operand is a signalling NaN. -/
def snanFlag (l : List FV) : Nat := if l.any (fun v => v == .nan true) then fInvalid else 0

/-- Addition. -/
def Fmt.add (f : Fmt) (a b : Nat) : Nat × Nat :=
  match f.decode a, f.decode b with
  | .nan s, y => (f.nanBits, snanFlag [.nan s, y])
  | x, .nan s => (f.nanBits, snanFlag [x, .nan s])
  | .inf n1, .inf n2 => if n1 = n2 then (f.signed n1 f.infBits, 0) else (f.nanBits, fInvalid)
  | .inf n, .fin .. => (f.signed n f.infBits, 0)
  | .fin .., .inf n => (f.signed n f.infBits, 0)
  | .fin n1 m1 e1, .fin n2 m2 e2 => f.encode (addFin n1 m1 e1 n2 m2 e2)

/-- The pattern with its sign changed. -/
def Fmt.negate (f : Fmt) (b : Nat) : Nat := if bit b (f.ebits + f.mbits) then b - f.signBit else b + f.signBit

/-- Subtraction. -/
def Fmt.sub (f : Fmt) (a b : Nat) : Nat × Nat := f.add a (f.negate (b % (2 * f.signBit)))

/-- Multiplication. -/
def Fmt.mul (f : Fmt) (a b : Nat) : Nat × Nat :=
  match f.decode a, f.decode b with
  | .nan s, y => (f.nanBits, snanFlag [.nan s, y])
  | x, .nan s => (f.nanBits, snanFlag [x, .nan s])
  | .inf n1, .inf n2 => (f.signed (n1 != n2) f.infBits, 0)
  | .inf n1, .fin n2 m _ => if m = 0 then (f.nanBits, fInvalid) else (f.signed (n1 != n2) f.infBits, 0)
  | .fin n1 m _, .inf n2 => if m = 0 then (f.nanBits, fInvalid) else (f.signed (n1 != n2) f.infBits, 0)
  | .fin n1 m1 e1, .fin n2 m2 e2 => f.roundQ (n1 != n2) (m1 * m2) 1 (e1 + e2)

/-- Fused multiply-add a · b + c with one rounding. -/
def Fmt.fma (f : Fmt) (a b c : Nat) : Nat × Nat :=
  let x := f.decode a
  let y := f.decode b
  let z := f.decode c
  let sn := snanFlag [x, y, z]
  match x, y with
  | .nan _, _ => (f.nanBits, sn)
  | _, .nan _ => (f.nanBits, sn)
  | .fin n1 m1 e1, .fin n2 m2 e2 =>
    (match z with
     | .nan _ => (f.nanBits, sn)
     | .inf n => (f.signed n f.infBits, 0)
     | .fin n3 m3 e3 => f.encode (addFin (n1 != n2) (m1 * m2) (e1 + e2) n3 m3 e3))
  | p, r =>
    let zeroInf := (match p, r with
      | .fin _ m _, _ => m == 0
      | _, .fin _ m _ => m == 0
      | _, _ => false)
    let neg := (match p, r with
      | .inf n, .inf n' => n != n'
      | .inf n, .fin n' _ _ => n != n'
      | .fin n _ _, .inf n' => n != n'
      | _, _ => false)
    (match z with
     | .nan s =>
        (f.nanBits, if s then fInvalid else if zeroInf && Config.fmaZeroInfNanInvalid then fInvalid else 0)
     | .inf n => if zeroInf || n != neg then (f.nanBits, fInvalid) else (f.signed neg f.infBits, 0)
     | .fin .. => if zeroInf then (f.nanBits, fInvalid) else (f.signed neg f.infBits, 0))

/-- Division, correctly rounded. -/
def Fmt.div (f : Fmt) (a b : Nat) : Nat × Nat :=
  match f.decode a, f.decode b with
  | .nan s, y => (f.nanBits, snanFlag [.nan s, y])
  | x, .nan s => (f.nanBits, snanFlag [x, .nan s])
  | .inf _, .inf _ => (f.nanBits, fInvalid)
  | .inf n1, .fin n2 _ _ => (f.signed (n1 != n2) f.infBits, 0)
  | .fin n1 _ _, .inf n2 => (f.signed (n1 != n2) 0, 0)
  | .fin n1 m1 e1, .fin n2 m2 e2 =>
    if m2 = 0 then
      (if m1 = 0 then (f.nanBits, fInvalid) else (f.signed (n1 != n2) f.infBits, fDivZero))
    else f.roundQ (n1 != n2) m1 m2 (e1 - e2)

/-- Integer square root by binary digits, from bit `i − 1` down. -/
def isqrtFrom : Nat → Nat → Nat → Nat
  | 0, _, r => r
  | i + 1, n, r => let r' := r + 2 ^ i; if r' * r' ≤ n then isqrtFrom i n r' else isqrtFrom i n r

/-- Integer square root. -/
def isqrt (n : Nat) : Nat := isqrtFrom (n.log2 / 2 + 1) n 0

/-- Square root, correctly rounded. -/
def Fmt.sqrt (f : Fmt) (a : Nat) : Nat × Nat :=
  match f.decode a with
  | .nan s => (f.nanBits, if s then fInvalid else 0)
  | .inf n => if n then (f.nanBits, fInvalid) else (f.infBits, 0)
  | .fin n m e =>
    if m = 0 then (f.signed n 0, 0)
    else if n then (f.nanBits, fInvalid)
    else
      let (m0, e0) := if e % 2 = 0 then (m, e) else (2 * m, e - 1)
      let mm := m0 * 2 ^ 160
      let r := isqrt mm
      let sticky := b2n (r * r != mm)
      f.roundQ false (2 * r + sticky) 1 (e0 / 2 - 81)

/-- A finite value or an infinity as an integer for comparison; both zeros are 0. -/
def Fmt.ordKey (f : Fmt) (b : Nat) : Int :=
  let mag : Int := ((b % f.signBit : Nat) : Int)
  if bit b (f.ebits + f.mbits) then -mag else mag

/-- a ≥ b, false on a NaN (R101, R157). -/
def Fmt.ge (f : Fmt) (a b : Nat) : Bool := !f.isNan a && !f.isNan b && decide (f.ordKey b ≤ f.ordKey a)
/-- a < b, false on a NaN. -/
def Fmt.lt (f : Fmt) (a b : Nat) : Bool := !f.isNan a && !f.isNan b && decide (f.ordKey a < f.ordKey b)
/-- a = b, false on a NaN. -/
def Fmt.eqv (f : Fmt) (a b : Nat) : Bool := !f.isNan a && !f.isNan b && decide (f.ordKey a = f.ordKey b)

/-- The conditions of an ordered compare. -/
def Fmt.cmpFlags (f : Fmt) (a b : Nat) : Nat :=
  let x := f.decode a
  let y := f.decode b
  if snanFlag [x, y] ≠ 0 then fInvalid
  else if (f.isNan a || f.isNan b) && Config.orderedCompareSignals then fInvalid else 0

/-- Minimum of R157: a NaN operand yields the other, −0 orders below +0. -/
def Fmt.min (f : Fmt) (a b : Nat) : Nat × Nat :=
  let fl := snanFlag [f.decode a, f.decode b]
  if f.isNan a then (if f.isNan b then (f.nanBits, fl) else (b, fl))
  else if f.isNan b then (a, fl)
  else if f.ordKey a < f.ordKey b then (a, fl)
  else if f.ordKey b < f.ordKey a then (b, fl)
  else (if bit a (f.ebits + f.mbits) then a else b, fl)

/-- Maximum of R157. -/
def Fmt.max (f : Fmt) (a b : Nat) : Nat × Nat :=
  let fl := snanFlag [f.decode a, f.decode b]
  if f.isNan a then (if f.isNan b then (f.nanBits, fl) else (b, fl))
  else if f.isNan b then (a, fl)
  else if f.ordKey a < f.ordKey b then (b, fl)
  else if f.ordKey b < f.ordKey a then (a, fl)
  else (if bit a (f.ebits + f.mbits) then b else a, fl)

/-- A finite value rounded to an integer, ties to even. -/
def finToIntRne (neg : Bool) (m : Nat) (e : Int) : Int × Bool :=
  let (n, exact) := scaledRne m 1 e 0
  ((if neg then -(n : Int) else (n : Int)), exact)

/-- A finite value truncated toward zero. -/
def finToIntTrunc (neg : Bool) (m : Nat) (e : Int) : Int :=
  let (a, b) := pow2Q e
  let n := m * a / b
  if neg then -(n : Int) else (n : Int)

/-- Conversion to an integer in [lo, hi]: round to nearest even, saturating; a NaN gives 0 and invalid
(R157). -/
def Fmt.toInt (f : Fmt) (lo hi : Int) (b : Nat) : Int × Nat :=
  match f.decode b with
  | .nan _ => (0, fInvalid)
  | .inf n => (if n then lo else hi, fInvalid)
  | .fin n m e =>
    let (i, exact) := finToIntRne n m e
    if i < lo then (lo, fInvalid) else if hi < i then (hi, fInvalid)
    else (i, if !exact && Config.convertSignalsInexact then fInexact else 0)

/-- Conversion from an integer, round to nearest even. -/
def Fmt.ofInt (f : Fmt) (i : Int) : Nat × Nat := f.roundQ (decide (i < 0)) i.natAbs 1 0

/-! Functions rounded from their exact value. A quantity is an integer A with |A − x · 2^w| below
2^32; the working width w doubles until both ends of that interval round alike. -/

/-- Σ z^(2i+1)/(2i+1) from term i, scaled by 2^w, for z = zn/zd. -/
def atanhSeries : Nat → Nat → Nat → Nat → Nat → Nat
  | 0, _, _, _, _ => 0
  | n + 1, i, term, zn2, zd2 => term / (2 * i + 1) + atanhSeries n (i + 1) (term * zn2 / zd2) zn2 zd2

/-- atanh(zn/zd) · 2^w for 0 ≤ z ≤ 1/3. -/
def atanhFix (w zn zd : Nat) : Nat := atanhSeries (w / 3 + 4) 0 (2 ^ w * zn / zd) (zn * zn) (zd * zd)

/-- ln 2 · 2^w. -/
def ln2Fix (w : Nat) : Nat := 2 * atanhFix w 1 3

/-- Taylor sum of e^r, r scaled by 2^w, from term n down. -/
def expTaylor : Nat → Nat → Int → Int → Int
  | 0, _, _, acc => acc
  | n + 1, w, r, acc =>
    let one : Int := ((2 ^ w : Nat) : Int)
    expTaylor n w r (one + (r * acc / one) / ((n + 1 : Nat) : Int))

/-- e^x as (A, k): e^x = A · 2^(k − w) nearly, for x = ± m · 2^e with |x| < 8192. -/
def expFix (w : Nat) (neg : Bool) (m : Nat) (e : Int) : Nat × Int :=
  let (a, b) := pow2Q (e + w)
  let mag : Int := ((m * a / b : Nat) : Int)
  let x := if neg then -mag else mag
  let l : Int := (ln2Fix w : Int)
  let k := (2 * x + l) / (2 * l)
  let r := x - k * l
  let one : Int := ((2 ^ w : Nat) : Int)
  ((expTaylor (w / 4 + 16) w r one).toNat, k)

/-- ln(m · 2^e) · 2^w, nearly, for m > 0. -/
def lnFix (w m : Nat) (e : Int) : Int :=
  let lg := m.log2
  let k := e + lg
  let at2 := 2 * atanhFix w (m - 2 ^ lg) (m + 2 ^ lg)
  k * (ln2Fix w : Int) + (at2 : Int)

/-- The bound on the working error. -/
def fixErr : Nat := 2 ^ 32

/-- Tries working widths until both ends round alike; `lo` and `hi` give the two ends as num/den. -/
def zivLoop (f : Fmt) (neg : Bool) (g : Nat → (Nat × Nat) × (Nat × Nat)) : Nat → Nat → Nat × Nat
  | 0, w => let ((n, d), _) := g w; f.roundQ neg n d 0
  | k + 1, w =>
    let ((n1, d1), (n2, d2)) := g w
    let r1 := f.roundQ neg n1 d1 0
    let r2 := f.roundQ neg n2 d2 0
    if r1 = r2 then r1 else zivLoop f neg g k (2 * w)

/-- A · 2^(k − w) as num/den. -/
def scaleQ (a w : Nat) (k : Int) : Nat × Nat :=
  let (p, q) := pow2Q (k - w)
  (a * p, q)

/-- |x| ≥ 2^13. -/
def isHuge (m : Nat) (e : Int) : Bool := decide (13 ≤ (m.log2 : Int) + e) && m != 0
/-- |x| < 2^−60. -/
def isTiny (m : Nat) (e : Int) : Bool := decide ((m.log2 : Int) + e < -60)

/-- EXP of R120 and R121. -/
def Fmt.exp (f : Fmt) (a : Nat) : Nat × Nat :=
  match f.decode a with
  | .nan s => (f.nanBits, if s then fInvalid else 0)
  | .inf n => if n then (0, 0) else (f.infBits, 0)
  | .fin n m e =>
    if m = 0 then f.roundQ false 1 1 0
    else if isHuge m e then (if n then f.roundQ false 1 1 (-9000) else f.roundQ false 1 1 9000)
    else if isTiny m e then
      (if n then f.roundQ false (2 ^ 64 - 1) 1 (-64) else f.roundQ false (2 ^ 64 + 1) 1 (-64))
    else zivLoop f false (fun w => let (x, k) := expFix w n m e; (scaleQ (x - fixErr) w k, scaleQ (x + fixErr) w k)) 5 192

/-- The natural logarithm, rounded once (R154). -/
def Fmt.log (f : Fmt) (a : Nat) : Nat × Nat :=
  match f.decode a with
  | .nan s => (f.nanBits, if s then fInvalid else 0)
  | .inf n => if n then (f.nanBits, fInvalid) else (f.infBits, 0)
  | .fin n m e =>
    if m = 0 then (f.signed true f.infBits, fDivZero)
    else if n then (f.nanBits, fInvalid)
    else if (e ≤ 0 ∧ m = 2 ^ (-e).toNat) ∨ (m = 1 ∧ e = 0) then (0, 0)
    else
      let neg := decide (lnFix 192 m e < 0)
      zivLoop f neg (fun w => let x := (lnFix w m e).natAbs; (scaleQ (x - fixErr) w 0, scaleQ (x + fixErr) w 0)) 5 192

/-- LOGISTIC of R120: 1 / (1 + e^(−u)), rounded once. -/
def Fmt.logistic (f : Fmt) (a : Nat) : Nat × Nat :=
  match f.decode a with
  | .nan s => (f.nanBits, if s then fInvalid else 0)
  | .inf n => if n then (0, 0) else f.roundQ false 1 1 0
  | .fin n m e =>
    if m = 0 then f.roundQ false 1 2 0
    else if isHuge m e then (if n then f.roundQ false 1 1 (-9000) else f.roundQ false (2 ^ 64 - 1) 1 (-64))
    else if isTiny m e then
      (if n then f.roundQ false (2 ^ 64 - 1) 1 (-65) else f.roundQ false (2 ^ 64 + 1) 1 (-65))
    else
      let ends := fun (w x : Nat) (k : Int) =>
        let (p, q) := pow2Q (w - k)
        if n then (x * q, p + x * q) else (p, p + x * q)
      zivLoop f false (fun w => let (x, k) := expFix w true m e; (ends w (x - fixErr) k, ends w (x + fixErr) k)) 5 192

/-- The hyperbolic tangent, rounded once (R154). -/
def Fmt.tanh (f : Fmt) (a : Nat) : Nat × Nat :=
  match f.decode a with
  | .nan s => (f.nanBits, if s then fInvalid else 0)
  | .inf n => f.roundQ n 1 1 0
  | .fin n m e =>
    if m = 0 then (f.signed n 0, 0)
    else if isHuge m e then f.roundQ n (2 ^ 64 - 1) 1 (-64)
    else if isTiny m e then f.roundQ n (m * 2 ^ 64 - 1) 1 (e - 64)
    else
      let ends := fun (w x : Nat) (k : Int) =>
        let (p, q) := pow2Q (w - k)
        (p - x * q, p + x * q)
      zivLoop f n (fun w => let (x, k) := expFix w true (2 * m) e; (ends w (x - fixErr) k, ends w (x + fixErr) k)) 5 256

/-! Exact sums of binary32 values in units of 2^−149 (R115, R188). -/

/-- A finite binary32 pattern as a multiple of 2^−149. -/
def fixOfFp32 (b : Nat) : Int :=
  match fp32.decode b with
  | .fin n m e => alignTo n m e (-149)
  | _ => 0

/-- An exact sum rounded once; an exact zero gives +0.0 (R115). -/
def fp32OfFix (i : Int) : Nat := (fp32.roundQ (decide (i < 0)) i.natAbs 1 (-149)).1

/-- binary32 addition, the pattern only. -/
def faddBits (a b : Nat) : Nat := (fp32.add a b).1

/-- SOFTMAX of R121 and R122 over binary32 values. -/
def softmax (u : List Nat) : List Nat :=
  let isPInf := fun x => x == fp32.infBits
  let nInf := (u.filter isPInf).length
  let allNInf := u.all (fun x => x == fp32.signed true fp32.infBits)
  if nInf ≠ 0 then
    u.map (fun x => if isPInf x then (fp32.roundQ false 1 nInf 0).1 else 0)
  else if allNInf then u.map (fun _ => (fp32.roundQ false 1 u.length 0).1)
  else
    let mx := u.foldl (fun a x => (fp32.max a x).1) (fp32.signed true fp32.infBits)
    let to64 := fun x => (cvtFmt fp32 fp64 x).1
    let es := u.map (fun x => (fp64.exp (fp64.sub (to64 x) (to64 mx)).1).1)
    let s := match es with
      | [] => 0
      | e0 :: t => t.foldl (fun a x => (fp64.add a x).1) e0
    es.map (fun x => match fp64.decode x, fp64.decode s with
      | .fin _ m1 e1, .fin _ m2 e2 => if m2 = 0 then 0 else (fp32.roundQ false m1 m2 (e1 - e2)).1
      | _, _ => fp32.nanBits)

end Sys2Proof.Machine
end

