-- ==== Sys2Proof/Machine/VseCode.lean ====
section
/-! DEFINITION. The 32-bit instructions of stage programs: formats of R155, fields of R156, the list
of R157. One decoder and one encoder. -/

namespace Sys2Proof.Machine

/-- A decoded stage-program instruction, one constructor per shape of R155. -/
inductive VIns where
  /-- FMT 0, OP[5] 0: register form. -/
  | sca (op sd sa sb : Nat)
  /-- FMT 0, OP[5] 1: immediate form, IMM11 signed. -/
  | imm (op sd sa : Nat) (v : Int)
  /-- MOVK0 to MOVK3. -/
  | movk (h sd v : Nat)
  /-- FMT 1. -/
  | vec (op vd va vb pg et : Nat) (bc : Bool)
  /-- FMT 2 with OFF12 (LDL, LDVL, LDC, STC). -/
  | mem (op rd sa off : Nat)
  /-- FMT 2 with OFF10 and TAG (LDB, LDVB). -/
  | ldb (op rd sa off tag : Nat)
  /-- FMT 2 with VI, SC, PG, TAG (GATHL, GATHB). -/
  | gath (op rd sa vi sc pg tag : Nat)
  /-- FMT 3, OFF18 signed. -/
  | ctl (op sa : Nat) (off : Int)
  /-- FMT 4. -/
  | thr (op rd sa imm : Nat)
  deriving DecidableEq, Repr

/-- Register-form scalar OP values of R157. -/
def scaOps : List Nat := upTo 0x0D ++ (upTo 13).map (· + 0x10)

/-- Immediate-form OP values of R157, MOVK apart. -/
def immOps : List Nat := [0x20, 0x23, 0x24, 0x25, 0x26, 0x27, 0x28, 0x29]

/-- The register form of an immediate form (R157). -/
def immToSca (op : Nat) : Nat :=
  match op with
  | 0x20 => 0x00
  | 0x23 => 0x03
  | 0x24 => 0x04
  | 0x25 => 0x05
  | 0x26 => 0x06
  | 0x27 => 0x07
  | 0x28 => 0x08
  | _ => 0x09

/-- Decodes one instruction word; none for an illegal FMT, OP or ET, or a non-zero reserved bit (R161). -/
def decodeV (w : Nat) : Option VIns :=
  let f := fun hi lo => bitsOf w hi lo
  match f 31 29 with
  | 0 =>
    let op := f 28 23
    let sd := f 22 17
    if 0x3C ≤ op then
      (if f 16 16 = 0 then some (.movk (op - 0x3C) sd (f 15 0)) else none)
    else if immOps.contains op then some (.imm op sd (f 16 11) (sext 11 (f 10 0)))
    else if scaOps.contains op ∧ f 4 0 = 0 then
      (if op = 0x15 ∧ f 10 5 ≠ 0 then none else some (.sca op sd (f 16 11) (f 10 5)))
    else none
  | 1 =>
    let op := f 28 23
    if op ≤ 0x1C ∧ f 1 0 = 0 ∧ f 4 3 ≠ 3 then
      some (.vec op (f 22 18) (f 17 13) (f 12 8) (f 7 5) (f 4 3) (f 2 2 == 1))
    else none
  | 2 =>
    let op := f 28 24
    let rd := f 23 18
    let sa := f 17 12
    if [0, 1, 4, 5].contains op then
      (if op = 1 ∧ 32 ≤ rd then none else some (.mem op rd sa (f 11 0)))
    else if [8, 9].contains op then
      (if op = 9 ∧ 32 ≤ rd then none else some (.ldb op rd sa (f 11 2) (f 1 0)))
    else if [2, 10].contains op then
      (if 32 ≤ rd ∨ (op = 2 ∧ f 1 0 ≠ 0) then none
       else some (.gath op rd sa (f 11 7) (f 6 5) (f 4 2) (f 1 0)))
    else none
  | 3 => if f 28 24 ≤ 8 then some (.ctl (f 28 24) (f 23 18) (sext 18 (f 17 0))) else none
  | 4 =>
    let op := f 28 24
    let rd := f 23 18
    if op ≤ 0x0B then
      (if [2, 6, 7, 8].contains op ∧ 32 ≤ rd then none else some (.thr op rd (f 17 12) (f 11 0)))
    else none
  | _ => none

/-- A decoded instruction whose operands fit their fields and whose OP its format has (R155 to R157, R161). -/
def VIns.legal : VIns → Bool
  | .sca op sd sa sb => scaOps.contains op && decide (sd < 64) && decide (sa < 64) && decide (sb < 64) && (op != 0x15 || sb == 0)
  | .imm op sd sa v => immOps.contains op && decide (sd < 64) && decide (sa < 64) && decide (-1024 ≤ v) && decide (v < 1024)
  | .movk h sd v => decide (h < 4) && decide (sd < 64) && decide (v < 65536)
  | .vec op vd va vb pg et _ => decide (op ≤ 0x1C) && decide (vd < 32) && decide (va < 32) && decide (vb < 32) && decide (pg < 8) &&
      decide (et < 3)
  | .mem op rd sa off => [0, 1, 4, 5].contains op && decide (rd < (if op = 1 then 32 else 64)) && decide (sa < 64) && decide (off < 4096)
  | .ldb op rd sa off tag => [8, 9].contains op && decide (rd < (if op = 9 then 32 else 64)) && decide (sa < 64) &&
      decide (off < 1024) && decide (tag < 4)
  | .gath op rd sa vi sc pg tag => [2, 10].contains op && decide (rd < 32) && decide (sa < 64) && decide (vi < 32) && decide (sc < 4) &&
      decide (pg < 8) && decide (tag < 4) && (op != 2 || tag == 0)
  | .ctl op sa off => decide (op ≤ 8) && decide (sa < 64) && decide (-131072 ≤ off) && decide (off < 131072)
  | .thr op rd sa v => decide (op ≤ 0x0B) && decide (rd < (if [2, 6, 7, 8].contains op then 32 else 64)) && decide (sa < 64) &&
      decide (v < 4096)

/-- The word of an instruction (R155). -/
def encodeV : VIns → Nat
  | .sca op sd sa sb => op * 2 ^ 23 + sd * 2 ^ 17 + sa * 2 ^ 11 + sb * 2 ^ 5
  | .imm op sd sa v => op * 2 ^ 23 + sd * 2 ^ 17 + sa * 2 ^ 11 + wrap 11 v
  | .movk h sd v => (0x3C + h) * 2 ^ 23 + sd * 2 ^ 17 + v
  | .vec op vd va vb pg et bc =>
    2 ^ 29 + op * 2 ^ 23 + vd * 2 ^ 18 + va * 2 ^ 13 + vb * 2 ^ 8 + pg * 2 ^ 5 + et * 2 ^ 3 + b2n bc * 4
  | .mem op rd sa off => 2 * 2 ^ 29 + op * 2 ^ 24 + rd * 2 ^ 18 + sa * 2 ^ 12 + off
  | .ldb op rd sa off tag => 2 * 2 ^ 29 + op * 2 ^ 24 + rd * 2 ^ 18 + sa * 2 ^ 12 + off * 4 + tag
  | .gath op rd sa vi sc pg tag =>
    2 * 2 ^ 29 + op * 2 ^ 24 + rd * 2 ^ 18 + sa * 2 ^ 12 + vi * 2 ^ 7 + sc * 2 ^ 5 + pg * 4 + tag
  | .ctl op sa off => 3 * 2 ^ 29 + op * 2 ^ 24 + sa * 2 ^ 18 + wrap 18 off
  | .thr op rd sa v => 4 * 2 ^ 29 + op * 2 ^ 24 + rd * 2 ^ 18 + sa * 2 ^ 12 + v

/-- The vector registers an instruction names (R156, R157). -/
def VIns.vregs : VIns → List Nat
  | .vec op vd va vb _ _ bc =>
    let b := if bc then [] else [vb]
    if op ≤ 0x06 then [vd, va] ++ b
    else if op ≤ 0x0B then [vd, va]
    else if op ≤ 0x10 then [vd, va] ++ b
    else if op = 0x11 then [vd, va]
    else if op ≤ 0x14 then va :: b
    else if op = 0x15 then [vd, va]
    else if op ≤ 0x17 then [va]
    else if op ≤ 0x1A then []
    else if op = 0x1B then [vd]
    else [vd, va] ++ b
  | .mem op rd _ _ => if op = 1 then [rd] else []
  | .ldb op rd _ _ _ => if op = 9 then [rd] else []
  | .gath _ rd _ vi _ _ _ => [rd, vi]
  | .thr op rd _ _ => if [2, 6, 7, 8].contains op then [rd] else []
  | _ => []

end Sys2Proof.Machine
end

