-- ==== Sys2Proof/Machine/Image.lean ====
section
/-! DEFINITION. The URBM image (R467 to R473, R560 to R562): reading its fields, and the checks of load with
the DETAIL each failure reports. -/

namespace Sys2Proof.Machine

/-- One entry of the section table (R468). -/
structure Sec where
  ty : Nat
  idx : Nat
  off : Nat
  len : Nat
  tbc : Nat
  deriving DecidableEq, Repr, Inhabited

/-- Section entry i, 32 bytes at 0x40 + 32i (R467, R468). -/
def secEntry (b : Bytes) (i : Nat) : Sec :=
  let o := 0x40 + 32 * i
  ⟨le b o 2, le b (o + 2) 2, le b (o + 8) 8, le b (o + 0x10) 8, le b (o + 0x18) 8⟩

/-- NSECT (R467). -/
def nsect (b : Bytes) : Nat := le b 8 4

/-- The section table. -/
def secTable (b : Bytes) : List Sec := (upTo (nsect b)).map (secEntry b)

/-- The section of a type and index. -/
def findSec (b : Bytes) (ty idx : Nat) : Option Sec :=
  (secTable b).find? (fun s => s.ty == ty && s.idx == idx)

/-- The body of a section, empty where the image has none. -/
def secBody (b : Bytes) (ty idx : Nat) : Bytes :=
  match findSec b ty idx with
  | some s => slice b s.off s.len
  | none => []

/-- KIND (R467): 0 TREE, 1 NEURAL. -/
def imgKind (b : Bytes) : Nat := byteAt b 6
/-- BANK_CYC (R467). -/
def imgBankCyc (b : Bytes) : Nat := le b 0x18 2
/-- LANE_CYC (R467). -/
def imgLaneCyc (b : Bytes) : Nat := le b 0x1A 2
/-- SVC (R467). -/
def imgSvc (b : Bytes) : Nat := le b 0x1C 4
/-- LAT_EST (R467). -/
def imgLatEst (b : Bytes) : Nat := le b 0x20 4

/-! PREP (R96, R97) -/

/-- The PREP body. -/
def prepSec (b : Bytes) : Bytes := secBody b 1 0
/-- NPREP. -/
def nprep (p : Bytes) : Nat := le p 2 2
/-- Preparation entry i: 32 bytes. -/
def prepEntry (p : Bytes) (i : Nat) : Bytes := slice p (16 + 32 * i) 32
/-- NAN_POLICY: 0 REJECT, 1 AS_HIGH, 2 AS_LOW. -/
def nanPolicy (p : Bytes) : Nat := byteAt p 4 % 16
/-- HOOK_CYCLES. -/
def hookCycles (p : Bytes) : Nat := le p 6 2
/-- NEDGES. -/
def nedges (p : Bytes) : Nat := le p 8 4
/-- Edge j of the pool. -/
def edgeAt (p : Bytes) (j : Nat) : Nat := le p (16 + 32 * nprep p + 4 * j) 4

/-- KIND of an entry. -/
def peKind (e : Bytes) : Nat := byteAt e 0
/-- CAST_EN. -/
def peCast (e : Bytes) : Bool := bit (byteAt e 1) 0
/-- CAST_DIR: true for I to F. -/
def peCastDir (e : Bytes) : Bool := bit (byteAt e 1) 1
/-- CAST_RND: true for RNE. -/
def peCastRnd (e : Bytes) : Bool := bit (byteAt e 1) 2
/-- SCALE_EN. -/
def peScale (e : Bytes) : Bool := bit (byteAt e 1) 3
/-- CLIP_EN. -/
def peClip (e : Bytes) : Bool := bit (byteAt e 1) 4
/-- BIN_EN. -/
def peBin (e : Bytes) : Bool := bit (byteAt e 1) 5
/-- HOOK_TYPE: true for I. -/
def peHookI (e : Bytes) : Bool := bit (byteAt e 1) 6
/-- SRC_A. -/
def peSrcA (e : Bytes) : Nat := le e 2 2
/-- SRC_B. -/
def peSrcB (e : Bytes) : Nat := le e 4 2
/-- SCALE_A or CROSS_N. -/
def peA (e : Bytes) : Nat := le e 8 4
/-- SCALE_B or SEED. -/
def peB (e : Bytes) : Nat := le e 12 4
/-- CLIP_LO. -/
def peLo (e : Bytes) : Nat := le e 16 4
/-- CLIP_HI. -/
def peHi (e : Bytes) : Nat := le e 20 4
/-- EDGE_OFF. -/
def peEdgeOff (e : Bytes) : Nat := le e 24 2
/-- EDGE_CNT. -/
def peEdgeCnt (e : Bytes) : Nat := le e 26 2

/-- The edges of a BIN step. -/
def peEdges (p e : Bytes) : List Nat := (upTo (peEdgeCnt e)).map (fun j => edgeAt p (peEdgeOff e + j))

/-- ACCEPT of the model (R74): PREP of a tree model, else NNET. -/
def imgAccept (b : Bytes) : Nat :=
  if imgKind b = 0 then byteAt (prepSec b) 5 % 32 else byteAt (secBody b 0x10 0) 5 % 32
/-- NRAW of the model. -/
def imgNraw (b : Bytes) : Nat := if imgKind b = 0 then le (prepSec b) 0 2 else le (secBody b 0x10 0) 2 2
/-- NOUT of the model. -/
def imgNout (b : Bytes) : Nat := if imgKind b = 0 then byteAt (secBody b 2 0) 2 else byteAt (secBody b 0x10 0) 4
/-- SCORE_FMT of the model: true for BF16 (R128, R470). -/
def imgScoreBf16 (b : Bytes) : Bool :=
  if imgKind b = 0 then bit (byteAt (secBody b 2 0) 4) 4 else bit (byteAt (secBody b 0x10 0) 6) 0

/-- The table holds a HOOK entry, which is what having a hook means (R96). -/
def hasHook (p : Bytes) : Bool := (upTo (nprep p)).any (fun i => peKind (prepEntry p i) == 3)

/-- Working type after LOAD: true for I (R73, R96). -/
def acceptI (accept : Nat) : Bool := accept % 4 == 0

/-- Working type after CAST: true for I. -/
def peAfterCast (accept : Nat) (e : Bytes) : Bool :=
  if peCast e then !peCastDir e else acceptI accept

/-- Output type of a prepared feature: true for I (R75, R83). -/
def peOutI (accept : Nat) (e : Bytes) : Bool :=
  match peKind e with
  | 0 => if peBin e then true else peAfterCast accept e
  | 3 => peHookI e
  | _ => true

/-! ENSM, THRS, TDIR, PLST, RULE, LVAL (R128 to R133) -/

/-- The ENSM body. -/
def ensm (b : Bytes) : Bytes := secBody b 2 0
/-- NTREES. -/
def ntrees (b : Bytes) : Nat := le (ensm b) 0 2
/-- COMBINE: true for SUM_ORDERED. -/
def imgOrdered (b : Bytes) : Bool := byteAt (ensm b) 3 % 4 == 1
/-- BASE_FIRST. -/
def baseFirst (b : Bytes) : Bool := bit (byteAt (ensm b) 3) 2
/-- LINK. -/
def imgLink (b : Bytes) : Nat := byteAt (ensm b) 4 % 16
/-- NPRED. -/
def npred (b : Bytes) : Nat := le (ensm b) 8 4
/-- NRULEU. -/
def nruleu (b : Bytes) : Nat := le (ensm b) 12 4
/-- SCALE. -/
def imgScale (b : Bytes) : Nat := le (ensm b) 16 4
/-- NLVAL. -/
def nlval (b : Bytes) : Nat := le (ensm b) 20 4
/-- BASE[j]. -/
def baseAt (b : Bytes) (j : Nat) : Nat := le (ensm b) (32 + 4 * j) 4

/-- PREP of predicate p. -/
def thrPrep (b : Bytes) (p : Nat) : Nat := le (secBody b 3 0) (8 * p) 2
/-- THRESH of predicate p. -/
def thrVal (b : Bytes) (p : Nat) : Nat := le (secBody b 3 0) (8 * p + 4) 4

/-- One tree's directory entry (R130). -/
structure TreeDir where
  plst : Nat
  rule : Nat
  lval : Nat
  rcount : Nat
  pcount : Nat
  gang : Bool
  vec : Bool
  out : Nat
  deriving DecidableEq, Repr, Inhabited

/-- Directory entry of tree t. -/
def treeDir (b : Bytes) (t : Nat) : TreeDir :=
  let d := slice (secBody b 4 0) (24 * t) 24
  ⟨le d 0 4, le d 4 4, le d 8 4, le d 12 2, le d 14 2, bit (byteAt d 16) 0, bit (byteAt d 16) 1, byteAt d 17⟩

/-- The predicates of a tree's key bits, bit 0 first (R131). -/
def treePreds (b : Bytes) (d : TreeDir) : List Nat :=
  (upTo d.pcount).map (fun k => le (secBody b 5 0) (2 * (d.plst + k)) 2)

/-- VALUE and CARE of rule i of a tree (R132). -/
def treeRule (b : Bytes) (d : TreeDir) (i : Nat) : Nat × Nat :=
  let r := secBody b 6 0
  if d.gang then
    let u := 64 * (d.rule + 2 * i)
    (le r u 64, le r (u + 64) 64)
  else
    let u := 64 * (d.rule + i)
    (le r u 32, le r (u + 32) 32)

/-- LVAL[i]. -/
def lvalAt (b : Bytes) (i : Nat) : Nat := le (secBody b 7 0) (4 * i) 4

/-- The leaf values rule i of a tree gives: (output, FP32) pairs (R114). -/
def leafValues (b : Bytes) (d : TreeDir) (i : Nat) : List (Nat × Nat) :=
  let n := imgNout b
  if d.vec then (upTo n).map (fun j => (j, lvalAt b (d.lval + i * n + j)))
  else [(d.out, lvalAt b (d.lval + i))]

/-! PROG (R160, R472) -/

/-- One program header. -/
structure ProgHdr where
  role : Nat
  vregs : Nat
  layer : Nat
  ninstr : Nat
  ldm : Nat
  maxCycles : Nat
  instrOff : Nat
  constOff : Nat
  deriving DecidableEq, Repr, Inhabited

/-- NPROG. -/
def nprog (b : Bytes) : Nat := le (secBody b 8 0) 0 4
/-- Header of program i. -/
def progHdr (b : Bytes) (i : Nat) : ProgHdr :=
  let h := slice (secBody b 8 0) (16 + 32 * i) 32
  ⟨byteAt h 0, byteAt h 1, le h 2 2, le h 4 4, le h 8 4, le h 12 4, le h 16 4, le h 20 4⟩
/-- Instruction word j of a program. -/
def progInstr (b : Bytes) (h : ProgHdr) (j : Nat) : Nat := le (secBody b 8 0) (h.instrOff + 4 * j) 4
/-- The hook's program index (R83). -/
def hookProg (b : Bytes) : Option Nat := (upTo (nprog b)).find? (fun i => (progHdr b i).role == 0)

/-! NNET and ETAB (R470, R471) -/

/-- The NNET body. -/
def nnet (b : Bytes) : Bytes := secBody b 0x10 0
/-- NLAYER. -/
def nlayer (b : Bytes) : Nat := le (nnet b) 0 2
/-- BATCH_WAIT. -/
def batchWait (b : Bytes) : Nat := le (nnet b) 8 4

/-- One layer record. -/
structure Layer where
  lkind : Nat
  afmt : Nat
  wfmt : Nat
  nbag : Nat
  k : Nat
  n : Nat
  woff : Nat
  wlen : Nat
  prog : Nat
  iscale : Nat
  deriving DecidableEq, Repr, Inhabited

/-- Layer record i. -/
def layerAt (b : Bytes) (i : Nat) : Layer :=
  let r := slice (nnet b) (32 + 96 * i) 96
  ⟨byteAt r 0, byteAt r 1, byteAt r 2, byteAt r 3, le r 4 2, le r 6 2, le r 8 8, le r 16 8, le r 24 2, le r 28 4⟩

/-- One embedding bag of a layer (R145). -/
structure BagDesc where
  first : Nat
  max : Nat
  table : Nat
  mean : Bool
  deriving DecidableEq, Repr, Inhabited

/-- Bag j of layer i. -/
def bagAt (b : Bytes) (i j : Nat) : BagDesc :=
  let w := le (nnet b) (32 + 96 * i + 0x20 + 4 * j) 4
  ⟨bitsOf w 9 0, bitsOf w 16 10, bitsOf w 20 17, bit w 21⟩

/-- ROWS of table t. -/
def etabRows (b : Bytes) (t : Nat) : Nat := le (secBody b 0x12 t) 0 4
/-- DIM of table t. -/
def etabDim (b : Bytes) (t : Nat) : Nat := le (secBody b 0x12 t) 4 2
/-- EFMT of table t. -/
def etabFmt (b : Bytes) (t : Nat) : Nat := byteAt (secBody b 0x12 t) 6

/-- Bytes of one row before rounding to 64 (R471). -/
def etabRowBytes (dim fmt : Nat) : Nat :=
  match fmt with
  | 1 => 4 * dim
  | 2 => 2 * dim
  | 3 => dim
  | _ => ceilDiv (ceilDiv dim 32) 4 * 4 + dim

/-- Row stride (R560). -/
def etabStride (dim fmt : Nat) : Nat := ceilDiv (etabRowBytes dim fmt) 64 * 64

/-! Formats of the array (R137): codes of R178, with 0x05 FP16 and 0x06 INT8 (R470). The codes of R178 for the
micro-formats are 0x10 MXFP8 E4M3, 0x11 MXFP8 E5M2, 0x12 MXFP6 E2M3, 0x13 MXFP6 E3M2, 0x14 MXFP4 E2M1. -/

/-- Element bits of an array format code. -/
def elemBits (c : Nat) : Nat :=
  match c with
  | 1 => 32
  | 2 => 16
  | 3 => 8
  | 4 => 8
  | 5 => 16
  | 6 => 8
  | 0x10 => 8
  | 0x11 => 8
  | 0x12 => 6
  | 0x13 => 6
  | 0x14 => 4
  | _ => 0

end Sys2Proof.Machine
end

