-- ==== Sys2Proof/Machine/ImageCheck.lean ====
section
/-! DEFINITION. The load checks of a URBM image in the order of R561: one list of checks, each with the place
it is reported at. -/

namespace Sys2Proof.Machine

/-- One check: the section and offset it is reported at, the other section it involves (0: none) with the
offset reported when that one comes later, whether the place is fixed (R561, last list), and its outcome. -/
structure Chk where
  own : Nat
  off : Nat
  oth : Nat := 0
  ooff : Nat := 0
  fixed : Bool := false
  ok : Bool
  deriving DecidableEq, Repr

/-- Section key: type, with the table number of an ETAB. -/
def secKey (ty idx : Nat) : Nat := ty + 256 * idx

/-- All bytes of a range are zero. -/
def rsv (b : Bytes) (off n : Nat) : Bool := allZero (slice b off n)

/-- A value lies in a range. -/
def inR (x lo hi : Nat) : Bool := decide (lo ≤ x) && decide (x ≤ hi)

/-- ACCEPT is legal: non-zero, one working type, reserved bits zero (R96). -/
def acceptOk (a : Nat) : Bool :=
  a != 0 && decide (a < 32) && (a % 4 == 0 || a / 4 == 0)

/-- Less-than in a prepared type (edges, CLIP bounds). -/
def pLt (isI : Bool) (a b : Nat) : Bool :=
  if isI then decide (sext 32 a < sext 32 b) else fp32.lt a b

/-- Equality by value in a prepared type (R90, R134). -/
def pEq (isI : Bool) (a b : Nat) : Bool := if isI then a == b else fp32.eqv a b

/-- Checks of one preparation entry (R82, R94, R97, R98). -/
def chkPrepEntry (p : Bytes) (acc nraw i : Nat) : List Chk :=
  let e := prepEntry p i
  let o := 16 + 32 * i
  let k := peKind e
  let fl := byteAt e 1
  let chain := k == 0
  let cross := k == 1 || k == 2
  let c := fun d ok => ({ own := 1, off := o + d, ok := ok } : Chk)
  let operand := fun x => decide (x < i) && (peKind (prepEntry p x) == 0 || peKind (prepEntry p x) == 3)
    && peOutI acc (prepEntry p x)
  let castOk := if peCast e then peCastDir e == acceptI acc && !(peCastDir e && peCastRnd e)
    else !peCastDir e && !peCastRnd e
  let ty := peAfterCast acc e
  let sameRaw := ((upTo i).filter (fun j => peKind (prepEntry p j) == 0 && peSrcA (prepEntry p j) == peSrcA e)).length
  let edgeTy := ty
  let edges := if chain && peBin e then
      (upTo (peEdgeCnt e)).map (fun j =>
        let x := edgeAt p (peEdgeOff e + j)
        let okF := edgeTy || fp32.isFinite x
        let asc := j == 0 || pLt edgeTy (edgeAt p (peEdgeOff e + j - 1)) x
        ({ own := 1, off := 16 + 32 * nprep p + 4 * (peEdgeOff e + j), ok := okF && asc } : Chk))
    else []
  [c 0 (decide (k ≤ 3)),
   c 1 (if chain then fl < 64 && castOk && !(peScale e && ty) else if k == 3 then fl == 0 || fl == 64 else fl == 0),
   c 2 (if chain then decide (peSrcA e < nraw) && decide (sameRaw < 16)
        else if cross then operand (peSrcA e) else decide (peSrcA e < 16)),
   c 4 (if cross then operand (peSrcB e) else peSrcB e == 0),
   c 6 (rsv e 6 2),
   c 8 (if chain then (if peScale e then fp32.isFinite (peA e) else peA e == 0)
        else if k == 1 then inR (peA e) 1 65536 else if k == 2 then inR (peA e) 1 16777216 else peA e == 0),
   c 12 (if chain then (if peScale e then fp32.isFinite (peB e) else peB e == 0)
         else if k == 2 then true else peB e == 0),
   c 16 (if chain && peClip e then ty || !fp32.isNan (peLo e) else peLo e == 0),
   c 20 (if chain && peClip e then (ty || !fp32.isNan (peHi e)) && !pLt ty (peHi e) (peLo e) else peHi e == 0),
   c 24 (if chain && peBin e then decide (peEdgeOff e < nedges p) else peEdgeOff e == 0),
   c 26 (if chain && peBin e then inR (peEdgeCnt e) 1 4096 && decide (peEdgeOff e + peEdgeCnt e ≤ nedges p)
         else peEdgeCnt e == 0),
   c 28 (rsv e 28 4)] ++ edges

/-- Checks of PREP (R94, R96 to R98). -/
def chkPrep (b : Bytes) : List Chk :=
  let p := prepSec b
  let acc := byteAt p 5
  let c := fun d ok => ({ own := 1, off := d, ok := ok } : Chk)
  let agree := if imgKind b = 1 then
      [({ own := 1, off := 0, oth := 0x10, ooff := 2, ok := le p 0 2 == le (nnet b) 2 2 } : Chk),
       ({ own := 1, off := 5, oth := 0x10, ooff := 5, ok := acc == byteAt (nnet b) 5 } : Chk)] else []
  [c 0 (inR (le p 0 2) 1 1024), c 2 (inR (nprep p) 1 1024),
   c 4 (decide (byteAt p 4 ≤ 2)), c 5 (acceptOk acc),
   c 6 ((hookCycles p != 0) == hasHook p && (!hasHook p || ((findSec b 8 0).isSome && (hookProg b).isSome))),
   c 8 (decide (nedges p ≤ 65536)), c 12 (rsv p 12 4)] ++ agree ++
  (upTo (nprep p)).flatMap (chkPrepEntry p acc (le p 0 2))

/-- Checks of ENSM (R127, R128, R134). -/
def chkEnsm (b : Bytes) : List Chk :=
  let s := ensm b
  let c := fun d ok => ({ own := 2, off := d, ok := ok } : Chk)
  let nout := byteAt s 2
  [c 0 (inR (le s 0 2) 1 16384), c 2 (inR nout 1 64), c 3 (decide (byteAt s 3 % 4 ≤ 1) && decide (byteAt s 3 < 8)),
   c 4 (decide (byteAt s 4 % 16 ≤ 3) && !(byteAt s 4 % 16 == 3 && nout == 1) && decide (byteAt s 4 < 32)),
   c 5 (rsv s 5 3), c 8 (decide (npred b ≤ 65536)),
   c 16 (fp32.isFinite (imgScale b) && imgScale b % 2 ^ 31 != 0), c 24 (rsv s 24 8)] ++
  (upTo nout).map (fun j => c (32 + 4 * j) (fp32.isFinite (baseAt b j)))

/-- Checks of THRS (R103, R129, R134). -/
def chkThrs (b : Bytes) : List Chk :=
  let p := prepSec b
  let acc := byteAt p 5
  let isI := fun i => peOutI acc (prepEntry p (thrPrep b i))
  (upTo (npred b)).flatMap (fun i =>
    [{ own := 3, off := 8 * i, oth := 1, ooff := 2, ok := decide (thrPrep b i < nprep p) },
     { own := 3, off := 8 * i + 2, ok := rsv (secBody b 3 0) (8 * i + 2) 2 },
     { own := 3, off := 8 * i + 4, oth := 1, ooff := 2,
       ok := (isI i || fp32.isFinite (thrVal b i)) &&
         !((upTo i).any (fun j => thrPrep b j == thrPrep b i && pEq (isI i) (thrVal b j) (thrVal b i))) }])

/-- Rule units of one rule. -/
def ruleUnits (d : TreeDir) : Nat := if d.gang then 2 else 1

/-- Checks of TDIR (R127, R130, R134). -/
def chkTdir (b : Bytes) : List Chk :=
  (upTo (ntrees b)).flatMap (fun t =>
    let d := treeDir b t
    let raw := slice (secBody b 4 0) (24 * t) 24
    let nl := if d.vec then d.rcount * imgNout b else d.rcount
    [{ own := 4, off := 24 * t + 4, oth := 2, ooff := 12, ok := decide (d.rule + d.rcount * ruleUnits d ≤ nruleu b) },
     { own := 4, off := 24 * t + 8, oth := 2, ooff := 20, ok := decide (d.lval + nl ≤ nlval b) },
     { own := 4, off := 24 * t + 12, ok := inR d.rcount 1 1024 },
     { own := 4, off := 24 * t + 14, ok := decide (d.pcount ≤ 512) },
     { own := 4, off := 24 * t + 16, ok := d.gang == decide (256 < d.pcount) && decide (byteAt raw 16 < 4) },
     { own := 4, off := 24 * t + 17, oth := 2, ooff := 2, ok := if d.vec then d.out == 0 else decide (d.out < imgNout b) },
     { own := 4, off := 24 * t + 18, ok := rsv raw 18 6 }])

/-- Checks of PLST (R131). -/
def chkPlst (b : Bytes) : List Chk :=
  (upTo (ntrees b)).flatMap (fun t =>
    let d := treeDir b t
    let ps := treePreds b d
    (upTo d.pcount).flatMap (fun k =>
      let v := ps.getD k 0
      [{ own := 5, off := 2 * (d.plst + k), oth := 2, ooff := 8, ok := decide (v < npred b) },
       { own := 5, off := 2 * (d.plst + k), oth := 4, ooff := 24 * t, ok := !((ps.take k).contains v) }]))

/-- Two rules have a key bit where both care and their values differ (R110). -/
def rulesDisjoint (r1 r2 : Nat × Nat) : Bool := ((r1.1 ^^^ r2.1) &&& r1.2 &&& r2.2) != 0

/-- Byte offset of rule i of a tree in RULE. -/
def ruleOff (d : TreeDir) (i : Nat) : Nat := 64 * (d.rule + i * ruleUnits d)

/-- Checks of RULE (R110, R127, R132, R134). -/
def chkRule (b : Bytes) : List Chk :=
  (upTo (ntrees b)).flatMap (fun t =>
    let d := treeDir b t
    let kw := if d.gang then 512 else 256
    let rules := (upTo d.rcount).map (treeRule b d)
    let care := rules.map (fun r => popcount kw r.2)
    let per := (upTo d.rcount).flatMap (fun i =>
      let r := rules.getD i (0, 0)
      let o := ruleOff d i
      let half := if d.gang then 64 else 32
      [{ own := 6, off := o, oth := 4, ooff := 24 * t + 4, ok := (r.1 &&& (r.1 ^^^ r.2)) == 0 },
       { own := 6, off := o + half, oth := 4, ooff := 24 * t + 14,
         ok := r.2 / 2 ^ d.pcount == 0 && decide (care.getD i 0 ≤ 32) },
       ({ own := 6, off := o, oth := 4, fixed := true,
          ok := (rules.take i).all (fun q => rulesDisjoint q r) } : Chk)])
    let total := (care.map (fun c => 2 ^ (512 - c))).sum
    per ++ [{ own := 4, off := 24 * t + 12, oth := 6, fixed := true, ok := total == 2 ^ 512 }])

/-- Checks of LVAL: every referenced value is finite (R114, R133, R134). -/
def chkLval (b : Bytes) : List Chk :=
  (upTo (ntrees b)).flatMap (fun t =>
    let d := treeDir b t
    let nl := if d.vec then d.rcount * imgNout b else d.rcount
    (upTo nl).map (fun i =>
      ({ own := 7, off := 4 * (d.lval + i), oth := 4, ooff := 24 * t + 8, ok := fp32.isFinite (lvalAt b (d.lval + i)) } : Chk)))

/-- One instruction of a program is legal for its role (R161). -/
def instrOk (b : Bytes) (h : ProgHdr) (j : Nat) : Bool :=
  match decodeV (progInstr b h j) with
  | none => false
  | some v =>
    v.vregs.all (fun r => decide (r < h.vregs)) &&
    (match v with
     | .ctl op _ off => op == 8 || (decide (0 ≤ (j : Int) + off) && decide ((j : Int) + off < h.ninstr))
     | .thr op _ _ imm =>
       (match op with
        | 0 => h.role == 0 || decide (imm < imgNraw b)
        | 3 => h.role == 0
        | 4 => h.role == 1 && decide (imm % 64 < imgNout b)
        | 6 => h.role == 1
        | 7 => h.role == 1
        | 8 => h.role == 1 && decide (imm % 16 < (layerAt b h.layer).nbag)
        | _ => true)
     | _ => true)

/-- Checks of PROG (R160, R161, R472); `fits` says whether a program finds room in the VSE memories. -/
def chkProg (b : Bytes) (fits : Nat → Bool) : List Chk :=
  let s := secBody b 8 0
  let n := nprog b
  [{ own := 8, off := 0, ok := inR n 1 256 }, { own := 8, off := 4, ok := rsv s 4 12 }] ++
  (upTo n).flatMap (fun i =>
    let h := progHdr b i
    let o := 16 + 32 * i
    let c := fun d ok => ({ own := 8, off := o + d, ok := ok } : Chk)
    [c 0 (decide (h.role ≤ 1) && !(h.role == 0 && (upTo i).any (fun j => (progHdr b j).role == 0))),
     c 1 (inR h.vregs 1 32),
     { own := 8, off := o + 2, oth := 0x10, ooff := 0,
       ok := if h.role = 0 then h.layer == 0 else imgKind b == 1 && decide (h.layer < nlayer b) },
     c 4 (inR h.ninstr 1 16384 && fits i),
     c 8 (decide (h.ldm ≤ 262144)),
     { own := 8, off := o + 12, oth := 1, ooff := 6,
       ok := if h.role = 0 then inR h.maxCycles 1 65535 && h.maxCycles == hookCycles (prepSec b)
         else inR h.maxCycles 1 1000000 },
     c 0x18 (rsv s (o + 0x18) 8)] ++
    (upTo h.ninstr).map (fun j => ({ own := 8, off := h.instrOff + 4 * j, ok := instrOk b h j } : Chk)))

/-- Array formats a layer may use (R137, R470). -/
def arrayFmtOk (c : Nat) : Bool := [2, 3, 4, 5, 6, 0x10, 0x11, 0x12, 0x13, 0x14].contains c

/-- W_FMT goes with A_FMT (R137, R470). -/
def fmtPairOk (a w : Nat) : Bool :=
  a == w || (a == 3 && w == 4) || (a == 4 && w == 3) || (a == 0x10 && w == 0x11) || (a == 0x11 && w == 0x10)

/-- K per row-cycle (R137). -/
def tileK (c : Nat) : Nat := if c = 0x14 then 256 else if c = 2 ∨ c = 5 then 64 else 128
/-- Bytes of one tile, scale bytes included (R137, R470). -/
def tileBytes (c : Nat) : Nat :=
  64 * tileK c * elemBits c / 8 + (if 0x10 ≤ c then 64 * (tileK c / 32) else 0)
/-- Tiles of a K × N matrix. -/
def tilesOf (c k n : Nat) : Nat := ceilDiv k (tileK c) * ceilDiv n 64

/-- Expected W_LEN of a layer (R470). -/
def wlenOf (l : Layer) : Nat :=
  match l.lkind with
  | 1 => tilesOf l.wfmt l.k l.n * tileBytes l.wfmt
  | 2 => 4 * tilesOf l.wfmt l.k l.k * tileBytes l.wfmt
  | _ => 0

/-- Checks of NNET (R145, R149, R470). -/
def chkNnet (b : Bytes) : List Chk :=
  let s := nnet b
  let c := fun d ok => ({ own := 0x10, off := d, ok := ok } : Chk)
  let bagsBefore := fun i => ((upTo i).map (fun j => (layerAt b j).nbag)).sum
  let attBefore := fun i => ((upTo i).filter (fun j => (layerAt b j).lkind == 2)).length
  [c 0 (inR (nlayer b) 1 64), c 2 (inR (le s 2 2) 1 1024), c 4 (inR (byteAt s 4) 1 64), c 5 (acceptOk (byteAt s 5)),
   c 6 (decide (byteAt s 6 ≤ 1)), c 7 (byteAt s 7 == 0), c 12 (rsv s 12 20)] ++
  (upTo (nlayer b)).flatMap (fun i =>
    let l := layerAt b i
    let o := 32 + 96 * i
    let gemm := l.lkind == 1 || l.lkind == 2
    let cc := fun d ok => c (o + d) ok
    [cc 0 (decide (l.lkind ≤ 2) && !(l.lkind == 2 && decide (8 ≤ attBefore i))),
     cc 1 (!gemm || arrayFmtOk l.afmt),
     cc 2 (!gemm || fmtPairOk l.afmt l.wfmt),
     cc 3 (if l.lkind = 0 then inR l.nbag 1 16 && decide (bagsBefore i + l.nbag ≤ 16) else l.nbag == 0),
     cc 4 (if l.lkind = 1 then inR l.k 1 16384 else l.lkind == 0 || inR l.k 1 1024),
     cc 6 (if l.lkind = 1 then inR l.n 1 16384 else l.lkind == 0 || inR l.n 1 256),
     cc 0x10 (l.wlen == wlenOf l),
     { own := 0x10, off := o + 0x18, oth := 8, ooff := 0,
       ok := l.prog == 0xFFFF || (decide (l.prog < nprog b) && (progHdr b l.prog).role == 1 && (progHdr b l.prog).layer == i) },
     cc 0x1A (rsv s (o + 0x1A) 2)] ++
    (upTo 16).map (fun j =>
      let w := le s (o + 0x20 + 4 * j) 4
      let g := bagAt b i j
      cc (0x20 + 4 * j)
        (if j < l.nbag then inR g.max 1 64 && decide (w < 2 ^ 22) && (findSec b 0x12 g.table).isSome
            && decide (g.first + g.max ≤ le s 2 2)
         else w == 0)))

/-- Checks of one embedding table (R144, R471). -/
def chkEtab (b : Bytes) (t : Nat) : List Chk :=
  let s := secBody b 0x12 t
  let c := fun d ok => ({ own := secKey 0x12 t, off := d, ok := ok } : Chk)
  [c 0 (inR (etabRows b t) 1 (2 ^ 26)), c 4 (inR (etabDim b t) 1 1024), c 6 ([1, 2, 3, 0x10].contains (etabFmt b t)),
   c 7 (rsv s 7 57)]

/-- Every content check of the image. -/
def allChks (b : Bytes) (fits : Nat → Bool) : List Chk :=
  (if imgKind b = 0 then chkEnsm b ++ chkThrs b ++ chkTdir b ++ chkPlst b ++ chkRule b ++ chkLval b else chkNnet b) ++
  (if (findSec b 1 0).isSome then chkPrep b else []) ++
  (if (findSec b 8 0).isSome then chkProg b fits else []) ++
  ((secTable b).filter (fun s => s.ty == 0x12)).flatMap (fun s => chkEtab b s.idx)

/-- LENGTH of a section by its contents, and the section it depends on (0: none) (R560). -/
def wantLen (b : Bytes) (s : Sec) : Nat × Nat :=
  let maxL := fun (l : List Nat) => l.foldl max 0
  match s.ty with
  | 1 => (16 + 32 * nprep (prepSec b) + 4 * nedges (prepSec b), 0)
  | 2 => (32 + 4 * imgNout b, 0)
  | 3 => (8 * npred b, 2)
  | 4 => (24 * ntrees b, 2)
  | 5 => (2 * maxL ((upTo (ntrees b)).map (fun t =>
      let d := treeDir b t
      if d.pcount = 0 then 0 else d.plst + d.pcount)), 4)
  | 6 => (64 * nruleu b, 2)
  | 7 => (4 * nlval b, 2)
  | 8 => (max (16 + 32 * nprog b) (maxL ((upTo (nprog b)).map (fun i =>
      let h := progHdr b i
      max (h.instrOff + 4 * h.ninstr) (h.constOff + h.ldm)))), 0)
  | 0x10 => (32 + 96 * nlayer b, 0)
  | 0x11 => (maxL ((upTo (nlayer b)).map (fun i => (layerAt b i).woff + (layerAt b i).wlen)), 0x10)
  | _ => (0x40 + etabRows b s.idx * etabStride (etabDim b s.idx) (etabFmt b s.idx), 0)

/-- DETAIL of INVALID_IMAGE (R473): place and offset, the offset saturating. -/
def imgDetail (place off : Nat) : Nat := place * 2 ^ 24 + min off 0xFFFFFF

/-- The first failing entry of a list of (offset, outcome). -/
def firstBadChk (l : List (Nat × Bool)) : Option Nat := (l.find? (fun p => !p.2)).map (·.1)

/-- Header checks after MAGIC and HDR_TBC, in ascending offset (R561 step 2, R562). -/
def hdrChks (b : Bytes) (argLen : Nat) : List (Nat × Bool) :=
  let kind := imgKind b
  let svcOk := if kind = 0 then
      (if imgOrdered b then imgSvc b == ceilDiv (ntrees b) 16 else imgSvc b == max (imgBankCyc b) (imgLaneCyc b))
    else decide (1 ≤ imgSvc b)
  [(4, le b 4 2 == 1), (6, decide (kind ≤ 1)), (7, byteAt b 7 == 0),
   (8, inR (nsect b) 1 64 && decide (0x40 + 32 * nsect b ≤ argLen)), (12, rsv b 12 4),
   (0x10, le b 0x10 8 == argLen),
   (0x18, if kind = 0 then inR (imgBankCyc b) 1 65535 else imgBankCyc b == 0),
   (0x1A, if kind = 0 then inR (imgLaneCyc b) 1 65535 else imgLaneCyc b == 0),
   (0x1C, svcOk), (0x20, decide (1 ≤ imgLatEst b)), (0x24, rsv b 0x24 0x14)]

/-- A section type the KIND allows (R469). -/
def secAllowed (b : Bytes) (ty : Nat) : Bool :=
  if imgKind b = 0 then
    [1, 2, 3, 4, 5, 6, 7].contains ty || (ty == 8 && hasHook (prepSec b))
  else [1, 8, 0x10, 0x11, 0x12].contains ty

/-- Section-table checks in order (R561 step 3). -/
def tabChks (b : Bytes) (argLen : Nat) : List (Nat × Bool) :=
  let tab := secTable b
  (upTo (nsect b)).flatMap (fun i =>
    let s := tab.getD i default
    let before := tab.take i
    let o := 32 * i
    [(o, secAllowed b s.ty && !(before.any (fun q => q.ty == s.ty && (s.ty != 0x12 || q.idx == s.idx)))),
     (o + 2, if s.ty = 0x12 then decide (s.idx < 16) else s.idx == 0),
     (o + 4, rsv b (0x40 + o + 4) 4),
     (o + 8, s.off % 64 == 0 && decide (0x40 + 32 * nsect b ≤ s.off) && decide (s.off ≤ argLen) &&
        before.all (fun q => decide (s.off + s.len ≤ q.off) || decide (q.off + q.len ≤ s.off))),
     (o + 0x10, decide (s.off + s.len ≤ argLen))])

/-- Section types the KIND requires (R469). -/
def secRequired (b : Bytes) : List Nat :=
  if imgKind b = 0 then [1, 2, 3, 4, 5, 6, 7] ++ (if hasHook (prepSec b) then [8] else []) else [8, 0x10, 0x11]

/-- The first non-zero gap byte (R468). -/
def firstGap (b : Bytes) : Option Nat :=
  let tab := secTable b
  let from0 := 0x40 + 32 * nsect b
  (upTo b.length).find? (fun i => decide (from0 ≤ i) && byteAt b i != 0 &&
    !(tab.any (fun s => decide (s.off ≤ i) && decide (i < s.off + s.len))))

/-- Position of a section key in the table, one past the end if absent. -/
def secPos (b : Bytes) (key : Nat) : Nat :=
  match firstIdx (fun s : Sec => secKey s.ty (if s.ty = 0x12 then s.idx else 0) == key) (secTable b) 0 with
  | some i => i
  | none => nsect b

/-- Step 6 of R561 for section i. -/
def secStage (b : Bytes) (chks : List Chk) (i : Nat) : Option Nat :=
  let s := secEntry b i
  let key := secKey s.ty (if s.ty = 0x12 then s.idx else 0)
  let body := slice b s.off s.len
  let (want, dep) := wantLen b s
  let depLate := dep != 0 && decide (i < secPos b dep)
  let mine := chks.filterMap (fun c =>
    let po := secPos b c.own
    let pt := if c.oth = 0 then po else secPos b c.oth
    if c.oth = 0 ∨ pt ≤ po then
      (if c.own = key then some (c.off, imgDetail po c.off, c.ok) else none)
    else if c.oth = key then
      (if c.fixed then some (2 ^ 32, imgDetail po c.off, c.ok) else some (c.ooff, imgDetail pt c.ooff, c.ok))
    else none)
  let bad := mine.filter (fun m => !m.2.2)
  let firstC := (sortBy (fun m : Nat × Nat × Bool => m.1) bad).head?
  let deferred := (upTo i).find? (fun j =>
    let q := secEntry b j
    let (w, d) := wantLen b q
    d == key && q.len != w)
  if tbc body ≠ BitVec.ofNat 64 s.tbc then some (imgDetail 0xFF (32 * i + 0x18))
  else if !depLate && s.len != want then some (imgDetail 0xFF (32 * i + 0x10))
  else match firstC with
    | some m => some m.2.1
    | none => deferred.map (fun j => imgDetail 0xFF (32 * j + 0x10))

/-- The load check of R473 in the order of R561: the DETAIL of the first failure. -/
def checkImage (b : Bytes) (argLen : Nat) (fits : Nat → Bool) : Option Nat :=
  if argLen < 64 then some (imgDetail 0xFE 0x10)
  else if le b 0 4 ≠ 0x4D425255 then some (imgDetail 0xFE 0)
  else if tbc (b.take 0x38) ≠ BitVec.ofNat 64 (le b 0x38 8) then some (imgDetail 0xFE 0x38)
  else match firstBadChk (hdrChks b argLen) with
    | some o => some (imgDetail 0xFE o)
    | none =>
      match firstBadChk (tabChks b argLen) with
      | some o => some (imgDetail 0xFF o)
      | none =>
        match (secRequired b).find? (fun t => (findSec b t 0).isNone) with
        | some t => some (imgDetail 0xFD t)
        | none =>
          match firstGap b with
          | some o => some (imgDetail 0xFC o)
          | none => (upTo (nsect b)).findSome? (secStage b (allChks b fits))

end Sys2Proof.Machine
end

