-- ==== Sys2Proof/Machine/Mx.lean ====
section
/-! DEFINITION. Conversion into and out of the array and fold formats: FP8, BF16, FP16, INT8 and the MX formats with one
E8M0 scale byte per block of 32 (R137, R159, R178). -/

namespace Sys2Proof.Machine

/-- Element format of a format code; INT8 has none and reads as binary32. -/
def fmtOf (c : Nat) : Fmt :=
  match c with
  | 2 => bf16
  | 3 => e4m3
  | 4 => e5m2
  | 5 => fp16
  | 0x10 => e4m3
  | 0x11 => e5m2
  | 0x12 => e2m3
  | 0x13 => e3m2
  | 0x14 => e2m1
  | _ => fp32

/-- A format with a scale byte per 32 elements. -/
def isMx (c : Nat) : Bool := decide (0x10 ≤ c) && decide (c ≤ 0x14)

/-- Exponent of the largest power of two of an element type. -/
def Fmt.emaxE (f : Fmt) : Int := floorLog2Q (match f.decode f.maxBits with | .fin _ m _ => m | _ => 1) 1 +
  (match f.decode f.maxBits with | .fin _ _ e => e | _ => 0)

/-- A value rounded once to nearest even, saturating to the largest finite magnitude; NaN stays NaN (R159). -/
def Fmt.satEncode (f : Fmt) (v : FV) : Nat :=
  match v with
  | .inf n => f.signed n f.maxBits
  | _ =>
    let r := (f.encode v).1
    if r % f.signBit = f.infBits ∧ f.kind = .ieee then f.signed (f.signBit ≤ r) f.maxBits else r

/-- A value times 2^k. -/
def FV.scale (v : FV) (k : Int) : FV :=
  match v with
  | .fin n m e => .fin n m (e + k)
  | v => v

/-- Exponent of the largest power of two not above a magnitude; none for zero and NaN; an infinity lies above all. -/
def FV.topExp (v : FV) : Option Int :=
  match v with
  | .fin _ m e => if m = 0 then none else some ((Nat.log2 m : Int) + e)
  | .inf _ => some 100000
  | .nan _ => none

/-- The scale byte of a block (R159): 0 for a block of zeros, 0xFF with a NaN, clamped to 0x00 and 0xFE. -/
def mxScale (f : Fmt) (l : List FV) : Nat :=
  if l.any (fun v => match v with | .nan _ => true | _ => false) then 0xFF
  else
    match l.foldl (fun (a : Option Int) v =>
        match a, v.topExp with
        | none, x => x
        | a, none => a
        | some x, some y => some (max x y)) none with
    | none => 0
    | some e => (clampInt (e - f.emaxE + 127) 0 0xFE).toNat

/-- A block of an MX format: its scale byte and its element codes. -/
def mxBlock (f : Fmt) (l : List FV) : Nat × List Nat :=
  let s := mxScale f l
  (s, l.map (fun v => f.satEncode (v.scale (127 - (s : Int)))))

/-- INT8 of an FP32 value (R159): saturate(RNE(x × ISCALE)), the product exact; NaN gives 0. -/
def toInt8 (iscale x : Nat) : Nat :=
  match fp32.decode x, fp32.decode iscale with
  | .fin n1 m1 e1, .fin n2 m2 e2 => wrap 8 (clampInt (finToIntRne (n1 != n2) (m1 * m2) (e1 + e2)).1 (-128) 127)
  | .inf n1, .fin n2 m _ | .fin n1 m _, .inf n2 => if m = 0 then 0 else if n1 != n2 then 0x80 else 0x7F
  | .inf n1, .inf n2 => if n1 != n2 then 0x80 else 0x7F
  | _, _ => 0

/-- FP32 lanes into a layer's input format: element codes and scale bytes (R159). -/
def toInput (fmt iscale : Nat) (l : List Nat) : List Nat × List Nat :=
  if fmt = 6 then (l.map (toInt8 iscale), [])
  else if isMx fmt then
    let bs := (chunks 32 l.length (l.map fp32.decode)).map (mxBlock (fmtOf fmt))
    (bs.flatMap Prod.snd, bs.map Prod.fst)
  else if fmt = 3 || fmt = 4 then (l.map (fun x => (fmtOf fmt).satEncode (fp32.decode x)), [])
  else (l.map (fun x => (cvtFmt fp32 (fmtOf fmt) x).1), [])

/-- What a scale byte does to a chunk's exponent: none makes the chunk NaN (R139). -/
def scaleExp (x : Nat) : Option Int := if x = 0xFF then none else some ((x : Int) - 127)

/-- The exact sum of the products of a chunk; NaN and infinities as IEEE 754-2019 and R141 say. -/
def dotExact (fa fb : Fmt) : List Nat → List Nat → FV
  | a :: as, b :: bs =>
    let p : FV := match fa.decode a, fb.decode b with
      | .nan _, _ => .nan false
      | _, .nan _ => .nan false
      | .inf n, .fin n2 m _ => if m = 0 then .nan false else .inf (n != n2)
      | .fin n m _, .inf n2 => if m = 0 then .nan false else .inf (n != n2)
      | .inf n, .inf n2 => .inf (n != n2)
      | .fin n1 m1 e1, .fin n2 m2 e2 => .fin (n1 != n2) (m1 * m2) (e1 + e2)
    match p, dotExact fa fb as bs with
    | .nan _, _ => .nan false
    | _, .nan _ => .nan false
    | .inf n, .inf n2 => if n == n2 then .inf n else .nan false
    | .inf n, _ => .inf n
    | _, .inf n => .inf n
    | .fin n1 m1 e1, .fin n2 m2 e2 => addFin n1 m1 e1 n2 m2 e2
  | _, _ => .fin false 0 0

/-- A chunk sum as FP32: exact, scaled, rounded once; an exact zero gives +0.0 (R138, R139). -/
def chunkFp32 (fa fb : Fmt) (sa sb : Option Nat) (as bs : List Nat) : Nat :=
  let k : Option Int := match sa, sb with
    | some x, some y => (match scaleExp x, scaleExp y with | some i, some j => some (i + j) | _, _ => none)
    | _, _ => some 0
  match k with
  | none => fp32.nanBits
  | some k =>
    match (dotExact fa fb as bs).scale k with
    | .nan _ => fp32.nanBits
    | .inf n => fp32.signed n fp32.infBits
    | .fin n m e => if m = 0 then 0 else (fp32.roundQ n m 1 e).1

/-- One output element of a floating-point layer: chunk sums added in ascending K order from +0.0 (R138). -/
def dotLayer (fa fb : Fmt) (mx : Bool) : Nat → List Nat → List Nat → List Nat → List Nat → Nat → Nat
  | 0, _, _, _, _, acc => acc
  | n + 1, as, bs, sas, sbs, acc =>
    if as.isEmpty then acc
    else
      let c := chunkFp32 fa fb (if mx then some (sas.headD 0) else none) (if mx then some (sbs.headD 0) else none)
        (as.take 32) (bs.take 32)
      dotLayer fa fb mx n (as.drop 32) (bs.drop 32) sas.tail sbs.tail (faddBits acc c)

/-- One output element of an INT8 layer (R140): exact, wrapping modulo 2^32. -/
def dotInt8 (as bs : List Nat) : Nat :=
  wrap 32 ((as.zip bs).foldl (fun acc p => acc + sext 8 p.1 * sext 8 p.2) 0)

end Sys2Proof.Machine
end

