-- ==== Sys2Proof/Machine/Attention.lean ====
section
/-! DEFINITION. The products of the matrix array: weight tiles, input rows, the columns of a dense layer, and the passes of an
attention layer (R137 to R143, R148, R159, R470). -/

namespace Sys2Proof.Machine

/-- Bits [hi:lo] of a little-endian byte string. -/
def leBits (b : Bytes) (lo n : Nat) : Nat := le b (lo / 8) (n / 8 + 2) / 2 ^ (lo % 8) % 2 ^ n

/-- Column `j` of a K × N weight matrix at an offset of WGHT: element codes and scale bytes in K order. Tiles run over
column tiles first; in a tile, column after column, then the scale bytes in the same order (R470). -/
def weightCol (w : Bytes) (off fmt k n j : Nat) : List Nat × List Nat :=
  let tk := tileK fmt
  let nct := ceilDiv n 64
  let eb := elemBits fmt
  let tile := fun (kt : Nat) => slice w (off + (kt * nct + j / 64) * tileBytes fmt) (tileBytes fmt)
  let col := j % 64
  let part := fun (kt : Nat) =>
    let t := tile kt
    ((upTo tk).map (fun i => leBits t ((col * tk + i) * eb) eb),
     if isMx fmt then (upTo (tk / 32)).map (fun i => byteAt t (64 * tk * eb / 8 + col * (tk / 32) + i)) else [])
  let ps := (upTo (ceilDiv k tk)).map part
  ((ps.flatMap Prod.fst).take k, ps.flatMap Prod.snd)

/-- A thread's array input row: `k` element codes and the scale bytes; an element no PUTA wrote is open (log 8). -/
def inputRow (t : Thread) (fmt k : Nat) : List Nat × List Nat :=
  let chunk := fun (c : Nat) => Tbl.getD t.inRow c ([], [])
  let codes := (upTo k).map (fun e => match (chunk (e / 256)).1[e % 256]? with
    | some v => v
    | none => (Config.beyondRow 3 e).toNat % 2 ^ elemBits fmt)
  let scales := if isMx fmt then (upTo (ceilDiv k 32)).map (fun i => match (chunk (i / 8)).2[i % 8]? with
    | some v => v
    | none => (Config.beyondRow 4 i).toNat % 256) else []
  (codes, scales)

/-- One output element of a layer: a row of the input format with a column of the weight format (R138 to R141). -/
def arrayDot (l : Layer) (k : Nat) (a b : List Nat × List Nat) : Nat :=
  if l.wfmt = 6 then dotInt8 a.1 b.1 else dotLayer (fmtOf l.afmt) (fmtOf l.wfmt) (isMx l.wfmt) k a.1 b.1 a.2 b.2 0

/-- Array outputs as FP32 values: the accumulators of an INT8 layer are integers (R140). -/
def outFp32 (l : Layer) (row : List Nat) : List Nat :=
  if l.wfmt = 6 then row.map (fun v => (fp32.ofInt (sext 32 v)).1) else row

/-- The values of an array input row as FP32, exactly: what another device's array is sent (R231, log 15). -/
def rowValues (l : Layer) (x : List Nat × List Nat) : List Nat :=
  x.1.mapIdx (fun i c =>
    if isMx l.afmt then
      match scaleExp (x.2.getD (i / 32) 0) with
      | none => fp32.nanBits
      | some k => (fp32.encode (((fmtOf l.afmt).decode c).scale k)).1
    else (cvtFmt (fmtOf l.afmt) fp32 c).1)

/-- FP32 values as an array input row of a layer: 256-element chunks (R159). -/
def toRow (l : Layer) (row : List Nat) : Tbl (List Nat × List Nat) :=
  (chunks 256 row.length row).mapIdx (fun i c => (i, toInput l.afmt l.iscale c))

/-! Attention (R143, R149, R470, log 131): K wide, N tokens, heads of 64 columns. -/

/-- Row `r` of `k` elements of a row of element codes and scale bytes. -/
def rowPart (x : List Nat × List Nat) (k r : Nat) : List Nat × List Nat :=
  ((x.1.drop (r * k)).take k, (x.2.drop (r * k / 32)).take (ceilDiv k 32))

/-- Projection `i` (0 query, 1 key, 2 value, 3 output) of `n` token rows, as FP32 values: token after token. -/
def attnProj (img : Bytes) (l : Layer) (i : Nat) (x : List Nat × List Nat) : List Nat :=
  let off := l.woff + i * (tilesOf l.wfmt l.k l.k * tileBytes l.wfmt)
  outFp32 l ((upTo l.n).flatMap (fun r => (upTo l.k).map (fun j =>
    arrayDot l l.k (rowPart x l.k r) (weightCol (secBody img 0x11 0) off l.wfmt l.k l.k j))))

/-- A dynamic tile's column and a row of the thread's own activations, converted as PUTA converts (R143, R159). -/
def dynDot (l : Layer) (a b : List Nat) : Nat := arrayDot l a.length (toInput l.afmt l.iscale a) (toInput l.wfmt l.iscale b)

/-- The scores of an attention layer: head after head, query token after query token, one per key token (R143). -/
def attnScores (l : Layer) (q k : List Nat) : List Nat :=
  let part := fun (x : List Nat) (h r : Nat) => ((x.drop (r * l.k + 64 * h)).take (min 64 (l.k - 64 * h)))
  outFp32 l ((upTo (ceilDiv l.k 64)).flatMap (fun h => (upTo l.n).flatMap (fun i => (upTo l.n).map (fun j =>
    dynDot l (part q h i) (part k h j)))))

/-- What an attention layer delivers: the value product of the weights the LAYER program put into the array input row, through
the output projection (R143). -/
def attnOut (img : Bytes) (l : Layer) (t : Thread) : List Nat :=
  let p := inputRow t l.afmt (ceilDiv l.k 64 * l.n * l.n)
  let ctx := outFp32 l ((upTo l.n).flatMap (fun i => (upTo l.k).map (fun c =>
    arrayDot l l.n (rowPart p l.n (c / 64 * l.n + i))
      (toInput l.wfmt l.iscale ((upTo l.n).map (fun j => t.vals.getD (j * l.k + c) 0))))))
  let rows := (upTo l.n).map (fun r => toInput l.afmt l.iscale ((ctx.drop (r * l.k)).take l.k))
  attnProj img l 3 (rows.flatMap Prod.fst, rows.flatMap Prod.snd)

/-! A layer's output row. -/

/-- Column `j` of a dense layer for one thread: an FP32 pattern, or a 32-bit integer for INT8 (R138 to R141). -/
def layerCol (img : Bytes) (l : Layer) (t : Thread) (j : Nat) : Nat :=
  arrayDot l l.k (inputRow t l.afmt l.k) (weightCol (secBody img 0x11 0) l.woff l.wfmt l.k l.n j)

/-- The output row of a layer for one thread: every column of a dense layer, or the scores of an attention layer. -/
def layerOut (img : Bytes) (l : Layer) (t : Thread) : List Nat :=
  if l.lkind = 2 then
    let x := inputRow t l.afmt (l.k * l.n)
    attnScores l (attnProj img l 0 x) (attnProj img l 1 x)
  else (upTo l.n).map (layerCol img l t)

/-- The value rows of an attention layer, which its LAYER program does not see (R143). -/
def layerVals (img : Bytes) (l : Layer) (t : Thread) : List Nat :=
  if l.lkind = 2 then attnProj img l 2 (inputRow t l.afmt (l.k * l.n)) else []

/-- Columns by which placement divides a layer over blocks: those of a dense layer; any other layer stays whole (R148). -/
def layerCols (img : Bytes) (i : Nat) : Nat := if (layerAt img i).lkind = 1 then (layerAt img i).n else 1

/-- FP32 values into a layer's input row, for what follows without a program (log 12). -/
def passRow (img : Bytes) (k : Nat) (row : List Nat) : Tbl (List Nat × List Nat) := toRow (layerAt img k) row

/-- The layer after one has been passed: its phase, and the row that waits for it (R25, R143, R162). Scores of a run that was not
the last do not count (R164). -/
def nextLayer (t : Thread) (img : Bytes) : Thread :=
  let k := t.layer + 1
  { t with layer := k, phase := if (layerAt img k).lkind = 0 then .bags else .array, outRow := [], bags := [], scores := [],
           parts := [], colRow := [], vals := [] }

end Sys2Proof.Machine
end

