-- ==== Sys2Proof/Machine/Frame.lean ====
section
/-! DEFINITION. The parse graph of R34 over a frame from its destination address to its last FCS byte: Ethernet II,
tags, IPv4 or IPv6, UDP; and building the frames the device sends. -/

namespace Sys2Proof.Machine

/-- The IP header as the parser reads it. -/
structure Ip where
  v6 : Bool
  /-- Header checksum verifies, version and IHL legal. -/
  hdrOk : Bool
  /-- MF or Fragment Offset non-zero. -/
  frag : Bool
  proto : Nat
  src : Nat
  dst : Nat
  tos : Nat
  ttl : Nat
  /-- Offset of the IP header in the frame. -/
  off : Nat
  /-- Offset of the payload in the frame. -/
  l4 : Nat
  /-- Offset just past the IP datagram, as its length field says. -/
  dgEnd : Nat
  flowLabel : Nat
  deriving DecidableEq, Repr, Inhabited

/-- A parsed frame. -/
structure Pkt where
  dmac : Nat
  smac : Nat
  /-- Outer tags, outermost first: (TPID, TCI). -/
  tags : List (Nat × Nat)
  etype : Nat
  /-- Offset of what follows the EtherType. -/
  l3 : Nat
  ip : Option Ip
  deriving DecidableEq, Repr, Inhabited

/-- IPv4 as ::ffff:a.b.c.d (R51). -/
def mapped4 (a : Nat) : Nat := 0xFFFF * 2 ^ 32 + a % 2 ^ 32
/-- The address lies in ::ffff:0:0/96. -/
def isMapped (a : Nat) : Bool := a / 2 ^ 32 == 0xFFFF

/-- Tags under the configured TPIDs, at most two (R34). -/
def parseTags (tpids : List Nat) (f : Bytes) : Nat → Nat → List (Nat × Nat) × Nat
  | 0, off => ([], off)
  | n + 1, off =>
    if tpids.contains (be f off 2) then
      let (t, o) := parseTags tpids f n (off + 4)
      ((be f off 2, be f (off + 2) 2) :: t, o)
    else ([], off)

/-- The IP header at an offset. -/
def parseIp (f : Bytes) (etype off : Nat) : Option Ip :=
  if etype = 0x0800 then
    let ihl := byteAt f off % 16
    let h := slice f off (4 * ihl)
    some { v6 := false,
           hdrOk := byteAt f off / 16 == 4 && decide (5 ≤ ihl) && h.length == 4 * ihl && csumOk h,
           frag := be f (off + 6) 2 % 0x4000 != 0,
           proto := byteAt f (off + 9), src := mapped4 (be f (off + 12) 4), dst := mapped4 (be f (off + 16) 4),
           tos := byteAt f (off + 1), ttl := byteAt f (off + 8), off := off, l4 := off + 4 * ihl,
           dgEnd := off + be f (off + 2) 2, flowLabel := 0 }
  else if etype = 0x86DD then
    some { v6 := true, hdrOk := byteAt f off / 16 == 6 && decide (off + 40 ≤ f.length), frag := false,
           proto := byteAt f (off + 6), src := be f (off + 8) 16, dst := be f (off + 24) 16,
           tos := be f off 2 / 16 % 256, ttl := byteAt f (off + 7), off := off, l4 := off + 40,
           dgEnd := off + 40 + be f (off + 4) 2, flowLabel := be f off 4 % 2 ^ 20 }
  else none

/-- The parse of a frame. -/
def parsePkt (tpids : List Nat) (f : Bytes) : Pkt :=
  let (tags, o) := parseTags tpids f 2 12
  let et := be f o 2
  { dmac := be f 0 6, smac := be f 6 6, tags := tags, etype := et, l3 := o + 2, ip := parseIp f et (o + 2) }

/-- UDP source port. -/
def udpSrc (f : Bytes) (ip : Ip) : Nat := be f ip.l4 2
/-- UDP destination port. -/
def udpDst (f : Bytes) (ip : Ip) : Nat := be f (ip.l4 + 2) 2
/-- UDP length field. -/
def udpLen (f : Bytes) (ip : Ip) : Nat := be f (ip.l4 + 4) 2
/-- UDP checksum field. -/
def udpCsum (f : Bytes) (ip : Ip) : Nat := be f (ip.l4 + 6) 2

/-- FCS of the bytes of a frame, as 4 bytes in wire order. -/
def fcsBytes (f : Bytes) : Bytes := leBytes 4 (crc32 f).toNat
/-- The last four bytes are the FCS of the rest. -/
def fcsOk (f : Bytes) : Bool := decide (4 ≤ f.length) && f.drop (f.length - 4) == fcsBytes (f.take (f.length - 4))
/-- A frame with its FCS, good or stomped (R59, R286), padded to 64 B (R357). -/
def withFcs (good : Bool) (f : Bytes) : Bytes :=
  let b := padTo 60 f
  b ++ (if good then fcsBytes b else (fcsBytes b).map (fun x => x ^^^ 0xFF#8))

/-- UDP payload, up to the UDP length and the frame's end without FCS. -/
def udpPayload (f : Bytes) (ip : Ip) : Bytes :=
  slice f (ip.l4 + 8) (min (udpLen f ip - 8) (f.length - 4 - (ip.l4 + 8)))

/-- The lengths of IP and UDP agree with the frame (commit verdict, 02). -/
def lengthsOk (f : Bytes) (ip : Ip) : Bool :=
  decide (ip.dgEnd + 4 ≤ f.length) && decide (8 ≤ udpLen f ip) && decide (ip.l4 + udpLen f ip ≤ ip.dgEnd)

/-- The pseudo-header of the UDP checksum. -/
def pseudoHdr (v6 : Bool) (src dst len : Nat) : Bytes :=
  if v6 then beBytes 16 src ++ beBytes 16 dst ++ beBytes 4 len ++ beBytes 4 17
  else beBytes 4 (src % 2 ^ 32) ++ beBytes 4 (dst % 2 ^ 32) ++ beBytes 2 17 ++ beBytes 2 len

/-- The UDP checksum verifies; over IPv4 a zero field is not checked (02, R175). -/
def udpSumOk (f : Bytes) (ip : Ip) : Bool :=
  (!ip.v6 && udpCsum f ip == 0) ||
    csumOk (pseudoHdr ip.v6 ip.src ip.dst (udpLen f ip) ++ slice f ip.l4 (udpLen f ip))

/-- Ethernet header with an optional outer tag. -/
def ethHdr (dmac smac : Nat) (tag : Option (Nat × Nat)) (etype : Nat) : Bytes :=
  beBytes 6 dmac ++ beBytes 6 smac ++
  (match tag with | some (p, t) => beBytes 2 p ++ beBytes 2 t | none => []) ++ beBytes 2 etype

/-- IPv4 header: DF set, Identification 0 (R55). -/
def ip4Hdr (src dst tos ttl len : Nat) : Bytes :=
  let h := fun c => beBytes 1 0x45 ++ beBytes 1 tos ++ beBytes 2 (20 + len) ++ beBytes 2 0 ++ beBytes 2 0x4000 ++
    beBytes 1 ttl ++ beBytes 1 17 ++ beBytes 2 c ++ beBytes 4 (src % 2 ^ 32) ++ beBytes 4 (dst % 2 ^ 32)
  h (csumOf (h 0))

/-- IPv6 header. -/
def ip6Hdr (src dst tos ttl len : Nat) : Bytes :=
  beBytes 4 (6 * 2 ^ 28 + tos * 2 ^ 20) ++ beBytes 2 len ++ beBytes 1 17 ++ beBytes 1 ttl ++
    beBytes 16 src ++ beBytes 16 dst

/-- IP header over a UDP datagram of `len` bytes. -/
def ipHdr (v6 : Bool) (src dst tos ttl len : Nat) : Bytes :=
  if v6 then ip6Hdr src dst tos ttl len else ip4Hdr src dst tos ttl len

/-- EtherType of the IP family. -/
def ipEtype (v6 : Bool) : Nat := if v6 then 0x86DD else 0x0800

/-- A UDP datagram whose checksum is computed over the whole (IPv6) or is 0 (IPv4) (R175). -/
def udpDgram (v6 : Bool) (src dst sport dport : Nat) (body : Bytes) : Bytes :=
  let n := 8 + body.length
  let h := fun c => beBytes 2 sport ++ beBytes 2 dport ++ beBytes 2 n ++ beBytes 2 c
  if v6 then
    let c := csumOf (pseudoHdr true src dst n ++ h 0 ++ body)
    h (if c = 0 then 0xFFFF else c) ++ body
  else h 0 ++ body

/-- An address is multicast or broadcast. -/
def macGroup (m : Nat) : Bool := m / 2 ^ 40 % 2 == 1

end Sys2Proof.Machine
end

