-- ==== Sys2Proof/Machine/Counters.lean ====
section
/-! DEFINITION. The counters read by STATS (R466): names as the manual spells them, by scope. -/

namespace Sys2Proof.Machine

/-- Counter names. `devMarginFail` is the device-wide MARGIN_FAIL of R304, `marginFail` the one of a model
context (R136); `pausedNsCls` is PAUSED_NS with a class index (R375). -/
inductive CName where
  -- device: R304
  | hardCorrected | hardLost | eccCorrected | poisonSet | poisonConsumed | dataRestored
  | ruleScrubFix | devMarginFail | fwdHardDrop | testPass | testTransient | testPermanent
  | testDeferred | testSkip | blockRetired | bankRetired | vseRetired | stumpTx
  -- device: R226, R452, R465, R523
  | isoDeny | cpTxDrop | fwdHostDrop | pwrTxDrop | pwrEntry | pwrResNs
  | govWaitNs | throttleNs
  -- port: R375, R395, R429
  | rxOk | txOk | rxRunt | rxOversize | rxFcs | rxBlocked
  | txOversize | txDownDrop | rxPause | txPause | rxPfc | txPfc
  | rxFcIgnored | pausedNs | pausedNsCls | linkDown | lldpBad | wakeDrop
  | fwdFlood | fwdNoRoute | fwdNoPath | fwdTtl | dropCong | dropHeadroom
  | ecnMark | txBytes | replyOverShare | replyDrop | resBytes | fecCw
  | fecCwCorr | fecCwUncorr
  -- board link: R432, R230, R235
  | blTrainFail | blDegrade | blRetrain | blReset | blWarmFail | blDeepEntry
  | blDeepRefused | blMiswire | blExWait | blpIllegal | blpAbort
  -- time unit: R350
  | actLate | actSkipped | actCancelled | pulseOverlap | tinLost | ptpTcUpdated
  | ptpNoadj
  -- model context: R100, R136, R169, R270
  | prepFormat | prepNanReject | prepNanMapped | prepCrossRange | treeNomatch | treeMultimatch
  | scoreOverflow | marginFail | vseExc | embIndex | progRefuse | busyEst
  | busySlot | busyFlow | admitLate
  -- fold group: R217
  | foldTbcFail | foldDup | foldStale | foldAlien | foldWindow | foldMalformed
  | foldBadack | foldWiden | foldSpill | foldCheckFail | foldReplay | foldRange
  | foldRangeIn | foldNonfinite
  -- device: R250
  | stakeTemp
  -- counted without a name: SQF frames dropped (R36 to R38), replies that fell through to the source (R39)
  | sqfDrop | collectorFall
  deriving DecidableEq, Repr, Inhabited

/-- What STATS needs of a counter: SCOPE of R466, name, and its index range if it is one per class or state. -/
structure CSpec where
  code : Nat
  scope : Nat
  name : String
  idx : Option (Nat × Nat) := none
  deriving DecidableEq, Repr, Inhabited

/-- SCOPE of a count to which the manual gives no name: no STATS command reads it (log 54). -/
def unnamedScope : Nat := 255

/-- The specification of each counter; `code` numbers them in the order of the list above. -/
def CName.spec : CName → CSpec
  | .hardCorrected => ⟨0, 0, "HARD_CORRECTED", none⟩
  | .hardLost => ⟨1, 0, "HARD_LOST", none⟩
  | .eccCorrected => ⟨2, 0, "ECC_CORRECTED", none⟩
  | .poisonSet => ⟨3, 0, "POISON_SET", none⟩
  | .poisonConsumed => ⟨4, 0, "POISON_CONSUMED", none⟩
  | .dataRestored => ⟨5, 0, "DATA_RESTORED", none⟩
  | .ruleScrubFix => ⟨6, 0, "RULE_SCRUB_FIX", none⟩
  | .devMarginFail => ⟨7, 0, "MARGIN_FAIL", none⟩
  | .fwdHardDrop => ⟨8, 0, "FWD_HARD_DROP", none⟩
  | .testPass => ⟨9, 0, "TEST_PASS", none⟩
  | .testTransient => ⟨10, 0, "TEST_TRANSIENT", none⟩
  | .testPermanent => ⟨11, 0, "TEST_PERMANENT", none⟩
  | .testDeferred => ⟨12, 0, "TEST_DEFERRED", none⟩
  | .testSkip => ⟨13, 0, "TEST_SKIP", none⟩
  | .blockRetired => ⟨14, 0, "BLOCK_RETIRED", none⟩
  | .bankRetired => ⟨15, 0, "BANK_RETIRED", none⟩
  | .vseRetired => ⟨16, 0, "VSE_RETIRED", none⟩
  | .stumpTx => ⟨17, 0, "STUMP_TX", none⟩
  | .isoDeny => ⟨18, 0, "ISO_DENY", none⟩
  | .cpTxDrop => ⟨19, 0, "CP_TX_DROP", none⟩
  | .fwdHostDrop => ⟨20, 0, "FWD_HOST_DROP", none⟩
  | .pwrTxDrop => ⟨21, 0, "PWR_TX_DROP", none⟩
  | .pwrEntry => ⟨22, 0, "PWR_ENTRY", some (1, 4)⟩
  | .pwrResNs => ⟨23, 0, "PWR_RES_NS", some (1, 4)⟩
  | .govWaitNs => ⟨24, 0, "GOV_WAIT_NS", none⟩
  | .throttleNs => ⟨25, 0, "THROTTLE_NS", none⟩
  | .rxOk => ⟨26, 1, "RX_OK", none⟩
  | .txOk => ⟨27, 1, "TX_OK", none⟩
  | .rxRunt => ⟨28, 1, "RX_RUNT", none⟩
  | .rxOversize => ⟨29, 1, "RX_OVERSIZE", none⟩
  | .rxFcs => ⟨30, 1, "RX_FCS", none⟩
  | .rxBlocked => ⟨31, 1, "RX_BLOCKED", none⟩
  | .txOversize => ⟨32, 1, "TX_OVERSIZE", none⟩
  | .txDownDrop => ⟨33, 1, "TX_DOWN_DROP", none⟩
  | .rxPause => ⟨34, 1, "RX_PAUSE", none⟩
  | .txPause => ⟨35, 1, "TX_PAUSE", none⟩
  | .rxPfc => ⟨36, 1, "RX_PFC", some (0, 7)⟩
  | .txPfc => ⟨37, 1, "TX_PFC", some (0, 7)⟩
  | .rxFcIgnored => ⟨38, 1, "RX_FC_IGNORED", none⟩
  | .pausedNs => ⟨39, 1, "PAUSED_NS", none⟩
  | .pausedNsCls => ⟨40, 1, "PAUSED_NS", some (0, 7)⟩
  | .linkDown => ⟨41, 1, "LINK_DOWN", none⟩
  | .lldpBad => ⟨42, 1, "LLDP_BAD", none⟩
  | .wakeDrop => ⟨43, 1, "WAKE_DROP", none⟩
  | .fwdFlood => ⟨44, 1, "FWD_FLOOD", none⟩
  | .fwdNoRoute => ⟨45, 1, "FWD_NO_ROUTE", none⟩
  | .fwdNoPath => ⟨46, 1, "FWD_NO_PATH", none⟩
  | .fwdTtl => ⟨47, 1, "FWD_TTL", none⟩
  | .dropCong => ⟨48, 1, "DROP_CONG", some (0, 7)⟩
  | .dropHeadroom => ⟨49, 1, "DROP_HEADROOM", some (0, 7)⟩
  | .ecnMark => ⟨50, 1, "ECN_MARK", some (0, 7)⟩
  | .txBytes => ⟨51, 1, "TX_BYTES", some (0, 7)⟩
  | .replyOverShare => ⟨52, 1, "REPLY_OVER_SHARE", none⟩
  | .replyDrop => ⟨53, 1, "REPLY_DROP", none⟩
  | .resBytes => ⟨54, 1, "RES_BYTES", none⟩
  | .fecCw => ⟨55, 1, "FEC_CW", none⟩
  | .fecCwCorr => ⟨56, 1, "FEC_CW_CORR", none⟩
  | .fecCwUncorr => ⟨57, 1, "FEC_CW_UNCORR", none⟩
  | .blTrainFail => ⟨58, 3, "BL_TRAIN_FAIL", none⟩
  | .blDegrade => ⟨59, 3, "BL_DEGRADE", none⟩
  | .blRetrain => ⟨60, 3, "BL_RETRAIN", none⟩
  | .blReset => ⟨61, 3, "BL_RESET", none⟩
  | .blWarmFail => ⟨62, 3, "BL_WARM_FAIL", none⟩
  | .blDeepEntry => ⟨63, 3, "BL_DEEP_ENTRY", none⟩
  | .blDeepRefused => ⟨64, 3, "BL_DEEP_REFUSED", none⟩
  | .blMiswire => ⟨65, 3, "BL_MISWIRE", none⟩
  | .blExWait => ⟨66, 3, "BL_EX_WAIT", none⟩
  | .blpIllegal => ⟨67, 3, "BLP_ILLEGAL", none⟩
  | .blpAbort => ⟨68, 3, "BLP_ABORT", none⟩
  | .actLate => ⟨69, 4, "ACT_LATE", none⟩
  | .actSkipped => ⟨70, 4, "ACT_SKIPPED", none⟩
  | .actCancelled => ⟨71, 4, "ACT_CANCELLED", none⟩
  | .pulseOverlap => ⟨72, 4, "PULSE_OVERLAP", none⟩
  | .tinLost => ⟨73, 4, "TIN_LOST", none⟩
  | .ptpTcUpdated => ⟨74, 4, "PTP_TC_UPDATED", none⟩
  | .ptpNoadj => ⟨75, 4, "PTP_NOADJ", none⟩
  | .prepFormat => ⟨76, 5, "PREP_FORMAT", none⟩
  | .prepNanReject => ⟨77, 5, "PREP_NAN_REJECT", none⟩
  | .prepNanMapped => ⟨78, 5, "PREP_NAN_MAPPED", none⟩
  | .prepCrossRange => ⟨79, 5, "PREP_CROSS_RANGE", none⟩
  | .treeNomatch => ⟨80, 5, "TREE_NOMATCH", none⟩
  | .treeMultimatch => ⟨81, 5, "TREE_MULTIMATCH", none⟩
  | .scoreOverflow => ⟨82, 5, "SCORE_OVERFLOW", none⟩
  | .marginFail => ⟨83, 5, "MARGIN_FAIL", none⟩
  | .vseExc => ⟨84, 5, "VSE_EXC", none⟩
  | .embIndex => ⟨85, 5, "EMB_INDEX", none⟩
  | .progRefuse => ⟨86, 5, "PROG_REFUSE", none⟩
  | .busyEst => ⟨87, 5, "BUSY_EST", none⟩
  | .busySlot => ⟨88, 5, "BUSY_SLOT", none⟩
  | .busyFlow => ⟨89, 5, "BUSY_FLOW", none⟩
  | .admitLate => ⟨90, 5, "ADMIT_LATE", none⟩
  | .foldTbcFail => ⟨91, 6, "FOLD_TBC_FAIL", none⟩
  | .foldDup => ⟨92, 6, "FOLD_DUP", none⟩
  | .foldStale => ⟨93, 6, "FOLD_STALE", none⟩
  | .foldAlien => ⟨94, 6, "FOLD_ALIEN", none⟩
  | .foldWindow => ⟨95, 6, "FOLD_WINDOW", none⟩
  | .foldMalformed => ⟨96, 6, "FOLD_MALFORMED", none⟩
  | .foldBadack => ⟨97, 6, "FOLD_BADACK", none⟩
  | .foldWiden => ⟨98, 6, "FOLD_WIDEN", none⟩
  | .foldSpill => ⟨99, 6, "FOLD_SPILL", none⟩
  | .foldCheckFail => ⟨100, 6, "FOLD_CHECK_FAIL", none⟩
  | .foldReplay => ⟨101, 6, "FOLD_REPLAY", none⟩
  | .foldRange => ⟨102, 6, "FOLD_RANGE", none⟩
  | .foldRangeIn => ⟨103, 6, "FOLD_RANGE_IN", none⟩
  | .foldNonfinite => ⟨104, 6, "FOLD_NONFINITE", none⟩
  | .stakeTemp => ⟨105, 0, "STAKE_TEMP", none⟩
  | .sqfDrop => ⟨106, unnamedScope, "", none⟩
  | .collectorFall => ⟨107, unnamedScope, "", none⟩

/-- Every counter that STATS reads, in the order it lists them. -/
def allCounters : List CName :=
  [.hardCorrected, .hardLost, .eccCorrected, .poisonSet, .poisonConsumed, .dataRestored, .ruleScrubFix, .devMarginFail, .fwdHardDrop, .testPass, .testTransient, .testPermanent] ++
  [.testDeferred, .testSkip, .blockRetired, .bankRetired, .vseRetired, .stumpTx, .isoDeny, .cpTxDrop, .fwdHostDrop, .pwrTxDrop, .pwrEntry, .pwrResNs] ++
  [.govWaitNs, .throttleNs, .rxOk, .txOk, .rxRunt, .rxOversize, .rxFcs, .rxBlocked, .txOversize, .txDownDrop, .rxPause, .txPause] ++
  [.rxPfc, .txPfc, .rxFcIgnored, .pausedNs, .pausedNsCls, .linkDown, .lldpBad, .wakeDrop, .fwdFlood, .fwdNoRoute, .fwdNoPath, .fwdTtl] ++
  [.dropCong, .dropHeadroom, .ecnMark, .txBytes, .replyOverShare, .replyDrop, .resBytes, .fecCw, .fecCwCorr, .fecCwUncorr, .blTrainFail, .blDegrade] ++
  [.blRetrain, .blReset, .blWarmFail, .blDeepEntry, .blDeepRefused, .blMiswire, .blExWait, .blpIllegal, .blpAbort, .actLate, .actSkipped, .actCancelled] ++
  [.pulseOverlap, .tinLost, .ptpTcUpdated, .ptpNoadj, .prepFormat, .prepNanReject, .prepNanMapped, .prepCrossRange, .treeNomatch, .treeMultimatch, .scoreOverflow, .marginFail] ++
  [.vseExc, .embIndex, .progRefuse, .busyEst, .busySlot, .busyFlow, .admitLate, .foldTbcFail, .foldDup, .foldStale, .foldAlien, .foldWindow] ++
  [.foldMalformed, .foldBadack, .foldWiden, .foldSpill, .foldCheckFail, .foldReplay, .foldRange, .foldRangeIn, .foldNonfinite, .stakeTemp]

/-- Key of a counter in the counter table: its number, the object's number and its own index. -/
def cntKey (c : CName) (obj i : Nat) : Nat := (c.spec.code * 2 ^ 17 + obj) * 16 + i

/-- The value of a counter; an unlisted counter is 0 (R304). -/
def cntGet (t : Tbl Nat) (c : CName) (obj : Nat) (i : Nat := 0) : Nat := Tbl.getD t (cntKey c obj i) 0

/-- A counter moves on by `n`; it is 64 bits wide and never wraps (R304). -/
def cntAdd (t : Tbl Nat) (c : CName) (obj n : Nat) (i : Nat := 0) : Tbl Nat :=
  Tbl.putD 0 t (cntKey c obj i) (sat64 (cntGet t c obj i + n))

end Sys2Proof.Machine
end

