-- ==== Sys2Proof/Machine/FoldState.lean ====
section
/-! DEFINITION. State of fold groups (chapter 06) and of the board space: BLP and regions (chapter 07). -/

namespace Sys2Proof.Machine

/-- A member of a group on this device (R170). -/
structure Member where
  /-- True for a CHILD. -/
  child : Bool
  /-- Logical port, or 65536 + link for a board link (R230). -/
  port : Nat
  udp : Nat
  replica : Nat
  addr : Nat
  /-- First step it contributes to. -/
  fromStep : Nat := 0
  /-- Step from which it is removed or expelled. -/
  untilStep : Option Nat := none
  /-- Planned port while moved to another path (R254). -/
  planned : Option Nat := none
  /-- Time of the last NOTICE HOLD answered to it (R212). -/
  holdAt : Option Nat := none
  deriving DecidableEq, Repr, Inhabited

/-- One element in flight (R189): the window, and the side entry once WIDE. -/
structure Elem where
  anchored : Bool := false
  wide : Bool := false
  /-- SPEC: 0 none, 1 +∞, 2 −∞, 3 NaN or both. -/
  spec : Nat := 0
  anchor : Nat := 0
  window : Int := 0
  /-- 320-bit frame sum of the side entry, and the entry's number in the side table of its base die (R191). -/
  side : Int := 0
  idx : Nat := 0
  deriving DecidableEq, Repr, Inhabited

/-- A held contribution: UDP payload, and whether it has been added. -/
structure Held where
  member : Nat
  sub : Nat
  payload : Bytes
  added : Bool := true
  /-- The held copy is poisoned or corrupt (R202). -/
  damaged : Bool := false
  deriving DecidableEq, Repr, Inhabited

/-- How far a block is (R193 to R203). -/
inductive BlkSt where
  /-- Collecting contributions. -/
  | gathering
  /-- Complete; its RESULT waits for step order (R205). -/
  | ready
  /-- Emitting; the check has not answered. -/
  | emitting
  /-- Emitted and checked; waiting for acknowledgements. -/
  | sent
  | committed
  deriving DecidableEq, Repr, Inhabited

/-- A block in flight, keyed by its position STEP · NBLK + BLOCK. -/
structure FBlock where
  st : BlkSt := .gathering
  held : List Held := []
  elems : Tbl Elem := []
  /-- Its entries are in the spill area of HBM (R192). -/
  spilled : Bool := false
  /-- Accumulator slots taken on the base die under its accumulating block; slot k holds elements 1,024k onward (R192). -/
  slots : List Nat := []
  /-- Accumulating block. -/
  acc : Nat := 0
  /-- Order of opening. -/
  opened : Nat := 0
  /-- A RESULT or PARTIAL frame has left (REPLAY). -/
  left : Bool := false
  /-- RESULT held: header and body with TBC; and whether its cells are poisoned (R202, R277). -/
  result : Option Bytes := none
  resultBad : Bool := false
  /-- Members that have acknowledged. -/
  acks : List Nat := []
  /-- Consecutive check failures on this accumulating block: range kind and failing elements. -/
  lastFail : Option (Bool × List Nat) := none
  /-- The next frame is delivered with RANGE (R201). -/
  range : Bool := false
  /-- Time of the last RESEND_RESULT sent (R204). -/
  askedAt : Option Nat := none
  deriving DecidableEq, Repr, Inhabited

/-- The block's sum is not out yet: it still needs its accumulating block. -/
def FBlock.pending (f : FBlock) : Bool := f.st == .gathering || f.st == .ready || f.st == .emitting

/-- A fold group (R170). States: 0 ACTIVE, 1 DEGRADED, 2 HOLD, 3 FAILED (R213). -/
structure Group where
  owner : Nat := 0
  gen : Nat := 0
  inFmt : Nat := 1
  outFmt : Nat := 1
  nelem : Nat := 1
  root : Bool := true
  /-- Level in the tree, 0 at the root (R171). -/
  level : Nat := 0
  nreplica : Nat := 0
  window : Nat := 64
  expLo : Int := -149
  expHi : Int := 127
  tc : Nat := 0
  pmember : Nat := 0
  parentPort : Nat := 0
  /-- Planned parent port while the parent is reached on another path (R254). -/
  parentPlanned : Option Nat := none
  parentUdp : Nat := 0
  parentAddr : Nat := 0
  /-- Reservations: port to (transmit, receive) in Gb/s. -/
  res : Tbl (Nat × Nat) := []
  k : Nat := 0
  digestLen : Nat := 32
  digestWait : Nat := 1000
  /-- K, DIGEST_LEN and DIGEST_WAIT from the next step boundary on (R21, R461). -/
  nextDigest : Option (Nat × Nat × Nat) := none
  members : Tbl Member := []
  accBlocks : List Nat := []
  st : Nat := 0
  /-- Step before which a HOLD stops the group. -/
  holdStep : Nat := 0
  /-- Cause of the HOLD or DEGRADED state: CAUSE of GROUP_STATE. -/
  cause : Nat := 0
  /-- C: position of the oldest uncommitted block (R206). -/
  oldest : Nat := 0
  blocks : Tbl FBlock := []
  /-- Newest position a result has been emitted for (R210). -/
  newest : Option Nat := none
  /-- Digests of a step: replica to bytes, and when the first arrived (R209). -/
  digests : Tbl (Tbl Bytes × Nat) := []
  /-- Steps already decided, and the replicas whose digest for them has come (R216). -/
  decided : Tbl (List Nat) := []
  /-- Replicas whose expulsion waits for the release (R216). -/
  waitExpel : List Nat := []
  /-- A GROUP_MEMBER change waiting for its step: command and step. -/
  memberCmd : Option (Nat × Nat) := none
  /-- Ports whose planned tree neighbour is missing with no other path, and since when (R213, R254). -/
  missing : Tbl Nat := []
  /-- Accumulating blocks of the next step (R246). -/
  nextAcc : Option (Nat × List Nat) := none
  deriving DecidableEq, Repr, Inhabited

/-- A fold frame as it reached the device: port (65,536 + link for a MSG), IP source, UDP payload. -/
structure FoldIn where
  port : Nat
  src : Nat
  p : Bytes
  deriving DecidableEq, Repr, Inhabited

/-- A fold frame above its group's RES that waits in its port's buffer (R265). -/
structure FoldWait where
  port : Nat
  group : Nat
  cells : Nat
  /-- Its cells of the held store will be poisoned (R277). -/
  poisoned : Bool
  x : FoldIn
  deriving DecidableEq, Repr, Inhabited

/-- Requester kinds of R222. -/
inductive Requester where
  | thread | host | ctrl
  deriving DecidableEq, Repr, Inhabited

/-- What waits for a BLP request's completion. -/
inductive BlpSrc where
  /-- A stage-program load: context, the number of its binding, tag (R158). -/
  | load (ctx seed tag : Nat)
  /-- A bag gather: request, query, bag (R144). -/
  | bag (req qi bag : Nat)
  /-- An aperture read: its number, function, board address, bytes (R227). -/
  | aperture (id fn addr len : Nat)
  /-- A granule the control cores write (R230), and the read that finds out whether a write whose outcome is unknown took
  place (R236). -/
  | write (body : Bytes)
  | check (body : Bytes)
  deriving DecidableEq, Repr, Inhabited

/-- An outstanding BLP request at its source, keyed target device · 4096 + TAG (R233). -/
structure BlpReq where
  src : BlpSrc
  /-- Granule address. -/
  addr : Nat
  rid : Nat
  link : Nat
  /-- Time of its first transmission (R417). -/
  issued : Option Nat := none
  deriving DecidableEq, Repr, Inhabited

/-- What a completed request for a granule came to, until its source takes it: STATUS and data (R232). -/
structure BlpGot where
  src : BlpSrc
  addr : Nat
  status : Nat
  data : Bytes
  deriving DecidableEq, Repr, Inhabited

/-- A request that waits for a free TAG, for its route or for the block's reads in flight (R146, R233, R237). -/
structure BlpWait where
  src : BlpSrc
  addr : Nat
  rid : Nat
  deriving DecidableEq, Repr, Inhabited

/-- Raw features that have arrived for a slice of another device's model (R231). -/
structure Guest where
  raw : Tbl Nat := []
  deriving DecidableEq, Repr, Inhabited

end Sys2Proof.Machine
end

