-- ==== Sys2Proof/Machine/UnitState.lean ====
section
/-! DEFINITION. State of the time unit (chapter 10) and of the serial lanes (chapter 13). -/

namespace Sys2Proof.Machine

/-- The two views, with 40 fraction bits each (R309, R310): LIN and TOD. -/
structure Views where
  linNs : Nat := 0
  linFrac : Nat := 0
  todSec : Nat := 0
  todNs : Nat := 0
  todFrac : Nat := 0
  deriving DecidableEq, Repr, Inhabited

/-- An action slot (R329): the record's fields; PENDING while it stands in the table. -/
structure Slot where
  target : Nat
  param : Nat
  kind : Nat
  pin : Nat
  skipIfLate : Bool
  guard : Bool
  notify : Bool
  line : Nat
  width : Nat
  count : Nat
  /-- LATE to report at the next firing (R331, R334, R335). -/
  late : Bool := false
  fired : Nat := 0
  /-- Skipped periods to report (R334). -/
  skipped : Nat := 0
  /-- Tick of its evaluation: it can fire from the next tick on (R331, R349). -/
  since : Nat := 0
  deriving DecidableEq, Repr, Inhabited

/-- A capture in the ring: its 48-byte body without EVSEQ (R340, R341). -/
structure Capture where
  body : Bytes
  deriving DecidableEq, Repr, Inhabited

/-- The time unit. -/
structure Tu where
  views : Views := {}
  epoch : Nat := 0
  inc : Nat := 0x020000000000
  /-- Staged lower word of TU_INC (R313). -/
  incLow : Nat := 0
  /-- F: the free count, NS · 2^40 + fraction (R318). -/
  free : Nat := 0
  stepLow : Nat := 0
  stepMid : Nat := 0
  /-- Armed step: offset in units of 2^−32 ns, and ticks left (R315). -/
  armed : Option (Int × Nat) := none
  owner : Nat := 0
  pin : Nat := 0
  hoMs : Nat := 0
  writeDenied : Bool := false
  capOvf : Bool := false
  stepRefused : Bool := false
  incRefused : Bool := false
  hoSeen : Bool := false
  holdover : Bool := false
  /-- Ticks since the last accepted INC write (R314). -/
  sinceInc : Nat := 0
  capDrop : Nat := 0
  slots : Tbl Slot := []
  /-- TOUT pins: the pulses under way or to come, each from one tick count until another (R337). -/
  toutUntil : Tbl (List (Nat × Nat)) := []
  /-- Ticks since the PLL locked. -/
  ticks : Nat := 0
  /-- TIN pin to tick of its last capture (R339). -/
  tinTick : Tbl Nat := []
  ring : List Capture := []
  gapNext : Bool := false
  /-- Tick of the last CAP_OVERFLOW (R340). -/
  ovfAt : Option Nat := none
  /-- TCLK shows no edge (R33). -/
  stalled : Bool := false
  /-- TCLK PLL locked (R311). -/
  locked : Bool := false
  /-- TOD SEC carried from NS in the last tick (R338). -/
  secCarry : Bool := false
  /-- Latched statistics view and its LIN (R336, R466). -/
  latched : Option (Tbl Nat) := none
  latchLin : Nat := 0
  deriving DecidableEq, Repr, Inhabited

/-- States of a board link (R421). -/
inductive BlSt where
  | disabled | training | active | retrain | deep | exiting
  deriving DecidableEq, Repr, Inhabited

/-- Number of a link state (R421). -/
def BlSt.code : BlSt → Nat
  | .disabled => 0 | .training => 1 | .active => 2 | .retrain => 3 | .deep => 4 | .exiting => 5

/-- Coefficients of a receive lane (R409, R410): the start values, adapting, or held as they were at a CCLK cycle. -/
inductive Coeffs where
  | cold | adapting | held (cycle : Nat)
  deriving DecidableEq, Repr, Inhabited

/-- A board-link lane (R422 to R425). -/
structure BlLane where
  /-- Consecutive valid training sets received (R404). -/
  tsCount : Nat := 0
  injRate : Nat := 0
  prbsSel : Nat := 0
  test : Nat := 0
  testDenied : Bool := false
  lost : Bool := false
  prbsSync : Bool := false
  frozen : Bool := false
  aligned : Bool := false
  cdrLock : Bool := false
  coeffs : Coeffs := .cold
  exErr : Nat := 0
  viol : Nat := 0
  /-- Time of the last code violation (R404). -/
  violAt : Option Nat := none
  prbsBits : Nat := 0
  prbsErr : Nat := 0
  /-- INJECT waiting for the next transmitted bit. -/
  inject : Bool := false
  deriving DecidableEq, Repr, Inhabited

/-- A packet kept for replay (R234). -/
structure BlpPkt where
  seq : Nat
  bytes : Bytes
  deriving DecidableEq, Repr, Inhabited

/-- A board link (R403 to R421, R234). -/
structure Link where
  enable : Bool := true
  minWidth : Nat := 0
  deep : Bool := false
  st : BlSt := .training
  good : Nat := 0
  activeMask : Nat := 0
  width : Nat := 0
  miswire : Bool := false
  reversed : Bool := false
  farLink : Nat := 0
  farPos : Nat := 0
  farValid : Bool := false
  /-- The far end has been met in a training since reset: its position holds a device (R218). -/
  met : Bool := false
  farGood : Nat := 0
  deepRefused : Bool := false
  lanes : Tbl BlLane := []
  /-- Training: start, GOOD stable since, sending TS2, agreeing TS2 received, TS2 sent with SEEN, SEEN,
  idle until, warm. Times in ps. -/
  trainStart : Nat := 0
  goodSince : Nat := 0
  sendTs2 : Bool := false
  agree : Nat := 0
  seen : Bool := false
  /-- When SEEN was set, and a TS2 with SEEN has been received (R406). -/
  seenAt : Nat := 0
  farSeen : Bool := false
  idleUntil : Option Nat := none
  warm : Bool := false
  /-- Deep handshake: requested since, sent, received, next try. -/
  deepSince : Option Nat := none
  deepSent : Bool := false
  deepRcvd : Bool := false
  deepRetry : Option Nat := none
  /-- Retrain asked for by a RETRAIN action. -/
  actionRetrain : Bool := false
  /-- Lane whose loss started the retrain. -/
  lostLane : Option Nat := none
  retrainStart : Nat := 0
  /-- A retrain has ended and the far end's first ACK is awaited (R413). -/
  resume : Bool := false
  /-- SEQ of the next packet to send and of the next to accept. -/
  txSeq : Nat := 0
  rxSeq : Nat := 0
  replay : List BlpPkt := []
  /-- Packets (header and payload) waiting for room in the replay buffer or for the link. -/
  waiting : List Bytes := []
  /-- Times the oldest packet has been replayed; time of the last ACK or send. -/
  replays : Nat := 0
  lastAck : Nat := 0
  /-- Packets accepted since the last ACK sent, and the time of the first. -/
  unacked : Nat := 0
  unackedAt : Nat := 0
  /-- Completions owed to the far end. -/
  owed : Nat := 0
  /-- End of the exercise sequence being sent (R411). -/
  exUntil : Nat := 0
  /-- Idle since: only /I/ sets sent (R411). -/
  idleSince : Nat := 0
  deriving DecidableEq, Repr, Inhabited

/-- A lane of a port tile (R428). -/
structure TileLane where
  injRate : Nat := 0
  test : Nat := 0
  testDenied : Bool := false
  losSeen : Bool := false
  prbsSync : Bool := false
  lock : Bool := false
  signal : Bool := false
  prbsErr : Nat := 0
  prbsBits : Nat := 0
  fecSym : Nat := 0
  inject : Bool := false
  deriving DecidableEq, Repr, Inhabited

end Sys2Proof.Machine
end

