-- ==== Sys2Proof/Machine/PortState.lean ====
section
/-! DEFINITION. State of the ports, the management ports and the forwarding plane (chapters 11 and 12). -/

namespace Sys2Proof.Machine

/-- Settings of R360 and R392 of one port or sub-port, with their defaults. Per-class settings are lists of 8. -/
structure PortCfg where
  enable : Bool := false
  mode : Nat := 0
  macAddr : Nat := 0
  maxFrame : Nat := 9216
  linkHold : Nat := 10
  fcMode : Nat := 0
  pfcClasses : Nat := 0
  pauseQuanta : Nat := 65535
  replyTc : Nat := 7
  txTrim : Int := 0
  rxTrim : Int := 0
  ptpTc : Bool := false
  ptpCap : Bool := false
  foldEn : Bool := false
  replyTtl : Nat := 0
  trust : Nat := 2
  defaultTc : Nat := 0
  vrf : Nat := 0
  nativeVlan : Nat := 1
  replyShare : Nat := 5
  weight : List Nat := List.replicate 8 8
  ecnMin : List Nat := List.replicate 8 400
  ecnMax : List Nat := List.replicate 8 2000
  ecnPmax : List Nat := List.replicate 8 10
  xoffTh : List Nat := List.replicate 8 1024
  xonDelta : List Nat := List.replicate 8 256
  headroom : List Nat := List.replicate 8 512
  deriving DecidableEq, Repr, Inhabited

/-- States of R359. -/
inductive PortSt where
  | disabled | down | blocking | opened | forwarding
  deriving DecidableEq, Repr, Inhabited

/-- Number of a port state (R359). -/
def PortSt.code : PortSt → Nat
  | .disabled => 0 | .down => 1 | .blocking => 2 | .opened => 3 | .forwarding => 4

/-- A pause timer (R362): the loads it has taken and has yet to take, oldest first, each from the moment of effect until the moment
it reaches zero; how far its time is counted, and the picoseconds short of a nanosecond left over (R375). -/
structure PauseTimer where
  loads : List (Nat × Nat) := []
  upTo : Nat := 0
  rest : Nat := 0
  deriving DecidableEq, Repr, Inhabited

/-- The timer runs at a moment: the last load in effect has not run out. -/
def PauseTimer.runs (x : PauseTimer) (t : Nat) : Bool :=
  match (x.loads.filter (fun q => decide (q.1 ≤ t))).getLast? with | some q => decide (t < q.2) | none => false
/-- Picoseconds of an interval for which loads run, each until the next takes effect. -/
def heldPs (a b : Nat) : List (Nat × Nat) → Nat
  | [] => 0
  | q :: t => (min (match t.head? with | some r => min q.2 r.1 | none => q.2) b - max q.1 a) + heldPs a b t
/-- The loads that a later one in effect has not replaced. -/
def liveLoads (now : Nat) : List (Nat × Nat) → List (Nat × Nat)
  | q :: r :: t => if r.1 ≤ now then liveLoads now (r :: t) else q :: r :: t
  | l => l
/-- Counts the timer's time up to now: whole nanoseconds, and the timer after it. -/
def PauseTimer.settle (x : PauseTimer) (now : Nat) : Nat × PauseTimer :=
  let h := x.rest + heldPs x.upTo now x.loads
  (h / 1000, { loads := liveLoads now x.loads, upTo := now, rest := h % 1000 })
/-- Nothing is left of the timer: no load waits and none runs. -/
def PauseTimer.spent (x : PauseTimer) (now : Nat) : Bool := (liveLoads now x.loads).all (fun q => decide (q.1 ≤ now) && decide (q.2 ≤ now))

/-- What a queued frame is. -/
inductive TxKind where
  /-- A reply; the number is its request. -/
  | reply (req : Nat)
  /-- A RETRACT frame of a request. -/
  | retract (req : Nat)
  | hello
  /-- A fold frame of a group. -/
  | fold (group : Nat)
  | forwarded
  /-- From a control-plane transmit ring. -/
  | control
  /-- Generated pause: class, or none for PAUSE; true for XOFF. -/
  | pause (cls : Option Nat) (xoff : Bool)
  deriving DecidableEq, Repr, Inhabited

/-- What a PTP event message brought in with it (R347): the free count at the ingress plane in 2^−16 ns, the views there,
and the ingress port. -/
structure PtpIn where
  free : Nat
  views : Views
  port : Nat
  deriving DecidableEq, Repr, Inhabited

/-- A frame waiting for or in transmission, without padding and FCS. -/
structure TxFrame where
  bytes : Bytes
  kind : TxKind
  cls : Nat := 0
  /-- The request whose verdict the FCS waits for (TAIL_GATED). -/
  gate : Option Nat := none
  /-- Query indices the frame answers. -/
  recs : List Nat := []
  /-- Place among the replies and RETRACT frames released to egress (R50). -/
  relNo : Nat := 0
  /-- Ends with an inverted FCS (R286, R287). -/
  bad : Bool := false
  /-- Ingress (port, class) the cells are charged to (R388). -/
  ingress : Option (Nat × Nat) := none
  /-- Cells taken from headroom and not from the pool (R391). -/
  inHeadroom : Bool := false
  /-- TS_ORIGIN (R344): stamped when it starts. -/
  tsOrigin : Bool := false
  /-- PTP event message whose correctionField takes the residence since this time (R347). -/
  residenceFrom : Option PtpIn := none
  deriving DecidableEq, Repr, Inhabited

/-- One port or sub-port. Times are picoseconds of model time. -/
structure Port where
  cfg : PortCfg := {}
  st : PortSt := .disabled
  /-- Since when the conditions of R358 may hold without a break. -/
  physSince : Nat := 0
  /-- Remote fault received (R358). -/
  remoteFault : Bool := false
  /-- The PAUSE timer (R362). -/
  pause : PauseTimer := {}
  /-- Class timers (R364). -/
  pfc : Tbl PauseTimer := []
  /-- XOFF conditions in force: 8 for the port, 0 to 7 for a class; with the refresh time (R366). -/
  xoff : Tbl Nat := []
  /-- Classes the spill pause of R208 asks for. -/
  spillXoff : List Nat := []
  /-- Generated pause frames waiting (R367). -/
  pauseQ : List TxFrame := []
  replyQ : List TxFrame := []
  /-- Reservation queues of fold groups. -/
  groupQ : Tbl (List TxFrame) := []
  classQ : Tbl (List TxFrame) := []
  /-- Frame in transmission and its end. -/
  cur : Option (TxFrame × Nat) := none
  /-- Reply tokens spent beyond what has filled back, in units of 1/800,000 byte (0 means a full bucket, log 6). -/
  replySpent : Nat := 0
  /-- Spent tokens of each group, in units of 1/8,000 byte. -/
  groupSpent : Tbl Nat := []
  /-- When the buckets were last filled. -/
  tokTime : Nat := 0
  deficit : Tbl Nat := []
  rrClass : Nat := 0
  rrGroup : Nat := 0
  /-- ECN draws made (R390). -/
  ecnDraws : Nat := 0
  /-- TTL copies and HOST frames in the running second: (second, count) (R377, R465). -/
  ttlCopies : Nat × Nat := (0, 0)
  hostCopies : Nat × Nat := (0, 0)
  deriving DecidableEq, Repr, Inhabited

/-- What a neighbour last advertised (R187, R373). -/
structure Neigh where
  /-- HELLO: SYSTEM_ID, device, port, and the end of its lifetime. -/
  helloSys : Nat := 0
  helloRole : Nat := 0
  helloDev : Nat := 0
  helloPort : Nat := 0
  helloUntil : Nat := 0
  /-- LLDP: chassis ID, port ID, and the end of its lifetime. -/
  chassis : Bytes := []
  portId : Bytes := []
  lldpUntil : Nat := 0
  /-- The last NEIGHBOUR event's cause: 0 present, 1 missing, 2 unplanned, 3 returned. -/
  lastCause : Option Nat := none
  deriving DecidableEq, Repr, Inhabited

/-- A port plan entry (R253, R462). -/
structure Plan where
  expect : Nat
  policy : Nat
  device : Nat
  cid : Bytes
  peerPort : Nat
  systemId : Nat
  pid : Bytes
  /-- The function that set it. -/
  fn : Nat
  deriving DecidableEq, Repr, Inhabited

/-- A management port (R369). -/
structure Mgmt where
  fec : Nat := 2
  /-- Owning host port, once configured. -/
  owner : Option Nat := none
  fcPause : Bool := false
  pause : PauseTimer := {}
  deriving DecidableEq, Repr, Inhabited

/-- A result of the L2, IPv4 or IPv6 table (R465). -/
structure Route where
  rkind : Nat
  result : Nat
  fn : Nat
  deriving DecidableEq, Repr, Inhabited

/-- A next hop (R376). -/
structure NextHop where
  port : Nat
  dmac : Nat
  vlan : Nat
  deriving DecidableEq, Repr, Inhabited

/-- The forwarding tables (R376). -/
structure Fwd where
  routerMac : Tbl Nat := []
  /-- Key: VLAN · 2^48 + MAC. -/
  l2 : Tbl Route := []
  /-- Key: VLAN · 1024 + port; value: tagged. -/
  vlan : Tbl Bool := []
  /-- Key: (VRF · 64 + length) · 2^32 + prefix. -/
  ip4 : Tbl Route := []
  /-- Key: (VRF · 256 + length) · 2^128 + prefix. -/
  ip6 : Tbl Route := []
  nextHop : Tbl NextHop := []
  /-- Key: group · 256 + slot. -/
  ecmp : Tbl Nat := []
  /-- Slot chosen last by spraying, per group · 8 + class (R382). -/
  lastSpray : Tbl Nat := []
  deriving DecidableEq, Repr, Inhabited

end Sys2Proof.Machine
end

