-- ==== Sys2Proof/Machine/State.lean ====
section
/-! DEFINITION. The state of the block, plain data: everything the manual gives the device, and the queue of the
commands that wait. INVENTORY.md lists each piece with its rule and its reset value. -/

namespace Sys2Proof.Machine

/-- Reasons a step stops with a fault. The manual stops the device at none of its commands, so there is no reason. -/
inductive Fault where
  deriving DecidableEq, Repr

/-- Reasons a step has no meaning. -/
inductive Refusal where
  /-- Raised by an arm of `exec` whose command has no meaning yet; its mnemonic. Safe. -/
  | notModelled (mnemonic : String)
  deriving DecidableEq, Repr

/-- A wake pattern record (R370). -/
structure WakeRec where
  offset : Nat := 0
  en : Bool := false
  ports : Nat := 0
  check : Nat := 0
  mask : Nat := 0
  deriving DecidableEq, Repr, Inhabited

/-- Device settings (R392, R464), with their defaults. -/
structure DevCfg where
  queryAddr : Tbl Nat := []
  sqfPort : Tbl Nat := []
  foldAddr : Tbl Nat := []
  foldPort : Tbl Nat := []
  tpid : List Nat := [0x8100, 0x88A8]
  replyTtl : Nat := 64
  helloPeriod : Nat := 100
  hashSeed : Nat := 0
  pcpMap : List Nat := [0, 1, 2, 3, 4, 5, 6, 7]
  dscpMap : List Nat := (List.range 64).map (· / 8)
  flowAge : Nat := 60
  /-- COLLECTOR table: index to (address, UDP port). -/
  collector : Tbl (Nat × Nat) := []
  systemId : Nat := 0
  spray : List Nat := List.replicate 8 0
  alpha : List Nat := List.replicate 8 4
  wake : Tbl WakeRec := []
  deriving DecidableEq, Repr, Inhabited

/-- The state. Tables are sparse: an absent entry has its reset value, or does not exist where the object has to be
created first (flows, requests, threads, models, groups, regions, commands). -/
structure State where
  /-- Picoseconds of model time, and CCLK cycles (log 2). -/
  now : Nat := 0
  cycle : Nat := 0
  /-- Functions, by host port · 64 + function; host ports whose PCIe link is up. -/
  fns : Tbl Fn := []
  hostUp : List Nat := []
  /-- Register writes that have arrived and not yet taken effect, in order (R541). -/
  votes : List Vote := []
  /-- Commands fetched and not completed, in fetch order. -/
  cmds : Tbl Cmd := []
  nextCmd : Nat := 0
  boot : Boot := {}
  power : Power := {}
  place : Place := {}
  tu : Tu := {}
  dev : DevCfg := {}
  /-- Ports by port · 8 + sub-port; management ports MG0 and MG1. -/
  ports : Tbl Port := []
  mgmts : Tbl Mgmt := []
  neigh : Tbl Neigh := []
  plans : Tbl Plan := []
  fwd : Fwd := {}
  /-- Flow tracker by handle: bucket · 16 + slot (R396). -/
  flows : Tbl Flow := []
  reqs : Tbl Request := []
  nextReq : Nat := 0
  /-- Replies and RETRACT frames released to egress so far (R50). -/
  relNo : Nat := 0
  /-- Threads by block · 4096 + slot. -/
  threads : Tbl Thread := []
  blocks : Tbl Block := []
  /-- Bank entries by (block · 64 + bank) · 1024 + entry. -/
  banks : Tbl BankEntry := []
  /-- Stage-program contexts by (block · 4 + VSE) · 64 + context. -/
  vctx : Tbl VCtx := []
  /-- The context that issued last on each VSE in each class, by (block · 4 + VSE) · 4 + class (R151). -/
  vseLast : Tbl Nat := []
  models : Tbl Model := []
  groups : Tbl Group := []
  /-- Receive tokens each group has spent on each port, in units of 1/8,000 byte, and when they were counted, by
  port · 4,096 + group; fold frames above RES that wait, oldest first (R265). -/
  foldTok : Tbl (Nat × Nat) := []
  foldIn : List FoldWait := []
  regions : Tbl Region := []
  /-- HBM bytes by local address, canonical: rising, no entry equal to 0. -/
  hbm : List Host.Cell := []
  /-- Poisoned granules, by local address / 64. -/
  poison : List Nat := []
  blpReqs : Tbl BlpReq := []
  /-- Completed board requests not yet taken, and requests that wait to be issued, in order. -/
  blpGot : List BlpGot := []
  blpWait : List BlpWait := []
  /-- Devices whose own link to a device is up, by that device, as the control cores last learnt (R237). -/
  peerUp : Tbl (List Nat) := []
  /-- Features held for slices of other devices' models, by EVAL · 64 + block (R231). -/
  guests : Tbl Guest := []
  /-- BLP route in use per target device: link number (R237). -/
  blpRoute : Tbl Nat := []
  links : Tbl Link := []
  /-- Port-tile lanes by tile · 64 + lane; laser-input power in milliwatts and LASER_LOW per tile. -/
  tileLanes : Tbl TileLane := []
  laserIn : Tbl Nat := []
  laserLow : List Nat := []
  counters : Tbl Nat := []
  /-- Argument of the free values, advanced by each use: the model's own. -/
  freeCount : Nat := 0
  /-- What has left the device, oldest first: the model's own (log 9). -/
  outs : List Out := []
  /-- Commands that wait, first in first out. -/
  pending : List Instr := []
  deriving DecidableEq, Repr

/-- The machine right after reset: every field at its reset value (R477, R544, INVENTORY), no command waiting. -/
def State.reset : State := {}

end Sys2Proof.Machine
end

