-- ==== Sys2Proof/Machine/Ops.lean ====
section
/-! DEFINITION. The named operations over the state that every family shares: objects and their ranges, counters, HBM
bytes and poison, the host rings, events and command completions. -/

namespace Sys2Proof.Machine

/-- The outcome of every meaning. -/
abbrev Res := Host.Outcome State Fault Refusal

/-- A command whose operands name objects the device has takes effect; one that names an object the device does not have
is an event that cannot happen, and leaves the state as it is (log 1). -/
def onObj (s : State) (ok : Bool) (t : State) : Res := .next (if ok then t else s)

/-! Reading and writing the tables of the state. -/

/-- Settings and state of a port. -/
def State.port (s : State) (p : Nat) : Port := Tbl.getD s.ports p {}
/-- Writes a port. -/
def State.setPort (s : State) (p : Nat) (v : Port) : State := { s with ports := Tbl.put s.ports p v }
/-- Changes a port. -/
def State.updPort (s : State) (p : Nat) (f : Port → Port) : State := s.setPort p (f (s.port p))
/-- A function's state. -/
def State.fn (s : State) (f : Nat) : Fn := Tbl.getD s.fns f {}
/-- Changes a function's state. -/
def State.updFn (s : State) (f : Nat) (g : Fn → Fn) : State := { s with fns := Tbl.put s.fns f (g (s.fn f)) }
/-- A block's state. -/
def State.block (s : State) (b : Nat) : Block := Tbl.getD s.blocks b {}
/-- Changes a block. -/
def State.updBlock (s : State) (b : Nat) (g : Block → Block) : State :=
  { s with blocks := Tbl.put s.blocks b (g (s.block b)) }
/-- A model context. -/
def State.model (s : State) (m : Nat) : Model := Tbl.getD s.models m {}
/-- Changes a model context. -/
def State.updModel (s : State) (m : Nat) (g : Model → Model) : State :=
  { s with models := Tbl.put s.models m (g (s.model m)) }
/-- A board link. -/
def State.link (s : State) (l : Nat) : Link := Tbl.getD s.links l {}
/-- Changes a board link. -/
def State.updLink (s : State) (l : Nat) (g : Link → Link) : State := { s with links := Tbl.put s.links l (g (s.link l)) }
/-- A 32-bit count of a lane, which saturates (R425, R428). -/
def sat32 (n : Nat) : Nat := min n 0xFFFFFFFF
/-- Adds to a count of each lane of a board link, by lane. -/
def State.laneCounts (s : State) (l : Nat) (ns : List Nat) (g : BlLane → Nat → BlLane) : State :=
  s.updLink l (fun x =>
    let ys := (upTo 8).foldl (fun (t : Tbl BlLane) k =>
      let n := ns.getD k 0
      if n = 0 then t else Tbl.put t k (g (Tbl.getD t k {}) n)) x.lanes
    { x with lanes := ys })
/-- Changes a request, where there is one. -/
def State.updReq (s : State) (r : Nat) (g : Request → Request) : State := { s with reqs := Tbl.modify s.reqs r g }
/-- Changes a thread, where there is one. -/
def State.updThread (s : State) (t : Nat) (g : Thread → Thread) : State :=
  { s with threads := Tbl.modify s.threads t g }
/-- Changes a fold group, where there is one. -/
def State.updGroup (s : State) (n : Nat) (g : Group → Group) : State := { s with groups := Tbl.modify s.groups n g }
/-- Changes a flow entry, where there is one. -/
def State.updFlow (s : State) (h : Nat) (g : Flow → Flow) : State := { s with flows := Tbl.modify s.flows h g }

/-- A counter moves on by `n` (R304). -/
def State.count (s : State) (c : CName) (obj n : Nat) (i : Nat := 0) : State :=
  { s with counters := cntAdd s.counters c obj n i }
/-- Something leaves the device. -/
def State.emit (s : State) (o : Out) : State := { s with outs := s.outs ++ [o] }
/-- LIN in whole nanoseconds (R309). -/
def State.lin (s : State) : Nat := s.tu.views.linNs

/-! Ranges of the device's objects (chapter 01, R433). -/

/-- A port or sub-port number: port 0 to 127, sub-port 0 to 7 (R447). -/
def okPort (p : Nat) : Bool := decide (p < 1024)
/-- A function number: host port 0 to 3, function 0 to 63 (R433). -/
def okFn (f : Nat) : Bool := decide (f < 256)
/-- A ring block a function has (R530). -/
def okRing (f r : Nat) : Bool := okFn f && decide (r < (if f % 64 = 0 then 13 else 11))
/-- A block number (R24). -/
def okBlock (b : Nat) : Bool := decide (b < 64)
/-- A board link (R228). -/
def okLink (l : Nat) : Bool := decide (l < 7)
/-- A model context or fold group (R251). -/
def okCtx (n : Nat) : Bool := decide (n < 4096)
/-- A VSE context (R150). -/
def okVctx (n : Nat) : Bool := decide (n < 64 * 4 * 64)
/-- A thread slot of some block (R251). -/
def okThread (n : Nat) : Bool := decide (n < 64 * 4096)
/-- An exception code (R166), where there is one. -/
def okExc (e : Option Nat) : Bool := match e with | some c => decide (1 ≤ c) && decide (c ≤ 6) | none => true
/-- A flow handle (R397). -/
def okFlow (n : Nat) : Bool := decide (n < 4194304)
/-- A management port (R369). -/
def okMgmt (n : Nat) : Bool := decide (n < 2)
/-- An action slot (R328). -/
def okSlot (n : Nat) : Bool := decide (n < 64)
/-- A lane with diagnostic registers (R538). -/
def okLane : LaneRef → Bool
  | .board l k => okLink l && decide (k < 8)
  | .tile t k => decide (t < 16) && decide (k < 64)

/-- The device is up: firmware READY, not FENCED, its host interface powered (R301, R507, R539). -/
def State.live (s : State) : Bool := s.boot.st == 5 && !s.power.fenced && decide (s.power.st ≤ 2)
/-- The PFs of the four host ports. -/
def pfs : List Nat := [0, 64, 128, 192]

/-! HBM: bytes by local address (R219), canonical form, unlisted bytes 0 (R479 step 7). -/

/-- What an unlisted byte of HBM reads as: the zero that step 7 of R479 writes. -/
def Memory.unlisted : BitVec 8 := 0
/-- The canonical form: addresses strictly rising, no entry equal to an unlisted byte. -/
def Memory.wf (m : List Host.Cell) : Bool := Tbl.sorted m && m.all (fun c => c.2 != Memory.unlisted)
/-- One byte of HBM. -/
def Memory.get (m : List Host.Cell) (a : Nat) : BitVec 8 := Tbl.getD m a Memory.unlisted
/-- Writes one byte of HBM, keeping the canonical form. -/
def Memory.set (m : List Host.Cell) (a : Nat) (v : BitVec 8) : List Host.Cell := Tbl.putD Memory.unlisted m a v
/-- `n` bytes of HBM from `a`. -/
def Memory.read (m : List Host.Cell) (a : Nat) : Nat → Bytes
  | 0 => []
  | n + 1 => Memory.get m a :: Memory.read m (a + 1) n
/-- Writes a byte string from `a` on. -/
def Memory.write (m : List Host.Cell) (a : Nat) : Bytes → List Host.Cell
  | [] => m
  | b :: t => Memory.write (Memory.set m a b) (a + 1) t

/-- Size of HBM in bytes (R219). -/
def hbmSize : Nat := 0x8000000000
/-- The granules that `n` bytes from `a` touch. -/
def granulesOf (a n : Nat) : List Nat := (List.range ((a + n + 63) / 64 - a / 64)).map (· + a / 64)
/-- One of the bytes lies in a poisoned granule (R279). -/
def State.poisoned (s : State) (a n : Nat) : Bool := (granulesOf a n).any (fun g => s.poison.contains g)

/-! Rings (R437 to R442). -/

/-- A ring block of a function. -/
def Fn.ring (f : Fn) (r : Nat) : Ring := Tbl.getD f.rings r {}
/-- Changes a ring block. -/
def State.updRing (s : State) (f r : Nat) (g : Ring → Ring) : State :=
  s.updFn f (fun x => { x with rings := Tbl.put x.rings r (g (x.ring r)) })
/-- SIZE. -/
def Ring.size (r : Ring) : Nat := 2 ^ r.log2
/-- Descriptors a device-produced ring still takes: none while it is not enabled. -/
def Ring.room (r : Ring) : Nat :=
  if r.enable then r.size - wrap 32 ((r.index : Int) - (r.far : Int)) else 0
/-- A ring's hardened parameters are lost: it neither fetches nor writes (R543). -/
def State.ringLost (s : State) (f r : Nat) : Bool :=
  s.place.lost.any (fun l => match l.obj with
    | .reg g off => g == f && decide (0x8000 + 0x40 * r ≤ off) && decide (off < 0x8040 + 0x40 * r)
    | _ => false)
/-- The device may write or read the function's host memory now. -/
def State.fnLive (s : State) (f : Nat) : Bool :=
  s.live && (s.fn f).bme && s.hostUp.contains (f / 64)

/-- Signals a vector: the message, or the pending bit while the entry is masked (R442, R534). -/
def State.signal (s : State) (f v : Nat) : State :=
  let e := Tbl.getD (s.fn f).msix v {}
  if bit e.ctrl 0 then s.updFn f (fun x => { x with msixPend := setBits x.msixPend v v 1 })
  else s.emit (.msix f e.addr e.data)

/-- Signals a ring's vector and starts its moderation afresh (R442). -/
def State.signalRing (s : State) (f r : Nat) : State :=
  (s.signal f ((s.fn f).ring r).vector).updRing f r (fun x => { x with unsig := 0 })

/-- Writes one descriptor, with its buffer if it has one, to a ring that has room (R440, R451). -/
def State.ringWrite (s : State) (f r : Nat) (desc : Bytes) (buf : Option Bytes) : State :=
  let g := (s.fn f).ring r
  let slot := g.index % g.size
  let phase := b2n (g.index / g.size % 2 == 0)
  let d := match desc with
    | [] => []
    | b :: t => BitVec.ofNat 8 (setBits b.toNat 0 0 phase) :: t
  let s := match buf with
    | some b => if b.isEmpty then s else s.emit (.dma f (g.bufBase + slot * g.stride * 64) b)
    | none => s
  let s := (s.emit (.dma f (g.base + 64 * slot) (padTo 64 d))).emit
    (.dma f g.piAddr (leBytes 4 ((g.index + 1) % 2 ^ 32)))
  let s := s.updRing f r (fun x =>
    { x with index := (x.index + 1) % 2 ^ 32, unsig := x.unsig + 1,
             unsigAt := if x.unsig = 0 then s.now else x.unsigAt })
  if g.modUs = 0 || decide (g.modCount ≤ g.unsig + 1) then s.signalRing f r else s

/-- The ring takes an entry now. -/
def State.canWrite (s : State) (f r : Nat) : Bool :=
  s.fnLive f && !s.ringLost f r && decide (0 < ((s.fn f).ring r).room)

/-- A request's held granules free (R289). -/
def State.freeHold (s : State) (r : Nat) : State := s.updReq r (fun q => { q with granules := 0 })

/-- Moves waiting completions to the completion ring. -/
def drainComps (f : Nat) : Nat → State → State
  | 0, s => s
  | n + 1, s =>
    match (s.fn f).comps with
    | c :: t =>
      if s.canWrite f 1 then drainComps f n ((s.updFn f (fun x => { x with comps := t })).ringWrite f 1 c none) else s
    | [] => s

/-- Moves waiting events to the event ring, with DROPPED in the header (R446). -/
def drainEvents (f : Nat) : Nat → State → State
  | 0, s => s
  | n + 1, s =>
    match (s.fn f).events with
    | b :: t =>
      if s.canWrite f 2 then
        let h := zeros 8 ++ leBytes 4 (s.fn f).dropped ++ zeros 4
        drainEvents f n ((s.updFn f (fun x => { x with events := t, dropped := 0 })).ringWrite f 2 (h ++ b) none)
      else s
    | [] => s

/-- Moves waiting host replies to reply ring i (block 7 + i); a written reply ends its request (R289). -/
def drainReplies (f i : Nat) : Nat → State → State
  | 0, s => s
  | n + 1, s =>
    match Tbl.getD (s.fn f).replies i [] with
    | r :: t =>
      if s.canWrite f (7 + i) then
        let s := (s.updFn f (fun x => { x with replies := Tbl.put x.replies i t })).ringWrite f (7 + i) r.desc (some r.buf)
        drainReplies f i n (match r.req with | some q => { s with reqs := Tbl.del s.reqs q } | none => s)
      else s
    | [] => s

/-- Moves waiting control-plane frames to the receive ring, cut short at BUF_STRIDE (R453). -/
def drainRx (f : Nat) : Nat → State → State
  | 0, s => s
  | n + 1, s =>
    match (s.fn f).rxQ with
    | r :: t =>
      if s.canWrite f 12 then
        let cap := ((s.fn f).ring 12).stride * 64
        let b := r.frame.take cap
        let d := r.desc.take 4 ++ leBytes 2 b.length ++ leBytes 2 r.frame.length ++ r.desc.drop 8
        drainRx f n ((s.updFn f (fun x => { x with rxQ := t })).ringWrite f 12 d (some b))
      else s
    | [] => s

/-- Writes everything that waits for the rings of a function, as far as they have room. -/
def State.drainFn (s : State) (f : Nat) : State :=
  let x := s.fn f
  let s := drainComps f x.comps.length s
  let s := drainEvents f x.events.length s
  let s := drainReplies f 0 (Tbl.getD x.replies 0 []).length s
  let s := drainReplies f 1 (Tbl.getD x.replies 1 []).length s
  let s := drainReplies f 2 (Tbl.getD x.replies 2 []).length s
  let s := drainReplies f 3 (Tbl.getD x.replies 3 []).length s
  drainRx f x.rxQ.length s

/-! Events (R305, R306, R341, R446 to R449). -/

/-- An event body joins a function's internal queue of 256, or is dropped (R449). -/
def State.queueEvent (s : State) (body : Bytes) (f : Nat) : State :=
  let s :=
    if (s.fn f).events.length < 256 then s.updFn f (fun x => { x with events := x.events ++ [body] })
    else s.updFn f (fun x => { x with dropped := x.dropped + 1 })
  drainEvents f 1 s

/-- A new event takes the next EVSEQ (R305) and goes to its recipients. -/
def State.post (s : State) (fns : List Nat) (mk : Nat → Bytes) : State :=
  let body := mk s.place.evseq
  fns.foldl (fun s f => s.queueEvent body f)
    { s with place := { s.place with evseq := (s.place.evseq + 1) % 2 ^ 32 } }

/-- OBJECT of an event (R305): kind and number. -/
def objCode (kind n : Nat) : Nat := kind * 4096 + n % 4096

/-- Recipients of an event about an object: its owner, or every PF (R305, R448). -/
def State.entitled (s : State) (obj : Nat) : List Nat :=
  if obj / 4096 = 1 then [(s.model (obj % 4096)).owner]
  else if obj / 4096 = 2 then
    match Tbl.find? s.groups (obj % 4096) with | some g => [g.owner] | none => pfs
  else pfs

/-- A general event (R447, R448). -/
def State.general (s : State) (fns : List Nat) (ecode cause obj port arg0 arg1 : Nat) : State :=
  let lin := s.lin
  s.post fns (fun n => leBytes 2 ecode ++ leBytes 2 cause ++ leBytes 2 obj ++ leBytes 2 port ++ leBytes 8 arg0 ++
    leBytes 8 arg1 ++ leBytes 8 lin ++ zeros 8 ++ leBytes 4 n ++ zeros 4)

/-- What an integrity event says of its detection (R305). -/
structure Integ where
  fcode : Nat
  sev : Nat
  unitKind : Nat := 0
  unit : Nat := 0
  obj : Nat := 0
  addr : Nat := 0
  detail : Nat := 0
  syn : Nat := 0
  deriving DecidableEq, Repr, Inhabited

/-- The fault body (R305). -/
def integBody (e : Integ) (lin count n : Nat) : Bytes :=
  leBytes 2 e.fcode ++ leBytes 1 e.sev ++ leBytes 1 e.unitKind ++ leBytes 2 e.unit ++ leBytes 2 e.obj ++
    leBytes 8 e.addr ++ leBytes 8 lin ++ leBytes 4 count ++ leBytes 4 e.detail ++ leBytes 8 e.syn ++ leBytes 4 n ++ zeros 4

/-- Key of a coalescing record: FCODE and unit (R307). -/
def coalKey (e : Integ) : Nat := e.fcode * 2 ^ 24 + e.unitKind * 2 ^ 16 + e.unit

/-- One second in picoseconds. -/
def second : Nat := 1000000000000

/-- FCODEs whose DETAIL is a count: HARD_CORRECTED and ECC_CORRECTED (R307). -/
def detailIsCount (fcode : Nat) : Bool := fcode == 0x0101 || fcode == 0x0110

/-- An integrity event is posted, or folded into the running second's record if its severity is 0 (R307). -/
def State.integ (s : State) (e : Integ) : State :=
  let now := s.now
  let lin := s.lin
  let post := fun (s : State) => s.post (s.entitled e.obj) (integBody e lin 1)
  if e.sev ≠ 0 then post s
  else
    match Tbl.find? s.place.coal (coalKey e) with
    | some c =>
      if now < c.postedAt + second || c.count ≠ 0 then
        let d := if detailIsCount e.fcode && c.count ≠ 0 then min (c.detail + e.detail) 0xFFFFFFFF else e.detail
        let c' : Coal := ⟨c.postedAt, c.count + 1, d, e.obj, e.addr, lin, e.syn⟩
        { s with place := { s.place with coal := Tbl.put s.place.coal (coalKey e) c' } }
      else post { s with place := { s.place with coal := Tbl.put s.place.coal (coalKey e) { postedAt := now } } }
    | none => post { s with place := { s.place with coal := Tbl.put s.place.coal (coalKey e) { postedAt := now } } }

/-- A refused board-memory request: ISO_DENY and the event to the requester (R226). -/
def State.isoDeny (s : State) (fn kind obj addr : Nat) : State :=
  (s.count .isoDeny 0 1).general [fn] 0x0304 kind obj 0 addr s.boot.boardPos

/-! Command completions (R444, R445, R564, R566). -/

/-- Completion status values (R445). -/
def stOk : Nat := 0
def stInvalidArg : Nat := 1
def stInvalidImage : Nat := 2
def stResource : Nat := 3
def stRange : Nat := 4
def stInUse : Nat := 5
def stNotFound : Nat := 6
def stState : Nat := 7
def stDmaError : Nat := 8
def stSignature : Nat := 9

/-- The completion descriptor without PHASE (R444). -/
def compDesc (c : Cmd) (status detail r0 r1 written : Nat) : Bytes :=
  zeros 1 ++ leBytes 1 status ++ leBytes 2 c.opcode ++ leBytes 4 detail ++ leBytes 8 c.tag ++ leBytes 8 r0 ++
    leBytes 8 r1 ++ leBytes 4 written ++ zeros 28

/-- A command completes: its output bytes, its completion, and it is no longer outstanding (R474: nothing is written
for a function that was reset meanwhile). -/
def State.complete (s : State) (n : Nat) (status detail : Nat) (r0 r1 : Nat := 0) (out : Bytes := []) : State :=
  match Tbl.find? s.cmds n with
  | none => s
  | some c =>
    let s := { s with cmds := Tbl.del s.cmds n }
    if c.silent then s
    else
      let s := if out.isEmpty then s else s.emit (.dma c.fn c.outAddr out)
      (s.updFn c.fn (fun x => { x with comps := x.comps ++ [compDesc c status detail r0 r1 out.length] })).drainFn c.fn

/-- DETAIL of an INVALID_ARG at an offset of the argument block (R445). -/
def argAt (off : Nat) : Nat := 0x40000000 + off
/-- DETAIL of a command not permitted to its function (R445). -/
def notPermitted : Nat := 0x80000000

/-- Nothing earlier of the same ring is outstanding, as FENCE asks (R443). -/
def fenceOk (s : State) (n : Nat) (c : Cmd) : Bool :=
  !c.fence || (s.cmds.all (fun p => p.2.fn != c.fn || decide (n ≤ p.1)))

/-- The command a function would start next: its ring's first that has not started (R454). -/
def nextCmdOf (s : State) (fn : Nat) : Option (Nat × Cmd) :=
  List.find? (fun p => p.2.fn == fn && !p.2.started) s.cmds

/-- An earlier command of the same ring on the same object still runs (R454). -/
def objBusy (s : State) (fn n : Nat) (o : ObjRef) : Bool :=
  o != .none && s.cmds.any (fun p => decide (p.1 < n) && p.2.fn == fn && p.2.started && p.2.obj == o)

/-- OPCODEs of R455. -/
def opcodes : List Nat :=
  [0x0001, 0x0002, 0x0003, 0x0004, 0x0010, 0x0020, 0x0021, 0x0022, 0x0023, 0x0024, 0x0030, 0x0031, 0x0032, 0x0040,
   0x0050, 0x0051, 0x0052, 0x0060, 0x0061, 0x0070]

/-- A command at the head of its ring with an OPCODE outside R455 completes with INVALID_ARG (R455). -/
def refuseUndefined (fn : Nat) : Nat → State → State
  | 0, s => s
  | k + 1, s =>
    match nextCmdOf s fn with
    | some (n, c) =>
      if !opcodes.contains c.opcode && fenceOk s n c then refuseUndefined fn k (s.complete n stInvalidArg 0) else s
    | none => s

end Sys2Proof.Machine
end

