-- ==== Sys2Proof/Machine/Prepare.lean ====
section
/-! DEFINITION. Feature preparation (R73 to R93): the load, the steps of a CHAIN entry, CROSS and HOOK entries. Values are
32-bit patterns; the entry's kind says whether they are FP32 or two's complement. -/

namespace Sys2Proof.Machine

/-- LOAD (R73) of one raw field. -/
def loadRaw (ffmt v : Nat) : Nat :=
  match ffmt with
  | 1 => v % 65536 * 65536
  | 3 => wrap 32 (sext 16 v)
  | 4 => v % 256
  | _ => v % 2 ^ 32

/-- Bytes of one raw feature of a format (R73). -/
def ffmtBytes (ffmt : Nat) : Nat :=
  match ffmt with
  | 0 => 4 | 2 => 4 | 1 => 2 | 3 => 2 | _ => 1

/-- The raw features of a query's payload, loaded. The wire order is big-endian for `be`, else little-endian (R7, R8). -/
def loadAll (wire : Bool) (ffmt fcount : Nat) (b : Bytes) : List Nat :=
  let n := ffmtBytes ffmt
  (upTo fcount).map (fun i => loadRaw ffmt (if wire then be b (n * i) n else le b (n * i) n))

/-- A value on its way through preparation, and what has happened to it. -/
structure PVal where
  v : Nat
  isI : Bool
  /-- A NaN was given its meaning. -/
  mapped : Bool := false
  /-- A NaN under REJECT: the query is 0x21. -/
  reject : Bool := false
  deriving DecidableEq, Repr, Inhabited

/-- The value is a NaN in working type F. -/
def PVal.nan (x : PVal) : Bool := !x.isI && fp32.isNan x.v

/-- CAST (R76, R86). -/
def stepCast (policy : Nat) (e : Bytes) (x : PVal) : PVal :=
  if !peCast e then x
  else if peCastDir e then { x with v := (fp32.ofInt (sext 32 x.v)).1, isI := false }
  else if x.nan then
    { x with v := if policy = 2 then 0x80000000 else 0x7FFFFFFF, isI := true, mapped := true }
  else
    match fp32.decode x.v with
    | .inf neg => { x with v := if neg then 0x80000000 else 0x7FFFFFFF, isI := true }
    | .fin neg m q =>
      let i := if peCastRnd e then (finToIntRne neg m q).1 else finToIntTrunc neg m q
      { x with v := wrap 32 (clampInt i (-(2 ^ 31)) (2 ^ 31 - 1)), isI := true }
    | .nan _ => x

/-- SCALE (R77); its NaN under REJECT refuses the query (R87). -/
def stepScale (policy : Nat) (e : Bytes) (x : PVal) : PVal :=
  if !peScale e then x
  else
    let y := { x with v := (fp32.fma (peA e) x.v (peB e)).1 }
    if y.nan && policy == 0 then { y with reject := true } else y

/-- CLIP (R78). -/
def stepClip (e : Bytes) (x : PVal) : PVal :=
  if !peClip e || x.nan then x
  else if x.isI then
    { x with v := wrap 32 (clampInt (sext 32 x.v) (sext 32 (peLo e)) (sext 32 (peHi e))) }
  else if fp32.lt x.v (peLo e) then { x with v := peLo e }
  else if fp32.lt (peHi e) x.v then { x with v := peHi e }
  else x

/-- BIN (R79, R86): the number of edges at or below the value. -/
def stepBin (policy : Nat) (p e : Bytes) (x : PVal) : PVal :=
  if !peBin e then x
  else
    let ed := peEdges p e
    if x.nan then { x with v := if policy = 2 then 0 else ed.length, isI := true, mapped := true }
    else if x.isI then { x with v := ed.countP (fun a => decide (sext 32 a ≤ sext 32 x.v)) }
    else { x with v := ed.countP (fun a => fp32.ge x.v a), isI := true }

/-- A CHAIN entry's value from its raw feature (R75, R87). -/
def chainVal (p : Bytes) (accept : Nat) (e : Bytes) (raw : Nat) : PVal :=
  let pol := nanPolicy p
  let x : PVal := { v := raw, isI := acceptI accept }
  let x := if x.nan && pol == 0 then { x with reject := true } else x
  stepBin pol p e (stepClip e (stepScale pol e (stepCast pol e x)))

/-- What preparation of one query gives. -/
structure Prepared where
  vals : Tbl Nat := []
  nanReject : Bool := false
  nanMapped : Bool := false
  crossRange : Bool := false
  deriving DecidableEq, Repr, Inhabited

/-- Prepared features that a predicate tests, directly or through CROSS (R87), as a list over the entries: true where
needed. Entries name only earlier ones, so one pass from the last to the first closes the set. -/
def neededPreps (b p : Bytes) : List Bool :=
  let n := nprep p
  let direct := (upTo (npred b)).map (thrPrep b)
  (upTo n).foldl (fun (acc : List Bool) k =>
    let i := n - 1 - k
    let e := prepEntry p i
    if acc.getD i false && (peKind e == 1 || peKind e == 2) then (acc.set (peSrcA e) true).set (peSrcB e) true
    else acc) ((upTo n).map (fun i => direct.contains i))

/-- One entry, once the values it depends on are there (R80, R81, R83, R88). A NaN under REJECT refuses the query and gives no
value, so no entry after it consumes one (R86, R87). -/
def prepStep (p : Bytes) (accept : Nat) (raw : List Nat) (hook : Option (Tbl Nat)) (acc : Prepared) (i : Nat) :
    Prepared :=
  let e := prepEntry p i
  if Tbl.has acc.vals i then acc
  else
    match peKind e with
    | 0 =>
      let x := chainVal p accept e (raw.getD (peSrcA e) 0)
      if x.reject then { acc with nanReject := true }
      else
        { acc with vals := Tbl.put acc.vals i x.v,
                   nanMapped := acc.nanMapped || (nanPolicy p != 0 && (x.mapped || x.nan)) }
    | 3 =>
      match hook with
      | none => acc
      | some h =>
        match Tbl.find? h (peSrcA e) with
        | none => acc
        | some v =>
          let isNan := !peHookI e && fp32.isNan v
          if isNan && nanPolicy p == 0 then { acc with nanReject := true }
          else { acc with vals := Tbl.put acc.vals i v, nanMapped := acc.nanMapped || isNan }
    | k =>
      match Tbl.find? acc.vals (peSrcA e), Tbl.find? acc.vals (peSrcB e) with
      | some a, some c =>
        if k = 1 then
          let x := sext 32 a
          let y := sext 32 c
          let r := x * peA e + y
          if 0 ≤ y ∧ y < peA e ∧ 0 ≤ x ∧ r ≤ 2 ^ 31 - 1 then { acc with vals := Tbl.put acc.vals i (wrap 32 r) }
          else { acc with crossRange := true }
        else
          let h := (crc32c (beBytes 4 (peB e) ++ beBytes 4 a ++ beBytes 4 c)).toNat
          { acc with vals := Tbl.put acc.vals i (h % peA e) }
      | _, _ => acc

/-- Prepares every needed feature that can be: all but those that wait for the hook when `hook` is none. -/
def prepareAll (b p : Bytes) (accept : Nat) (raw : List Nat) (hook : Option (Tbl Nat)) (start : Tbl Nat) : Prepared :=
  let need := neededPreps b p
  (upTo (nprep p)).foldl (fun acc i => if need.getD i false then prepStep p accept raw hook acc i else acc)
    { vals := start }

/-- Hook outputs that some HOOK entry names (R84). -/
def hookOutputs (p : Bytes) : List Nat :=
  ((upTo (nprep p)).filter (fun i => peKind (prepEntry p i) == 3)).map (fun i => peSrcA (prepEntry p i))

/-- A predicate's bit on a prepared value (R101, R103): 1 when the value is at or above the threshold; a NaN follows
NAN_POLICY. -/
def predBit (b p : Bytes) (accept pred v : Nat) : Bool :=
  let i := thrPrep b pred
  if peOutI accept (prepEntry p i) then decide (sext 32 (thrVal b pred) ≤ sext 32 v)
  else if fp32.isNan v then nanPolicy p == 1
  else fp32.ge v (thrVal b pred)

end Sys2Proof.Machine
end

