-- ==== Sys2Proof/Machine/QueryOps.lean ====
section
/-! DEFINITION. Shared operations of the query path: a thread's image, its context bytes (R51), and how a thread's outcome
reaches its request. -/

namespace Sys2Proof.Machine

/-- The version of a model's rules a thread runs on (R21, R23). -/
def State.verOf (s : State) (t : Thread) : MVer := Tbl.getD (s.model t.model).vers t.ver {}

/-- The version in force of a model. -/
def State.curVer (s : State) (m : Nat) : MVer := Tbl.getD (s.model m).vers (s.model m).ver {}

/-- A request; an absent number reads as an empty request. -/
def State.req (s : State) (r : Nat) : Option Request := Tbl.find? s.reqs r

/-- Two requests belong to one flow (R46, R71): host or port, key address, FLOW_ID. -/
def Request.sameFlow (q p : Request) : Bool :=
  let host := fun (x : Request) => match x.src with | .host _ _ _ => true | .port _ => false
  host q == host p && q.keyAddr == p.keyAddr && q.flowId == p.flowId

/-- Changes item `i` of a list. -/
def updAt {α : Type} (l : List α) (i : Nat) (f : α → α) : List α :=
  match l[i]? with | some a => l.set i (f a) | none => l

/-- Changes query `i` of a request. -/
def State.updRec (s : State) (r i : Nat) (f : QRec → QRec) : State :=
  s.updReq r (fun q => { q with recs := updAt q.recs i f })

/-- Status a thread's evaluation gives: 0x21 takes precedence over 0x30 (R168). -/
def Thread.status (t : Thread) : Nat := if t.invalid then 0x21 else if t.fault then 0x30 else 0

/-- Evaluation of a thread is over: its record carries status and scores and waits for reply build. -/
def State.endThread (s : State) (tid : Nat) : State :=
  match Tbl.find? s.threads tid with
  | none => s
  | some t =>
    let sc := if t.status = 0 then t.scores.map Prod.snd else []
    (s.updThread tid (fun x => { x with done := true, sums := [], sumFrom := none })).updRec t.req t.qi
      (fun r => { r with status := t.status, scores := sc, ready := true })

/-- The thread's stage-program context ends and its pending loads are discarded. -/
def State.dropCtxOf (s : State) (tid : Nat) : State :=
  { s with vctx := s.vctx.filter (fun p => p.2.thread != tid) }

/-- The query is answered 0x21 (R66): its run, if any, is ended (R168). -/
def State.threadInvalid (s : State) (tid : Nat) : State :=
  ((s.updThread tid (fun x => { x with invalid := true })).dropCtxOf tid).endThread tid

/-- The query is answered 0x30 MODEL_FAULT. -/
def State.threadFault (s : State) (tid : Nat) : State :=
  ((s.updThread tid (fun x => { x with fault := true })).dropCtxOf tid).endThread tid

/-- SOURCE of a thread context (R51). -/
def srcField : Src → Nat
  | .port p => p / 8 * 16 + p % 8
  | .host fn _ _ => 0x8000 + fn / 64 * 4096 + fn % 64

/-- Reply destination: the collector when COLLECTOR takes effect, else the sender (R39). -/
def Request.replyTo (q : Request) : Nat × Nat :=
  match q.collector with
  | some (a, p) => (a, p)
  | none => (q.ipSrc, q.udpS)

/-- The 256 bytes of a thread context (R51). -/
def ctxBytes (s : State) (tid : Nat) (t : Thread) : Bytes :=
  match s.req t.req with
  | none => zeros 128 ++ padTo 128 t.scratch
  | some q =>
    let host := match q.src with | .host _ _ _ => true | .port _ => false
    let qid := match q.recs[t.qi]? with | some r => r.qid | none => 0
    let cfl := b2n q.collector.isSome * 128 + b2n q.spec * 64 + b2n q.split * 32 + b2n q.bf16 * 16
    let (ra, rp) := q.replyTo
    let tci := match q.tag with | some (_, v) => v | none => 0
    leBytes 4 tid ++ leBytes 2 t.model ++ leBytes 2 qid ++ leBytes 4 q.flowId ++ leBytes 4 q.seq ++
      leBytes 4 (if host then 0xFFFFFFFF else q.handle.getD 0xFFFFFFFF) ++ leBytes 1 t.qi ++ leBytes 1 t.ffmt ++
      leBytes 2 t.fcount ++ leBytes 8 t.tArrive ++ leBytes 8 t.tDeadline ++ leBytes 2 (srcField q.src) ++
      leBytes 1 t.status ++ leBytes 1 cfl ++ zeros 4 ++ leBytes 16 ra ++ leBytes 2 rp ++ leBytes 2 tci ++ zeros 60 ++
      padTo 128 t.scratch

/-- A region of device `dev` granted to an owner (board position · 256 + function) covers these bytes. A THREAD request
names its context too; a HOST request does not (R223, R224). -/
def grantedTo (s : State) (owner : Nat) (ctx : Option Nat) (dev a n : Nat) : Bool :=
  s.regions.any (fun p => p.2.dev == dev && p.2.owner == owner &&
    (match ctx with | some c => p.2.ctx == c || p.2.ctx == 0xFFF | none => true) &&
    decide (p.2.base ≤ a) && decide (a + n ≤ p.2.base + p.2.len))

/-- The identity of a context's requests on this device lets it read these bytes. -/
def granted (s : State) (owner ctx dev a n : Nat) : Bool :=
  grantedTo s (s.boot.boardPos * 256 + owner) (some ctx) dev a n

/-- The region table or the grant list of a region is lost: its requests are refused (R275). -/
def regionLost (s : State) (dev a : Nat) : Bool :=
  s.regions.any (fun p => p.2.dev == dev && decide (p.2.base ≤ a) && decide (a < p.2.base + p.2.len) &&
    s.place.lost.any (fun l => l.obj == .region p.1))

/-- Poison consumed by a query: the model context enters MODEL_FAULT (R280). -/
def State.consumePoison (s : State) (ctx a : Nat) : State :=
  let obj := objCode 1 ctx
  let s := (s.count .poisonConsumed 0 1).integ
    { fcode := 0x0112, sev := 1, unitKind := 4, unit := a / 2 ^ 37 % 4, obj := obj, addr := a, detail := 0 }
  let s := s.updModel ctx (fun m => { m with st := 4 })
  s.integ { fcode := 0x0113, sev := 1, obj := obj, detail := 0 }

end Sys2Proof.Machine
end

