-- ==== Sys2Proof/Machine/BlpOps.lean ====
section
/-! DEFINITION. Packets of the board-link protocol as a source sends them: header, routes, requests and their completions
(R222, R228 to R238, R408). -/

namespace Sys2Proof.Machine

/-- The 16-byte header with SEQ 0 (R229). -/
def blpHdr (ty src dst : Nat) (relay : Bool) (tag code addr rid : Nat) : Bytes :=
  beBytes 1 (ty * 16) ++ beBytes 1 (src * 32 + dst * 4 + b2n relay * 2) ++ beBytes 2 0 ++
    beBytes 2 (tag * 16 + code) ++ beBytes 6 addr ++ beBytes 4 rid

/-- TYPE, SRC_DEV, DST_DEV, RELAY, SEQ, TAG, CODE, ADDR, RID of a packet (R229). -/
def pkTy (p : Bytes) : Nat := byteAt p 0 / 16
def pkSrc (p : Bytes) : Nat := byteAt p 1 / 32
def pkDst (p : Bytes) : Nat := byteAt p 1 / 4 % 8
def pkRelay (p : Bytes) : Bool := bit (byteAt p 1) 1
def pkSeq (p : Bytes) : Nat := be p 2 2
def pkTag (p : Bytes) : Nat := be p 4 2 / 16
def pkCode (p : Bytes) : Nat := be p 4 2 % 16
def pkAddr (p : Bytes) : Nat := be p 6 6
def pkRid (p : Bytes) : Nat := be p 12 4
/-- The payload, between header and CRC. -/
def pkBody (p : Bytes) : Bytes := (p.drop 16).take (p.length - 20)

/-- A packet with its SEQ. -/
def withSeq (p : Bytes) (seq : Nat) : Bytes := p.take 2 ++ beBytes 2 seq ++ p.drop 4
/-- A packet with its CRC (R228). -/
def withCrc (p : Bytes) : Bytes := p ++ fcsBytes p
/-- A packet that ends with the inverted CRC (R235). -/
def withBadCrc (p : Bytes) : Bytes := p ++ (fcsBytes p).map (fun x => x ^^^ 0xFF#8)

/-- RID of a THREAD (0) or HOST (1) request, or of CTRL (2) (R229). -/
def ridOf (kind fn ctx : Nat) : Nat := kind * 2 ^ 30 + fn / 64 * 2 ^ 28 + fn % 64 * 2 ^ 22 + ctx * 1024

/-- Bytes in a link's replay buffer (R234). -/
def Link.replayed (l : Link) : Nat := l.replay.foldl (fun a p => a + p.bytes.length + 4) 0

/-- A packet counts as issued work that a deep request holds back: everything but completions (R416). -/
def heldForDeep (l : Link) (p : Bytes) : Bool := l.deepSince.isSome && pkTy p != 4 && pkTy p != 5

/-- The link may send this packet now: ACTIVE, and room in the 64 KiB replay buffer. -/
def Link.maySend (l : Link) (p : Bytes) : Bool :=
  l.st == .active && !l.resume && !heldForDeep l p && decide (l.replayed + p.length + 4 ≤ 65536)

/-- A request's first transmission starts its TIMEOUT (R417). -/
def markIssued (s : State) (p : Bytes) : State :=
  if (pkTy p = 1 ∨ pkTy p = 2) ∧ pkSrc p = s.boot.boardPos then
    { s with blpReqs := Tbl.modify s.blpReqs (pkDst p * 4096 + pkTag p)
                          (fun r => { r with issued := some (r.issued.getD s.now) }) }
  else s

/-- Puts a packet on the wire with the next SEQ and keeps it for replay (R234). A packet that becomes ready during an
exercise sequence is counted (R411). -/
def sendNow (s : State) (l : Nat) (p : Bytes) : State :=
  let k := s.link l
  let b := withSeq p k.txSeq
  let s := if s.now < k.exUntil then s.count .blExWait l 1 else s
  let s := s.updLink l (fun x =>
    { x with txSeq := (x.txSeq + 1) % 65536, replay := x.replay ++ [⟨k.txSeq, b⟩], idleSince := s.now,
             lastAck := if x.replay.isEmpty then s.now else x.lastAck,
             owed := if pkTy p = 4 ∨ pkTy p = 5 then x.owed - 1 else x.owed })
  (markIssued s p).emit (.blp l (withCrc b))

/-- Sends what waits on a link, as far as it may. -/
def pumpLink (l : Nat) : Nat → State → State
  | 0, s => s
  | n + 1, s =>
    match (s.link l).waiting with
    | p :: t =>
      if (s.link l).maySend p then pumpLink l n (sendNow (s.updLink l (fun x => { x with waiting := t })) l p) else s
    | [] => s

/-- Hands a packet to a link. -/
def sendBlp (s : State) (l : Nat) (p : Bytes) : State :=
  let s := s.updLink l (fun x => { x with waiting := x.waiting ++ [p] })
  pumpLink l (s.link l).waiting.length s

/-- ACK or NAK of a sequence number: no SEQ of its own, not kept (R229, R234). -/
def sendAck (s : State) (l : Nat) (nak : Bool) : State :=
  let k := s.link l
  let p := withSeq (blpHdr (if nak then 7 else 6) s.boot.boardPos k.farPos false 0 0 0 0) ((k.rxSeq + 65535) % 65536)
  if k.st = .active then
    (s.updLink l (fun x => { x with unacked := 0, idleSince := s.now })).emit (.blp l (withCrc p))
  else s

/-! Routes (R237, R408). -/

/-- The lowest-numbered link up to a device: ACTIVE or deep, else one that retrains or leaves the deep state. -/
def linkTo (s : State) (dev : Nat) : Option Nat :=
  let on := fun (ok : BlSt → Bool) => (upTo 7).find? (fun l =>
    let k := s.link l
    ok k.st && k.farValid && k.farPos == dev)
  match on (fun t => t == .active || t == .deep) with
  | some l => some l
  | none => on (fun t => t == .retrain || t == .exiting)

/-- A device has a link up to another, as far as this one knows: one it was told nothing of is taken to have all its links
(R237, log 14). -/
def peerHas (s : State) (dev d : Nat) : Bool :=
  match Tbl.find? s.peerUp dev with
  | some l => l.contains d
  | none => true

/-- The link of the route a device should have: direct, else through the lowest-numbered device with links up to both ends
(R237). -/
def routeOf (s : State) (dev : Nat) : Option Nat :=
  match linkTo s dev with
  | some l => some l
  | none => ((upTo 8).filter (fun d => d != dev && d != s.boot.boardPos && peerHas s dev d)).findSome? (fun d => linkTo s d)

/-- A board position holds a device, as far as the links have learnt (R218). -/
def populated (s : State) (dev : Nat) : Bool :=
  dev == s.boot.boardPos || (upTo 7).any (fun l => (s.link l).met && (s.link l).farPos == dev) ||
    (match Tbl.find? s.peerUp dev with | some l => !l.isEmpty | none => false)

/-- Requests to a device without completion on some other link than `l`. -/
def outstandingElsewhere (s : State) (dev l : Nat) : Bool :=
  s.blpReqs.any (fun p => p.1 / 4096 == dev && p.2.link != l)

/-- The link on which a request to a device may be issued now, and the state with its route recorded (R237). -/
def issueRoute (s : State) (dev : Nat) : Option (Option Nat × State) :=
  match routeOf s dev with
  | none => some (none, s)
  | some l =>
    if outstandingElsewhere s dev l then none
    else some (some l, { s with blpRoute := Tbl.put s.blpRoute dev l })

/-! Requests and their completions (R232, R233, R236). -/

/-- The one that waits for a request is still there. -/
def srcAlive (s : State) : BlpSrc → Bool
  | .load c seed tag =>
    match Tbl.find? s.vctx c with
    | some x => x.seed == seed && Tbl.has x.tags tag
    | none => false
  | .bag r qi _ => s.threads.any (fun p => p.2.req == r && p.2.qi == qi && p.2.phase == .bags)
  | _ => true

/-- TYPE and payload of a source's request (R230). -/
def BlpSrc.ty : BlpSrc → Nat
  | .write _ => 2
  | _ => 1
def BlpSrc.body : BlpSrc → Bytes
  | .write b => b
  | _ => []

/-- The source is the control cores. -/
def BlpSrc.ctrl : BlpSrc → Bool
  | .write _ => true
  | .check _ => true
  | _ => false

/-- The granules of bytes at a board address. -/
def boardGranules (a n : Nat) : List Nat := (granulesOf a n).map (· * 64)

/-- What a source's request for a granule came to: status and data. -/
def remoteGot (s : State) (src : BlpSrc) (g : Nat) : Option (Nat × Bytes) :=
  (s.blpGot.find? (fun p => p.src == src && p.addr == g)).map (fun p => (p.status, p.data))

/-- What a source's requests came to has been read and is gone. -/
def dropReqs (s : State) (src : BlpSrc) : State := { s with blpGot := s.blpGot.filter (fun p => p.src != src) }

/-- An aperture read whose granules have all come back is answered: data, EP-poisoned data or a Completer Abort (R227). -/
def finishAperture (s : State) (id fn a n : Nat) : State :=
  let src := BlpSrc.aperture id fn a n
  let got := (boardGranules a n).map (remoteGot s src)
  if got.all Option.isSome then
    let s := dropReqs s src
    let bytes := slice (got.flatMap (fun g => match g with | some (_, b) => padTo 64 (b.take 64) | none => [])) (a % 64) n
    if got.any (fun g => match g with | some (st, _) => st != 0 && st != 3 | none => false) then s.emit (.barAbort fn)
    else if got.any (fun g => match g with | some (st, _) => st == 3 | none => false) then s.emit (.barPoison fn bytes)
    else s.emit (.bar fn bytes)
  else s

/-- A request ends at its source with a status and data. A refusal of a tenant's request is reported to its function alone
(R226). After a write whose outcome is unknown the control cores read the granule back, and write it again where it does not
hold what they wrote (R236, log 140). -/
def endReq (s : State) (w : BlpWait) (st : Nat) (data : Bytes) : State :=
  let st := if 7 ≤ st then 4 else st
  let s := if st = 2 then
      s.general [w.rid / 2 ^ 28 % 4 * 64 + w.rid / 2 ^ 22 % 64] 0x0304 (w.rid / 2 ^ 30)
        (if w.rid / 2 ^ 30 = 0 then objCode 1 (w.rid / 1024 % 4096) else 0) 0 w.addr (w.addr / 2 ^ 45)
    else s
  let again := fun (x : BlpSrc) => { s with blpWait := s.blpWait ++ [{ w with src := x }] }
  if !srcAlive s w.src then s
  else
    match w.src with
    | .write b => if st = 4 ∨ st = 5 then again (.check b) else s
    | .check b => if st = 4 ∨ st = 5 then again (.check b) else if st = 0 ∧ data ≠ b then again (.write b) else s
    | .aperture id fn a n => finishAperture { s with blpGot := s.blpGot ++ [⟨w.src, w.addr, st, data⟩] } id fn a n
    | _ => { s with blpGot := s.blpGot ++ [⟨w.src, w.addr, st, data⟩] }

/-- Granule reads of bags that a block has in flight (R146). -/
def bagReads (s : State) (r qi : Nat) : Nat :=
  let blockOf := fun (r qi : Nat) => (List.find? (fun (p : Nat × Thread) => p.2.req == r && p.2.qi == qi) s.threads).map (fun p => p.1 / 4096)
  s.blpReqs.countP (fun p => match p.2.src with | .bag r' qi' _ => blockOf r' qi' == blockOf r qi | _ => false)

/-- Issues a request, if it may be issued now: a free TAG, its route settled, and for a bag fewer than 2,048 reads in flight on
its block (R146, R233, R237). One to a position without a device ends with ADDR, a tenant's with DENIED (R218, R225); one
without a route with LINK, but the control cores wait for one. -/
def tryIssue (s : State) (w : BlpWait) : Option State :=
  let dev := w.addr / 2 ^ 45
  let full := match w.src with | .bag r qi _ => decide (2048 ≤ bagReads s r qi) | _ => false
  if !srcAlive s w.src then some s
  else if !populated s dev then some (if w.src.ctrl then endReq s w 1 [] else endReq (s.count .isoDeny 0 1) w 2 [])
  else if full then none
  else
    match Tbl.freeKey s.blpReqs (dev * 4096) 4096, issueRoute s dev with
    | _, some (none, s) => if w.src.ctrl then none else some (endReq s w 4 [])
    | some k, some (some l, s) =>
      some (sendBlp { s with blpReqs := Tbl.put s.blpReqs k ⟨w.src, w.addr, w.rid, l, none⟩ } l
        (blpHdr w.src.ty s.boot.boardPos dev false (k % 4096) 0 w.addr w.rid ++ w.src.body))
    | _, _ => none

/-- Issues what waits, in order for each target, as far as it may be issued (R233). -/
def pumpBlp (s : State) : State :=
  let r := s.blpWait.foldl (fun (a : State × List BlpWait) w =>
    if a.2.any (fun v => v.addr / 2 ^ 45 == w.addr / 2 ^ 45) then (a.1, a.2 ++ [w])
    else match tryIssue a.1 w with | some t => (t, a.2) | none => (a.1, a.2 ++ [w])) ({ s with blpWait := [] }, [])
  { r.1 with blpWait := r.2 ++ r.1.blpWait }

/-- An outstanding request completes: its TAG is free (R232, R233). -/
def reqDone (s : State) (k st : Nat) (data : Bytes) : State :=
  match Tbl.find? s.blpReqs k with
  | none => s
  | some r => pumpBlp (endReq { s with blpReqs := Tbl.del s.blpReqs k } ⟨r.src, r.addr, r.rid⟩ st data)

/-- Issues a read of one granule of another device, unless it is already under way (R225, R233). -/
def issueRd (s : State) (src : BlpSrc) (rid : Nat) (g : Nat) : State :=
  if s.blpReqs.any (fun p => p.2.src == src && p.2.addr == g) || s.blpGot.any (fun p => p.src == src && p.addr == g) ||
      s.blpWait.any (fun p => p.src == src && p.addr == g) then s
  else pumpBlp { s with blpWait := s.blpWait ++ [⟨src, g, rid⟩] }

/-- Issues the reads that the bytes at some board addresses need from other devices. -/
def issueReads (s : State) (src : BlpSrc) (rid size : Nat) (l : List Nat) : State :=
  (l.flatMap (fun a => if a / 2 ^ 45 = s.boot.boardPos then [] else boardGranules a size)).foldl
    (fun s g => issueRd s src rid g) s

/-- The control cores write bytes to another device, granule by granule (R230, R240). -/
def writeRemote (s : State) (a : Nat) (b : Bytes) : State :=
  pumpBlp { s with blpWait := s.blpWait ++
    (upTo (ceilDiv b.length 64)).map (fun i => ⟨.write (padTo 64 (slice b (64 * i) 64)), a + 64 * i, ridOf 2 0 0⟩) }

/-- A link reset or disabled: requests outstanding on it complete with LINK, its packets are dropped, both directions
restart at SEQ 0 (R236). -/
def dropLink (s : State) (l : Nat) : State :=
  let ks := (s.blpReqs.filter (fun p => p.2.link == l)).map Prod.fst
  let s := s.updLink l (fun x =>
    { x with st := .disabled, txSeq := 0, rxSeq := 0, replay := [], waiting := [], replays := 0, unacked := 0, owed := 0 })
  ks.foldl (fun s k => reqDone s k 4 []) s

/-! Query-path data between devices (R231). -/

/-- Sub-header and body of a QMSG (R231). -/
def qmsgBody (eval ctx first count holder layer : Nat) (body : Bytes) : Bytes :=
  beBytes 4 eval ++ beBytes 2 ctx ++ beBytes 2 first ++ beBytes 2 count ++ beBytes 1 holder ++ beBytes 1 layer ++
    zeros 4 ++ padMul 16 body

/-- Sends a QMSG to a device, none where no route exists. -/
def sendQmsg (s : State) (dev kind fn ctx : Nat) (p : Bytes) : Option State :=
  match routeOf s dev with
  | none => none
  | some l =>
    some (sendBlp s l (blpHdr 9 s.boot.boardPos dev false 0 0 (kind * 65536 + p.length) (ridOf 0 fn ctx) ++ p))

end Sys2Proof.Machine
end

