-- ==== Sys2Proof/Machine/Operands.lean ====
section
/-! DEFINITION. How a command row of the host interface takes its operands: the descriptor that was fetched, the argument
block, and the checks every command shares (R436, R443, R445, R454). -/

namespace Sys2Proof.Machine

/-- A command completes, and commands behind it with an undefined OPCODE are refused. -/
def State.finish (s : State) (n status detail : Nat) (r0 r1 : Nat := 0) (out : Bytes := []) : State :=
  match Tbl.find? s.cmds n with
  | none => s
  | some c => refuseUndefined c.fn s.cmds.length (s.complete n status detail r0 r1 out)

/-- The offset of the first field that is not legal, from (offset, legal) pairs in rising order (R445). -/
def firstBad : List (Nat × Bool) → Option Nat
  | [] => none
  | (o, ok) :: t => if ok then firstBad t else some o

/-- The next command of a function, if it has this OPCODE and may start (R443, R454). -/
def headCmd (s : State) (fn op : Nat) : Option (Nat × Cmd) :=
  match nextCmdOf s fn with
  | some (n, c) => if c.opcode = op ∧ fenceOk s n c then some (n, c) else none
  | none => none

/-- Takes the next command of a function and its argument block. The left answer is the state when there is nothing
to do or the command completed with an error; the right one is the command's number, its descriptor and its argument
block, for the command's own meaning. -/
def takeArg (s : State) (fn op : Nat) (perm : Bool) (lenOk : Nat → Bool) (arg : Dma) :
    State ⊕ (Nat × Cmd × Bytes) :=
  if !s.live || !(s.fn fn).bme then .inl s
  else
    match headCmd s fn op with
    | none => .inl s
    | some (n, c) =>
      let bad := match c.badOff with
        | some o => if 0x18 < o ∧ !lenOk c.argLen then some 0x18 else some o
        | none => if lenOk c.argLen then none else some 0x18
      if !perm then .inl (s.finish n stInvalidArg notPermitted)
      else
        match bad with
        | some o => .inl (s.finish n stInvalidArg o)
        | none =>
          match arg with
          | .err st => .inl (s.finish n stDmaError st)
          | .data b => .inr (n, c, padTo c.argLen (b.take c.argLen))

/-- Starts the command on its object, unless an earlier command of its ring on the same object still runs (R454). -/
def startOn (s : State) (fn n : Nat) (o : ObjRef) (k : State → State) : State :=
  if objBusy s fn n o then s
  else k { s with cmds := Tbl.modify s.cmds n (fun c => { c with started := true, obj := o }) }

/-- A physical function. -/
def isPf (f : Nat) : Bool := f % 64 == 0

/-- A port number in an argument block ([10:4] port, [2:0] sub-port, PARENT_PORT): the field is legal. -/
def portFieldOk (v : Nat) : Bool := decide (v < 2048) && !bit v 3
/-- The port it names, as port · 8 + sub-port. -/
def portOf (v : Nat) : Nat := bitsOf v 10 4 * 8 + bitsOf v 2 0
/-- The field that names a port. -/
def portField (p : Nat) : Nat := p / 8 * 16 + p % 8

/-- OBJECT of an event about a hardened object (R305). -/
def HardKind.object : HardKind → Nat
  | .model c => objCode 1 c
  | .group g => objCode 2 g
  | .region _ => 0x4000
  | _ => 0

/-- A lost hardened word is written again by a command or a register write: all three copies are good (R276, R303). -/
def State.rewritten (s : State) (obj : HardKind) : State :=
  if s.place.lost.any (fun l => l.obj == obj) then
    ({ s with place := { s.place with lost := s.place.lost.filter (fun (x : Lost) => x.obj != obj) } }).integ
      { fcode := 0x0103, sev := 0, unitKind := 10, obj := obj.object, detail := 0 }
  else s

/-- The object of a hardened word is gone: nothing of it is lost any more. -/
def State.forget (s : State) (obj : HardKind) : State :=
  { s with place := { s.place with lost := s.place.lost.filter (fun (x : Lost) => x.obj != obj) } }

end Sys2Proof.Machine
end

