-- ==== Sys2Proof/Machine/PlaceOps.lean ====
section
/-! DEFINITION. Shared operations of placement: what a block holds, standby blocks, and the failure of a block up to its
remap (R243, R244, R297, R298, R563). -/

namespace Sys2Proof.Machine

/-- Stack of a local address (R219). -/
def stackOf (a : Nat) : Nat := a / 2 ^ 37 % 4
/-- Granules of a stack found uncorrectable within the last second (R297). -/
def badGranules (s : State) (k : Nat) : List (Nat × Nat) :=
  (Tbl.getD s.place.poisonRate k []).filter (fun x => decide (s.now < x.2 + second))
/-- A granule is found uncorrectable, by a read or by scrub: it is poisoned (R279) and counts toward its stack's failure (R297). -/
def poisonGranule (s : State) (g : Nat) : State :=
  let k := stackOf (g * 64)
  let s := { s with place := { s.place with
    poisonRate := Tbl.put s.place.poisonRate k ((g, s.now) :: (badGranules s k).filter (fun x => x.1 != g)) } }
  if s.poison.contains g then s
  else
    (({ s with poison := g :: s.poison }).count .poisonSet 0 1).integ
      { fcode := 0x0111, sev := 1, unitKind := 4, unit := k, addr := g * 64, detail := 0 }

/-- A read of ranges of local HBM, (address, length), finds the granules `bad` of them uncorrectable (R279, log 143). -/
def foundBad (s : State) (reads : List (Nat × Nat)) (bad : List Nat) : State :=
  (bad.filter (fun g => bit s.place.stackLive (stackOf (g * 64)) &&
    reads.any (fun r => decide (r.1 < g * 64 + 64) && decide (g * 64 < r.1 + r.2)))).foldl poisonGranule s

/-- Models of which some version has a slice on a block. -/
def modelsOn (s : State) (b : Nat) : List Nat :=
  (List.filter (fun (p : Nat × Model) => p.2.vers.any (fun v => v.2.replicas.any (fun r => r.2.slices.any (fun x =>
    x.dev.isNone && x.block == b)))) s.models).map Prod.fst

/-- Fold groups that accumulate on a block. -/
def groupsOn (s : State) (b : Nat) : List Nat :=
  (List.filter (fun (p : Nat × Group) => p.2.accBlocks.contains b || p.2.blocks.any (fun q => q.2.acc == b &&
    q.2.pending) || (match p.2.nextAcc with | some (_, l) => l.contains b | none => false)) s.groups).map Prod.fst

/-- A block holds work (R293). -/
def holdsWork (s : State) (b : Nat) : Bool :=
  !(modelsOn s b).isEmpty || !(groupsOn s b).isEmpty || s.threads.any (fun p => p.1 / 4096 == b)

/-- A block is in service and may take work. -/
def inService (s : State) (b : Nat) : Bool :=
  let x := s.block b
  !x.fenced && !x.retired && !x.failed && !x.testing && !x.draining

/-- A block in service that holds no work, is no target of a migration and is not standby. -/
def freeBlock (s : State) (b : Nat) : Bool :=
  inService s b && !(s.block b).standby && !holdsWork s b && !s.place.migs.any (fun p => p.2.dst == b && !p.2.lost)

/-- Standby blocks of a compute die. -/
def standbyOn (s : State) (die : Nat) : List Nat :=
  (upTo 64).filter (fun b => (s.block b).standby && b / 32 == die && !(s.block b).retired)

/-- The next standby block (R563): the die with fewer standby blocks, CD1 if equal; its highest-numbered free block; the
other die where it has none. -/
def nextStandby (s : State) : Option Nat :=
  let pick := fun (die : Nat) => ((upTo 64).filter (fun b => b / 32 == die && freeBlock s b)).getLast?
  let d := if (standbyOn s 0).length < (standbyOn s 1).length then 0 else 1
  match pick d with
  | some b => some b
  | none => pick (1 - d)

/-- Standby blocks in all. -/
def standbyCount (s : State) : Nat := (standbyOn s 0).length + (standbyOn s 1).length

/-- Raises the standby count to STANDBY; where no free block remains the host is told (R244). -/
def topUpStandby : Nat → State → State
  | 0, s => s
  | n + 1, s =>
    if s.place.standby ≤ standbyCount s then s
    else
      match nextStandby s with
      | some b => topUpStandby n (s.updBlock b (fun x => { x with standby := true }))
      | none => s.integ { fcode := 0x0144, sev := 2, detail := standbyCount s }

/-- Releases standby blocks beyond STANDBY (R563): the die with more, CD0 if equal; its lowest-numbered one. -/
def trimStandby : Nat → State → State
  | 0, s => s
  | n + 1, s =>
    if standbyCount s ≤ s.place.standby then s
    else
      let d := if (standbyOn s 0).length < (standbyOn s 1).length then 1 else 0
      match (standbyOn s d).head? with
      | some b => trimStandby n (s.updBlock b (fun x => { x with standby := false }))
      | none => s

/-- A test that cannot run ends; a TEST_RUN that waits for it completes with STATE (R566 kind 3). -/
def abandonTest (s : State) (b : Nat) : State :=
  let c := (s.block b).testCmd
  let s := s.updBlock b (fun x => { x with testDue := none, deferEnd := none, testing := false, testCmd := none })
  match c with | some n => s.finish n stState 0x0300 | none => s

/-- Migrations that had not switched when a block fails (R252, R303): one from it is over, one to it stays without a target until
placement has chosen another; the work stays on its source. -/
def abandonMigs (s : State) (b : Nat) : State :=
  let dead := List.filter (fun (p : Nat × Mig) => !p.2.switched && p.2.src == b) s.place.migs
  let keep := List.filter (fun (p : Nat × Mig) => p.2.switched || p.2.src != b) s.place.migs
  let s := { s with place := { s.place with migs := Tbl.mapVals keep (fun _ g => if g.dst = b ∧ g.switched = false then { g with lost := true } else g) } }
  dead.foldl (fun s p => s.updBlock p.2.src (fun x => { x with draining := false, testMove := none, testWork := [] })) s

/-- A block fails (R297, R298 step 1): it is fenced and retired, its work waits for the remap; a failed standby block is
replaced. -/
def failBlock (s : State) (b cause : Nat) : State :=
  let x := s.block b
  if x.retired then s
  else
    let s := if x.testing then s.count .testPermanent 0 1 else s
    let work := holdsWork s b
    let s := (s.count .blockRetired 0 1).integ { fcode := 0x0140, sev := 2, unitKind := 1, unit := b, detail := cause }
    let s := s.updBlock b (fun y =>
      { y with fenced := true, retired := true, standby := false, draining := false, testing := false, failed := work,
               testDue := none, deferEnd := none, batch := none })
    let s := { s with vctx := List.filter (fun (p : Nat × VCtx) => p.1 / 256 != b) s.vctx }
    topUpStandby 9 (abandonMigs (if x.testDue.isSome then abandonTest s b else s) b)

end Sys2Proof.Machine
end

