-- ==== Sys2Proof/Machine/StageContext.lean ====
section
/-! DEFINITION. A stage-program context: reading and writing its registers, issue and its stalls, exceptions, and the two
bindings (R150 to R153, R162, R163, R166, R167). -/

namespace Sys2Proof.Machine

/-- Keys of `ready`: s r at r, v r at 64 + r, p r at 96 + r. -/
def kS (r : Nat) : Nat := r
def kV (r : Nat) : Nat := 64 + r
def kP (r : Nat) : Nat := 96 + r

/-- s[r]; an unwritten register holds a free value (log 6). -/
def VCtx.getS (x : VCtx) (r : Nat) : Nat := (Tbl.find? x.s r).getD (Config.vseScalar x.seed r).toNat % 2 ^ 64
/-- Lane i of v[r]. -/
def VCtx.lane (x : VCtx) (r i : Nat) : Nat :=
  (match Tbl.find? x.v r with | some l => l.getD i 0 | none => (Config.vseLane x.seed r i).toNat) % 2 ^ 32
/-- v[r], 256 lanes. -/
def VCtx.getV (x : VCtx) (r : Nat) : List Nat := (upTo 256).map (x.lane r)
/-- p[r]; p0 reads as all ones. -/
def VCtx.getP (x : VCtx) (r : Nat) : Nat :=
  if r = 0 then 2 ^ 256 - 1 else (Tbl.find? x.p r).getD (Config.vsePred x.seed r).toNat % 2 ^ 256

/-- Writes s[r], usable `lat` cycles after the issue at `c`. -/
def VCtx.setS (x : VCtx) (c lat r v : Nat) : VCtx :=
  { x with s := Tbl.put x.s r (v % 2 ^ 64), ready := Tbl.put x.ready (kS r) (c + lat) }
/-- Writes v[r]. -/
def VCtx.setV (x : VCtx) (c lat r : Nat) (v : List Nat) : VCtx :=
  { x with v := Tbl.put x.v r v, ready := Tbl.put x.ready (kV r) (c + lat) }
/-- Writes p[r]; writes to p0 are ignored. -/
def VCtx.setP (x : VCtx) (c lat r v : Nat) : VCtx :=
  if r = 0 then x else { x with p := Tbl.put x.p r v, ready := Tbl.put x.ready (kP r) (c + lat) }

/-- Result latency of an instruction (R153). -/
def VIns.lat : VIns → Nat
  | .sca op _ _ _ => if op = 0x14 || op = 0x15 || op = 0x19 || op = 0x1A then 12 else 4
  | .vec op .. => if (6 ≤ op && op ≤ 0x0B) || op = 0x16 || op = 0x17 then 12 else 4
  | _ => 4

/-- The registers an instruction reads or overwrites (R153, R157). -/
def VIns.uses : VIns → List Nat
  | .sca op sd sa sb =>
    if op = 0x1C then []
    else if op = 0x1B then [kS sd]
    else if op = 0x15 || op = 0x17 || op = 0x18 || op = 0x19 || op = 0x1A then [kS sd, kS sa]
    else [kS sd, kS sa, kS sb]
  | .imm _ sd sa _ => [kS sd, kS sa]
  | .movk _ sd _ => [kS sd]
  | .vec op vd va vb pg _ bc =>
    let b := if bc then [kS vb] else [kV vb]
    kP pg ::
      (if op ≤ 6 then [kV vd, kV va] ++ b
       else if op ≤ 0x0B then [kV vd, kV va]
       else if op ≤ 0x10 then [kV vd, kV va] ++ b
       else if op = 0x11 then [kV vd, kV va]
       else if op ≤ 0x14 then [kP (vd % 8), kV va] ++ b
       else if op = 0x15 then [kV vd, kV va]
       else if op ≤ 0x17 then [kS vd, kV va]
       else if op = 0x1A then [kP (vd % 8), kP (va % 8)]
       else if op ≤ 0x1A then [kP (vd % 8), kP (va % 8), kP (vb % 8)]
       else if op = 0x1B then [kV vd]
       else [kV vd, kV va] ++ b)
  | .mem op rd sa _ => if op = 1 then [kV rd, kS sa] else [kS rd, kS sa]
  | .ldb op rd sa _ _ => if op = 9 then [kV rd, kS sa] else [kS rd, kS sa]
  | .gath _ rd sa vi _ pg _ => [kV rd, kS sa, kV vi, kP pg]
  | .ctl op sa _ =>
    if op = 0 || op = 8 then [] else if op = 5 || op = 6 then [kP (sa % 8)] else [kS sa]
  | .thr op rd sa _ =>
    match op with
    | 0 => [kS rd]
    | 1 => [kS rd, kS sa]
    | 2 => [kV rd, kS sa]
    | 3 => [kS sa]
    | 4 => [kS sa]
    | 6 => [kV rd]
    | 7 => [kV rd]
    | 8 => [kV rd]
    | _ => []

/-- Block, VSE of a context number (R150). -/
def vBlock (c : Nat) : Nat := c / 256
def vVse (c : Nat) : Nat := c / 64 % 4

/-- Class of a run (R151): 1 hooks, 2 LAYER programs. -/
def VCtx.cls (x : VCtx) : Nat := if x.layerRun then 2 else 1

/-- What a run needs to issue: its thread, image, header and the instruction at its pc. -/
structure Issue where
  x : VCtx
  t : Thread
  img : Bytes
  hdr : ProgHdr
  ins : VIns
  /-- Context cycle at which it issues. -/
  c : Nat

/-- The context cycle at which an instruction could issue: one after the last, and when every register it reads or
overwrites is usable (R153). -/
def issueCycle (x : VCtx) (i : VIns) : Nat :=
  i.uses.foldl (fun a k => max a (Tbl.getD x.ready k 0)) (x.cyc + 1)

/-- A register of a pending load is named, or its tag is taken (R153, R158): the context stalls on its own load. -/
def stallsOnLoad (x : VCtx) (i : VIns) : Bool :=
  x.tags.any (fun p => i.uses.contains p.2.dst ||
    (match i with | .ldb _ _ _ _ tag => tag == p.1 | .gath 10 _ _ _ _ _ tag => tag == p.1 | _ => false))

/-- The instruction a context would issue; past the program's last one the bytes of PROG that follow are read (log 138). -/
def fetchV (s : State) (c : Nat) : Option Issue :=
  match Tbl.find? s.vctx c with
  | none => none
  | some x =>
    match Tbl.find? s.threads x.thread with
    | none => none
    | some t =>
      let img := (s.verOf t).image
      let h := progHdr img x.prog
      match decodeV (progInstr img h x.pc) with
      | none => none
      | some i => some ⟨x, t, img, h, i, issueCycle x i⟩

/-- A context could issue but for a YIELD of its own: it waits for no tag and stalls on no load. -/
def canIssue (s : State) (c : Nat) : Bool :=
  match fetchV s c with
  | some q => q.x.wait.isNone && !stallsOnLoad q.x q.ins
  | none => false

/-- YIELD and waits let the context issue: every context it gave way to has issued, ended or is not ready (R157). -/
def mayIssue (s : State) (x : VCtx) : Bool := x.wait.isNone && x.yieldOn.all (fun k => !canIssue s k)

/-- A context is ready to issue. -/
def vReady (s : State) (c : Nat) : Bool :=
  match Tbl.find? s.vctx c with
  | some x => canIssue s c && mayIssue s x
  | none => false

/-- The VSE's turn is the context's: no context of a higher class is ready, and of its class none comes before it in round robin
after the one that issued last (R151). -/
def vTurn (s : State) (c : Nat) (x : VCtx) : Bool :=
  let last := Tbl.getD s.vseLast (c / 64 * 4 + x.cls) 63
  let dist := fun (k : Nat) => (k % 64 + 63 - last) % 64
  s.vctx.all (fun p => p.1 / 64 != c / 64 || p.1 == c || !vReady s p.1 ||
    (decide (x.cls ≤ p.2.cls) && (p.2.cls != x.cls || decide (dist c < dist p.1))))

/-- An exception ends the run at once: context freed, loads discarded, counted, reported, the query answered 0x30
(R166, R167). -/
def vException (s : State) (c : Nat) (x : VCtx) (model code : Nat) : State :=
  let s := { s with vctx := Tbl.del s.vctx c }
  let s := (s.count .vseExc model 1).integ
    { fcode := 0x0123, sev := 1, unitKind := 3, unit := vBlock c * 4 + vVse c, obj := objCode 1 model, addr := x.pc,
      detail := code * 2 ^ 24 + x.prog }
  s.threadFault x.thread

/-- Exception codes (R166). -/
def exBounds : Nat := 1
def exMisalign : Nat := 2
def exBoardAddr : Nat := 3
def exPoison : Nat := 4
def exFeature : Nat := 5
def exCycles : Nat := 6

/-- One instruction issues on a context: nothing happens when the instruction at its pc is not one of this row's, the
context is stalled or waits, or the VSE's turn is another's (R151); past MAX_CYCLES the run takes CYCLES (R163). `f` gives the context after the instruction
(pc already moved on), or an exception code. -/
def vIssue (s : State) (c : Nat) (row : VIns → Bool) (f : Issue → VCtx ⊕ Nat) : State :=
  match fetchV s c with
  | none => s
  | some q =>
    if !row q.ins || !mayIssue s q.x || stallsOnLoad q.x q.ins || !vTurn s c q.x || (s.block (vBlock c)).fenced then s
    else if q.hdr.maxCycles < q.c then vException s c q.x q.t.model exCycles
    else
      match f { q with x := { q.x with pc := q.x.pc + 1, cyc := q.c, since := s.cycle, yieldOn := [] } } with
      | .inr code => vException s c q.x q.t.model code
      | .inl x =>
        { s with vseLast := Tbl.put s.vseLast (c / 64 * 4 + x.cls) (c % 64),
                 vctx := Tbl.put (Tbl.mapVals s.vctx (fun _ y => { y with yieldOn := y.yieldOn.filter (· != c) })) c x }

/-- An instruction that changes only its context. -/
def vPure (c : Nat) (row : VIns → Bool) (f : Issue → VCtx) (s : State) : Res :=
  onObj s (okVctx c) (vIssue s c row (fun q => .inl (f q)))

/-! Binding (R151, R152, R162). -/

/-- Contexts bound on a VSE. -/
def boundOn (s : State) (b v : Nat) : List VCtx :=
  (s.vctx.filter (fun p => p.1 / 64 == b * 4 + v)).map Prod.snd

/-- Free contexts of a class on a VSE: 8 reserved for class 0, 8 for class 1, 48 for any (R151). -/
def freeCtx (l : List VCtx) (cls : Nat) : Nat :=
  let u1 := l.countP (fun x => x.cls == 1)
  let u2 := l.countP (fun x => x.cls == 2)
  let spill := (u1 - 8) + u2
  if cls = 1 then (8 - u1) + (48 - spill) else 48 - spill

/-- The block's VSE with the most free contexts of the class, lowest number on a tie (R152). -/
def chooseVse (s : State) (b cls : Nat) : Option Nat :=
  let live := (upTo 4).filter (fun v => !(s.block b).retiredVses.contains v)
  let best := live.foldl (fun a v => max a (freeCtx (boundOn s b v) cls)) 0
  if best = 0 then none else live.find? (fun v => freeCtx (boundOn s b v) cls == best)

/-- Binds a run to a context with its registers and cleared FLAGS (R152, R154). -/
def bindRun (s : State) (b tid prog : Nat) (layerRun : Bool) (vregs : Nat) : Option State :=
  match chooseVse s b (if layerRun then 2 else 1) with
  | none => none
  | some v =>
    let used := (boundOn s b v).foldl (fun a x => a + x.vregs) 0
    if used + vregs ≤ 256 then
      match Tbl.freeKey s.vctx ((b * 4 + v) * 64) 64 with
      | some c =>
        some { s with vctx := Tbl.put s.vctx c
                        { thread := tid, prog := prog, layerRun := layerRun, vregs := vregs, seed := s.freeCount, since := s.cycle },
                      freeCount := s.freeCount + 1 }
      | none => none
    else none

/-- No thread that waits in the same stage queue has an older T_ARRIVE (R152); `waits` says which threads wait there. -/
def oldestWaiting (s : State) (tid : Nat) (waits : Nat → Thread → Bool) : Bool :=
  match Tbl.find? s.threads tid with
  | none => false
  | some t => s.threads.all (fun p => !waits p.1 p.2 || p.1 == tid || decide (t.tArrive ≤ p.2.tArrive))

end Sys2Proof.Machine
end

