-- ==== Sys2Proof/Machine/StagePrograms.lean ====
section
/-! DEFINITION. The stage-program instructions of R157 that compute in registers: scalar, vector, control and queue forms,
one row of the table each. -/

namespace Sys2Proof.Machine

/-! Row tests: which instructions a row of the table stands for. -/

/-- Scalar register forms with OP in a list. -/
def rowSca (ops : List Nat) : VIns → Bool
  | .sca op _ _ _ => ops.contains op
  | _ => false
/-- Vector forms with OP in a list. -/
def rowVec (ops : List Nat) : VIns → Bool
  | .vec op .. => ops.contains op
  | _ => false
/-- Control forms with OP in a list. -/
def rowCtl (ops : List Nat) : VIns → Bool
  | .ctl op _ _ => ops.contains op
  | _ => false
/-- Thread forms with OP in a list. -/
def rowThr (ops : List Nat) : VIns → Bool
  | .thr op .. => ops.contains op
  | _ => false

/-! Scalar arithmetic: result and flags of each OP (R154, R157). -/

/-- FP32 operand: bits [31:0]. -/
def lo32 (a : Nat) : Nat := a % 2 ^ 32

/-- Result and flags of a scalar OP on sa, sb and the old sd. -/
def scaResult (op a b d : Nat) : Nat × Nat :=
  let ia := sext 64 a
  let ib := sext 64 b
  match op with
  | 0x00 => ((a + b) % 2 ^ 64, 0)
  | 0x01 => (wrap 64 ((a : Int) - b), 0)
  | 0x02 => (a * b % 2 ^ 64, 0)
  | 0x03 => (a &&& b, 0)
  | 0x04 => (a ||| b, 0)
  | 0x05 => (a ^^^ b, 0)
  | 0x06 => (a * 2 ^ (b % 64) % 2 ^ 64, 0)
  | 0x07 => (a / 2 ^ (b % 64), 0)
  | 0x08 => (wrap 64 (ia / (2 ^ (b % 64) : Nat)), 0)
  | 0x09 => (b2n (decide (ia < ib)), 0)
  | 0x0A => (b2n (decide (a < b)), 0)
  | 0x0B => (if ia ≤ ib then a else b, 0)
  | 0x0C => (if ia ≤ ib then b else a, 0)
  | 0x10 => fp32.add (lo32 a) (lo32 b)
  | 0x11 => fp32.sub (lo32 a) (lo32 b)
  | 0x12 => fp32.mul (lo32 a) (lo32 b)
  | 0x13 => fp32.fma (lo32 a) (lo32 b) (lo32 d)
  | 0x14 => fp32.div (lo32 a) (lo32 b)
  | 0x15 => fp32.sqrt (lo32 a)
  | 0x16 => (b2n (fp32.ge (lo32 a) (lo32 b)), fp32.cmpFlags (lo32 a) (lo32 b))
  | 0x17 => let r := fp32.toInt (-(2 ^ 63)) (2 ^ 63 - 1) (lo32 a); (wrap 64 r.1, r.2)
  | 0x18 => fp32.ofInt ia
  | 0x19 => fp32.exp (lo32 a)
  | 0x1A => fp32.log (lo32 a)
  | _ => (0, 0)

/-- A scalar register form: reads, computes, writes sd and ORs FLAGS. -/
def doSca (q : Issue) : VCtx :=
  match q.ins with
  | .sca op sd sa sb =>
    let r := scaResult op (q.x.getS sa) (q.x.getS sb) (q.x.getS sd)
    { q.x with flags := q.x.flags ||| r.2 }.setS q.c q.ins.lat sd r.1
  | _ => q.x

/-- ADD, SUB, MUL. -/
def execAddSubMul (ctx : Nat) (s : State) : Res := vPure ctx (rowSca [0, 1, 2]) doSca s
/-- AND, OR, XOR. -/
def execAndOrXor (ctx : Nat) (s : State) : Res := vPure ctx (rowSca [3, 4, 5]) doSca s
/-- SHL, SHR, SRA by sb[5:0]. -/
def execShlShrSra (ctx : Nat) (s : State) : Res := vPure ctx (rowSca [6, 7, 8]) doSca s
/-- SLT, SLTU. -/
def execSltSltu (ctx : Nat) (s : State) : Res := vPure ctx (rowSca [9, 0x0A]) doSca s
/-- MIN, MAX, signed. -/
def execMinMax (ctx : Nat) (s : State) : Res := vPure ctx (rowSca [0x0B, 0x0C]) doSca s
/-- FADD, FSUB, FMUL. -/
def execFaddFsubFmul (ctx : Nat) (s : State) : Res := vPure ctx (rowSca [0x10, 0x11, 0x12]) doSca s
/-- FFMA: one rounding. -/
def execFfma (ctx : Nat) (s : State) : Res := vPure ctx (rowSca [0x13]) doSca s
/-- FDIV, FSQRT. -/
def execFdivFsqrt (ctx : Nat) (s : State) : Res := vPure ctx (rowSca [0x14, 0x15]) doSca s
/-- FGE. -/
def execFge (ctx : Nat) (s : State) : Res := vPure ctx (rowSca [0x16]) doSca s
/-- CVTFI: saturating; NaN gives 0 and sets invalid. -/
def execCvtfi (ctx : Nat) (s : State) : Res := vPure ctx (rowSca [0x17]) doSca s
/-- CVTIF. -/
def execCvtif (ctx : Nat) (s : State) : Res := vPure ctx (rowSca [0x18]) doSca s
/-- FEXP, FLOG. -/
def execFexpFlog (ctx : Nat) (s : State) : Res := vPure ctx (rowSca [0x19, 0x1A]) doSca s

/-- RDFL: sd = FLAGS. -/
def execRdfl (ctx : Nat) (s : State) : Res :=
  vPure ctx (rowSca [0x1B]) (fun q => match q.ins with
    | .sca _ sd _ _ => q.x.setS q.c 4 sd q.x.flags
    | _ => q.x) s
/-- CLRFL: FLAGS = 0. -/
def execClrfl (ctx : Nat) (s : State) : Res := vPure ctx (rowSca [0x1C]) (fun q => { q.x with flags := 0 }) s

/-- ADDI, ANDI, ORI, XORI, SHLI, SHRI, SRAI, SLTI: the register form with IMM11 sign-extended for operand B. -/
def execAddiShliSlti (ctx : Nat) (s : State) : Res :=
  vPure ctx (fun i => match i with | .imm .. => true | _ => false)
    (fun q => match q.ins with
      | .imm op sd sa v =>
        q.x.setS q.c 4 sd (scaResult (immToSca op) (q.x.getS sa) (wrap 64 v) 0).1
      | _ => q.x) s

/-- MOVK0 to MOVK3: one quarter of sd, other bits kept. -/
def execMovk (ctx : Nat) (s : State) : Res :=
  vPure ctx (fun i => match i with | .movk .. => true | _ => false)
    (fun q => match q.ins with
      | .movk h sd v => q.x.setS q.c 4 sd (setBits (q.x.getS sd) (16 * h + 15) (16 * h) v)
      | _ => q.x) s

/-! Vector arithmetic (R154, R156, R157). -/

/-- Operand B: v[VB], or s[VB][31:0] in every lane. -/
def opndB (x : VCtx) (vb : Nat) (bc : Bool) : List Nat :=
  if bc then List.replicate 256 (lo32 (x.getS vb)) else x.getV vb

/-- Lane value and flags of a vector OP; et 0 F32, 1 I32, 2 U32; a, b operands, d the old destination lane. -/
def vecLane (op et a b d : Nat) : Nat × Nat :=
  let f := et == 0
  let sh := b % 32
  match op with
  | 0x00 => if f then fp32.add a b else ((a + b) % 2 ^ 32, 0)
  | 0x01 => if f then fp32.sub a b else (wrap 32 ((a : Int) - b), 0)
  | 0x02 => if f then fp32.mul a b else (a * b % 2 ^ 32, 0)
  | 0x03 => if f then fp32.fma a b d else ((a * b + d) % 2 ^ 32, 0)
  | 0x04 => if f then fp32.min a b else if et = 1 then (if sext 32 a ≤ sext 32 b then a else b, 0) else (min a b, 0)
  | 0x05 => if f then fp32.max a b else if et = 1 then (if sext 32 a ≤ sext 32 b then b else a, 0) else (max a b, 0)
  | 0x06 => fp32.div a b
  | 0x07 => fp32.sqrt a
  | 0x08 => fp32.exp a
  | 0x09 => fp32.log a
  | 0x0A => fp32.logistic a
  | 0x0B => fp32.tanh a
  | 0x0C => (a &&& b, 0)
  | 0x0D => (a ||| b, 0)
  | 0x0E => (a ^^^ b, 0)
  | 0x0F => (a * 2 ^ sh % 2 ^ 32, 0)
  | 0x10 =>
    if et = 2 then (a / 2 ^ sh, 0)
    else if et = 1 then (wrap 32 (sext 32 a / (2 ^ sh : Nat)), 0)
    else ((Config.vshrF32 (BitVec.ofNat 32 a) (BitVec.ofNat 32 sh)).toNat, 0)
  | 0x15 => (a, 0)
  | _ => (d, 0)

/-- VCVT of one lane: from ET to a destination type (R157). -/
def cvtLane (et dst a : Nat) : Nat × Nat :=
  match et, dst with
  | 0, 0 => cvtFmt fp32 fp32 a
  | 0, 1 => let r := fp32.toInt (-(2 ^ 31)) (2 ^ 31 - 1) a; (wrap 32 r.1, r.2)
  | 0, 2 => let r := fp32.toInt 0 (2 ^ 32 - 1) a; (wrap 32 r.1, r.2)
  | 0, _ => cvtFmt fp32 bf16 a
  | 1, 0 => fp32.ofInt (sext 32 a)
  | 1, 3 => bf16.ofInt (sext 32 a)
  | 2, 0 => fp32.ofInt a
  | 2, 3 => bf16.ofInt a
  | _, _ => (a, 0)

/-- Applies a lane function under a guard; guarded-off lanes keep the old value. Answers lanes and ORed flags. -/
def guardedMap (g : Nat) (old : List Nat) (f : Nat → Nat → Nat × Nat) : List Nat × Nat :=
  (old.mapIdx (fun i d => if bit g i then f i d else (d, 0))).foldr (fun r acc => (r.1 :: acc.1, r.2 ||| acc.2)) ([], 0)

/-- A lane-wise vector instruction. -/
def doVec (q : Issue) : VCtx :=
  match q.ins with
  | .vec op vd va vb pg et bc =>
    let a := q.x.getV va
    let b := opndB q.x vb bc
    let r := guardedMap (q.x.getP pg) (q.x.getV vd) (fun i d => vecLane op et (a.getD i 0) (b.getD i 0) d)
    { q.x with flags := q.x.flags ||| r.2 }.setV q.c q.ins.lat vd r.1
  | _ => q.x

/-- VADD, VSUB, VMUL. -/
def execVaddVsubVmul (ctx : Nat) (s : State) : Res := vPure ctx (rowVec [0, 1, 2]) doVec s
/-- VFMA: F32 single rounding. -/
def execVfma (ctx : Nat) (s : State) : Res := vPure ctx (rowVec [3]) doVec s
/-- VMIN, VMAX. -/
def execVminVmax (ctx : Nat) (s : State) : Res := vPure ctx (rowVec [4, 5]) doVec s
/-- VDIV, VSQRT: F32 whatever ET (log 12). -/
def execVdivVsqrt (ctx : Nat) (s : State) : Res := vPure ctx (rowVec [6, 7]) doVec s
/-- VEXP, VLOG, VLGST, VTANH. -/
def execVexpVlogVlgstVtanh (ctx : Nat) (s : State) : Res := vPure ctx (rowVec [8, 9, 0x0A, 0x0B]) doVec s
/-- VAND, VOR, VXOR. -/
def execVandVorVxor (ctx : Nat) (s : State) : Res := vPure ctx (rowVec [0x0C, 0x0D, 0x0E]) doVec s
/-- VSHL, VSHR by vb[4:0]. -/
def execVshlVshr (ctx : Nat) (s : State) : Res := vPure ctx (rowVec [0x0F, 0x10]) doVec s
/-- VMOV. -/
def execVmov (ctx : Nat) (s : State) : Res := vPure ctx (rowVec [0x15]) doVec s

/-- VCVT: va from ET to the type VB[1:0]. -/
def execVcvt (ctx : Nat) (s : State) : Res :=
  vPure ctx (rowVec [0x11]) (fun q => match q.ins with
    | .vec _ vd va vb pg et _ =>
      let a := q.x.getV va
      let r := guardedMap (q.x.getP pg) (q.x.getV vd) (fun i _ => cvtLane et (vb % 4) (a.getD i 0))
      { q.x with flags := q.x.flags ||| r.2 }.setV q.c 4 vd r.1
    | _ => q.x) s

/-- A compare of one lane: the bit and its flags; NaN gives 0. -/
def cmpLane (op et a b : Nat) : Bool × Nat :=
  if et = 0 then
    match op with
    | 0x12 => (fp32.ge a b, fp32.cmpFlags a b)
    | 0x13 => (fp32.eqv a b, snanFlag [fp32.decode a, fp32.decode b])
    | _ => (fp32.lt a b, fp32.cmpFlags a b)
  else
    let x := if et = 1 then sext 32 a else (a : Int)
    let y := if et = 1 then sext 32 b else (b : Int)
    match op with
    | 0x12 => (decide (y ≤ x), 0)
    | 0x13 => (decide (x = y), 0)
    | _ => (decide (x < y), 0)

/-- A predicate as a number, from the bit of each lane. -/
def bitsToNat (l : List Bool) : Nat := l.foldr (fun b a => b2n b + 2 * a) 0

/-- VGE, VEQ, VLT: a predicate; guarded-off lanes give 0. -/
def execVgeVeqVlt (ctx : Nat) (s : State) : Res :=
  vPure ctx (rowVec [0x12, 0x13, 0x14]) (fun q => match q.ins with
    | .vec op vd va vb pg et bc =>
      let a := q.x.getV va
      let b := opndB q.x vb bc
      let g := q.x.getP pg
      let l := (upTo 256).map (fun i => if bit g i then cmpLane op et (a.getD i 0) (b.getD i 0) else (false, 0))
      { q.x with flags := l.foldl (fun f (r : Bool × Nat) => f ||| r.2) q.x.flags }.setP q.c 4 (vd % 8)
        (bitsToNat (l.map Prod.fst))
    | _ => q.x) s

/-- One level of a binary-tree reduction: lanes 2i and 2i + 1 combine (R154). -/
def treeLevel (f : Nat → Nat → Nat × Nat) : List Nat → List Nat × Nat
  | a :: b :: t =>
    let r := f a b
    let u := treeLevel f t
    (r.1 :: u.1, r.2 ||| u.2)
  | l => (l, 0)

/-- Eight levels reduce 256 lanes to one. -/
def treeReduce (f : Nat → Nat → Nat × Nat) : Nat → List Nat → Nat × Nat
  | 0, l => (l.headD 0, 0)
  | n + 1, l =>
    let r := treeLevel f l
    let u := treeReduce f n r.1
    (u.1, r.2 ||| u.2)

/-- What an inactive lane enters a reduction as (R154): +0.0 or 0, −∞ or the least integer. -/
def inactiveLane (max : Bool) (et : Nat) : Nat :=
  if !max then 0 else if et = 0 then 0xFF800000 else if et = 1 then 0x80000000 else 0

/-- VRSUM, VRMAX: reduction of the active lanes into s[VD][31:0]. -/
def execVrsumVrmax (ctx : Nat) (s : State) : Res :=
  vPure ctx (rowVec [0x16, 0x17]) (fun q => match q.ins with
    | .vec op vd va _ pg et _ =>
      let mx := op == 0x17
      let g := q.x.getP pg
      let l := (q.x.getV va).mapIdx (fun i a => if bit g i then a else inactiveLane mx et)
      let r := treeReduce (fun a b => vecLane (if mx then 5 else 0) et a b 0) 8 l
      { q.x with flags := q.x.flags ||| r.2 }.setS q.c 12 vd r.1
    | _ => q.x) s

/-- VPAND, VPOR, VPNOT under the guard (R156). -/
def execVpandVporVpnot (ctx : Nat) (s : State) : Res :=
  vPure ctx (rowVec [0x18, 0x19, 0x1A]) (fun q => match q.ins with
    | .vec op vd va vb pg _ _ =>
      let a := q.x.getP (va % 8)
      let b := q.x.getP (vb % 8)
      let d := q.x.getP (vd % 8)
      let g := q.x.getP pg
      let r := match op with
        | 0x18 => a &&& b
        | 0x19 => a ||| b
        | _ => (2 ^ 256 - 1) - a
      q.x.setP q.c 4 (vd % 8) ((r &&& g) ||| (d &&& ((2 ^ 256 - 1) - g)))
    | _ => q.x) s

/-- VIOTA: vd lane i = i, the integer whatever ET (log 138). -/
def execViota (ctx : Nat) (s : State) : Res :=
  vPure ctx (rowVec [0x1B]) (fun q => match q.ins with
    | .vec _ vd _ _ pg _ _ => q.x.setV q.c 4 vd (guardedMap (q.x.getP pg) (q.x.getV vd) (fun i _ => (i, 0))).1
    | _ => q.x) s

/-- VSHUF: vd lane i = va lane (vb lane i mod 256). -/
def execVshuf (ctx : Nat) (s : State) : Res :=
  vPure ctx (rowVec [0x1C]) (fun q => match q.ins with
    | .vec _ vd va vb pg _ bc =>
      let a := q.x.getV va
      let b := opndB q.x vb bc
      q.x.setV q.c 4 vd
        (guardedMap (q.x.getP pg) (q.x.getV vd) (fun i _ => (a.getD (b.getD i 0 % 256) 0, 0))).1
    | _ => q.x) s

/-! Control (R157). -/

/-- The context after a branch: `off` instructions from the branch itself when taken. -/
def branchTo (x : VCtx) (off : Int) (taken : Bool) : VCtx :=
  if taken then { x with pc := ((x.pc : Int) - 1 + off).toNat } else x

/-- BR. -/
def execBr (ctx : Nat) (s : State) : Res :=
  vPure ctx (rowCtl [0]) (fun q => match q.ins with
    | .ctl _ _ off => branchTo q.x off true
    | _ => q.x) s

/-- BZ, BNZ, BLTZ, BGEZ on signed sa. -/
def execBzBnzBltzBgez (ctx : Nat) (s : State) : Res :=
  vPure ctx (rowCtl [1, 2, 3, 4]) (fun q => match q.ins with
    | .ctl op sa off =>
      let a := sext 64 (q.x.getS sa)
      branchTo q.x off (match op with
        | 1 => decide (a = 0)
        | 2 => decide (a ≠ 0)
        | 3 => decide (a < 0)
        | _ => decide (0 ≤ a))
    | _ => q.x) s

/-- BANY, BNONE on p[SA[2:0]]. -/
def execBanyBnone (ctx : Nat) (s : State) : Res :=
  vPure ctx (rowCtl [5, 6]) (fun q => match q.ins with
    | .ctl op sa off =>
      let any := q.x.getP (sa % 8) != 0
      branchTo q.x off (if op = 5 then any else !any)
    | _ => q.x) s

/-- LOOP: sa = sa − 1; branch if the result is not 0. -/
def execLoopDec (ctx : Nat) (s : State) : Res :=
  vPure ctx (rowCtl [7]) (fun q => match q.ins with
    | .ctl _ sa off =>
      let v := wrap 64 ((q.x.getS sa : Int) - 1)
      branchTo (q.x.setS q.c 4 sa v) off (v != 0)
    | _ => q.x) s

/-! Thread and queue forms that change only the context. -/

/-- A raw feature as FRD delivers it: F zero-extended, I sign-extended (R157); one beyond FCOUNT is open (log 8). -/
def frdValue (q : Issue) (i : Nat) : Nat :=
  match q.t.raw[i]? with
  | some v => if acceptI (imgAccept q.img) then wrap 64 (sext 32 v) else v
  | none => (Config.beyondRow 0 i).toNat

/-- FRD: the raw feature an immediate names. -/
def execFrd (ctx : Nat) (s : State) : Res :=
  vPure ctx (rowThr [0]) (fun q => match q.ins with
    | .thr _ rd _ v => q.x.setS q.c 4 rd (frdValue q v)
    | _ => q.x) s

/-- FRDX: raw feature sa + IMM12; FEATURE at or beyond FCOUNT (R166). -/
def execFrdx (ctx : Nat) (s : State) : Res :=
  onObj s (okVctx ctx) (vIssue s ctx (rowThr [1]) (fun q => match q.ins with
    | .thr _ rd sa v =>
      let i := (q.x.getS sa + v) % 2 ^ 64
      if q.t.fcount ≤ i then .inr exFeature else .inl (q.x.setS q.c 4 rd (frdValue q i))
    | _ => .inl q.x))

/-- FRDV: raw features from sa + IMM12; lanes at or past FCOUNT read 0. -/
def execFrdv (ctx : Nat) (s : State) : Res :=
  vPure ctx (rowThr [2]) (fun q => match q.ins with
    | .thr _ rd sa v =>
      let base := (q.x.getS sa + v) % 2 ^ 64
      q.x.setV q.c 4 rd ((upTo 256).map (fun i => q.t.raw.getD (base + i) 0))
    | _ => q.x) s

/-- Elements of a stored row from an index on; those beyond the row are open (log 8). -/
def rowLanes (what : Nat) (row : List Nat) (start : Nat) : List Nat :=
  (upTo 256).map (fun i => match row[start + i]? with
    | some v => v
    | none => (Config.beyondRow what (start + i)).toNat)

/-- GETA: the thread's array output row, elements 256·IMM12 onward. -/
def execGeta (ctx : Nat) (s : State) : Res :=
  vPure ctx (rowThr [6]) (fun q => match q.ins with
    | .thr _ rd _ v => q.x.setV q.c 4 rd (rowLanes 1 q.t.outRow (256 * v))
    | _ => q.x) s

/-- GETE: the pooled vector of bag IMM12[3:0], elements 256·IMM12[5:4] onward. -/
def execGete (ctx : Nat) (s : State) : Res :=
  vPure ctx (rowThr [8]) (fun q => match q.ins with
    | .thr _ rd _ v => q.x.setV q.c 4 rd (rowLanes 2 (Tbl.getD q.t.bags (v % 16) []) (256 * (bitsOf v 5 4)))
    | _ => q.x) s

/-- YIELD: gives way to the other ready contexts of its class on the VSE. -/
def execYieldIssue (ctx : Nat) (s : State) : Res :=
  let others := (s.vctx.filter (fun p => p.1 / 64 == ctx / 64 && p.1 != ctx && canIssue s p.1))
  vPure ctx (rowThr [9])
    (fun q => { q.x with yieldOn := (others.filter (fun p => p.2.cls == q.x.cls)).map Prod.fst }) s

/-- WAITG: leaves issue until tag IMM12[1:0] completes; at once when nothing is pending on it (R158). -/
def execWaitg (ctx : Nat) (s : State) : Res :=
  vPure ctx (rowThr [0x0A]) (fun q => match q.ins with
    | .thr _ _ _ v => if Tbl.has q.x.tags (v % 4) then { q.x with wait := some (v % 4) } else q.x
    | _ => q.x) s

/-- WAITALL: leaves issue until every tag completes. -/
def execWaitall (ctx : Nat) (s : State) : Res :=
  vPure ctx (rowThr [0x0B]) (fun q => if q.x.tags.isEmpty then q.x else { q.x with wait := some 4 }) s

end Sys2Proof.Machine
end

