-- ==== Sys2Proof/Machine/StageMemory.lean ====
section
/-! DEFINITION. The stage-program instructions that read LDM, the thread context and board memory, write scores, hook
outputs and the array input row, or end the run; binding a run; the CYCLES exception (R157 to R167). -/

namespace Sys2Proof.Machine

/-- The program's constants (R150, R160): LDM addresses count from their start (log 138). -/
def ldmBytes (q : Issue) : Bytes := slice (secBody q.img 8 0) q.hdr.constOff q.hdr.ldm

/-- The check of an LDM or context address: an address outside is BOUNDS, one inside that is misaligned MISALIGN, and an
aligned one whose bytes run past the end BOUNDS (R166, log 12). -/
def addrCheck (a n align limit : Nat) : Option Nat :=
  if limit ≤ a then some exBounds else if a % align ≠ 0 then some exMisalign else if limit < a + n then some exBounds else none

/-- LDL: 8 B of LDM at sa + 8·OFF12. -/
def execLdl (ctx : Nat) (s : State) : Res :=
  onObj s (okVctx ctx) (vIssue s ctx (fun i => match i with | .mem 0 _ _ _ => true | _ => false) (fun q => match q.ins with
    | .mem _ rd sa off =>
      let a := (q.x.getS sa + 8 * off) % 2 ^ 64
      match addrCheck a 8 8 q.hdr.ldm with
      | some e => .inr e
      | none => .inl (q.x.setS q.c 4 rd (le (ldmBytes q) a 8))
    | _ => .inl q.x))

/-- LDVL: 1 KiB of LDM at sa + 64·OFF12. -/
def execLdvl (ctx : Nat) (s : State) : Res :=
  onObj s (okVctx ctx) (vIssue s ctx (fun i => match i with | .mem 1 _ _ _ => true | _ => false) (fun q => match q.ins with
    | .mem _ rd sa off =>
      let a := (q.x.getS sa + 64 * off) % 2 ^ 64
      match addrCheck a 1024 64 q.hdr.ldm with
      | some e => .inr e
      | none => .inl (q.x.setV q.c 4 rd ((upTo 256).map (fun i => le (ldmBytes q) (a + 4 * i) 4)))
    | _ => .inl q.x))

/-- Addresses of a gather's guarded lanes: (lane, sa + index · 2^SC) (R157), the index taken unsigned (log 138). -/
def gatherAddrs (x : VCtx) (sa vi sc pg : Nat) : List (Nat × Nat) :=
  let g := x.getP pg
  (((x.getV vi).mapIdx (fun i v => (i, (x.getS sa + v * 2 ^ sc) % 2 ^ 64))).filter (fun p => bit g p.1))

/-- The first exception among lanes. -/
def lanesCheck (l : List (Nat × Nat)) (chk : Nat → Option Nat) : Option Nat := l.findSome? (fun p => chk p.2)

/-- Writes gathered words into their lanes. -/
def putLanes (v : List Nat) (l : List (Nat × Nat)) : List Nat := l.foldl (fun a p => a.set p.1 p.2) v

/-- GATHL: guarded lanes of LDM words. -/
def execGathl (ctx : Nat) (s : State) : Res :=
  onObj s (okVctx ctx) (vIssue s ctx (fun i => match i with | .gath 2 .. => true | _ => false) (fun q => match q.ins with
    | .gath _ rd sa vi sc pg _ =>
      let l := gatherAddrs q.x sa vi sc pg
      match lanesCheck l (fun a => addrCheck a 4 4 q.hdr.ldm) with
      | some e => .inr e
      | none => .inl (q.x.setV q.c 4 rd (putLanes (q.x.getV rd) (l.map (fun p => (p.1, le (ldmBytes q) p.2 4)))))
    | _ => .inl q.x))

/-- LDC: 8 B of the thread context at sa + 8·OFF12 (R51). -/
def execLdc (ctx : Nat) (s : State) : Res :=
  onObj s (okVctx ctx) (vIssue s ctx (fun i => match i with | .mem 4 _ _ _ => true | _ => false) (fun q => match q.ins with
    | .mem _ rd sa off =>
      let a := (q.x.getS sa + 8 * off) % 2 ^ 64
      match addrCheck a 8 8 256 with
      | some e => .inr e
      | none => .inl (q.x.setS q.c 4 rd (le (ctxBytes s q.x.thread q.t) a 8))
    | _ => .inl q.x))

/-- As `vIssue`, for an instruction that also changes the run's thread. -/
def vIssueT (s : State) (c : Nat) (row : VIns → Bool) (f : Issue → (VCtx × Thread) ⊕ Nat) : State :=
  let s' := vIssue s c row (fun q => match f q with | .inl p => .inl p.1 | .inr e => .inr e)
  match fetchV s c with
  | none => s'
  | some q =>
    match Tbl.find? s'.vctx c with
    | some y =>
      if y.cyc = q.x.cyc then s'
      else
        match f { q with x := { q.x with pc := q.x.pc + 1, cyc := q.c, since := s.cycle, yieldOn := [] } } with
        | .inl p => s'.updThread q.x.thread (fun _ => p.2)
        | .inr _ => s'
    | none => s'

/-- STC: the context at sa + 8·OFF12 = sd; SCRATCH only (R157, R165). -/
def execStc (ctx : Nat) (s : State) : Res :=
  onObj s (okVctx ctx) (vIssueT s ctx (fun i => match i with | .mem 5 _ _ _ => true | _ => false) (fun q => match q.ins with
    | .mem _ rd sa off =>
      let a := (q.x.getS sa + 8 * off) % 2 ^ 64
      if a < 0x80 then .inr exBounds
      else
        match addrCheck a 8 8 256 with
        | some e => .inr e
        | none =>
          let sc := padTo 128 q.t.scratch
          .inl (q.x, { q.t with scratch := sc.take (a - 128) ++ leBytes 8 (q.x.getS rd) ++ sc.drop (a - 120) })
    | _ => .inl (q.x, q.t)))

/-- The check of a board address a run names (R165, R166): MISALIGN, then BOARD_ADDR (log 12). -/
def boardCheck (s : State) (t : Thread) (a n align : Nat) : Option Nat :=
  if a % align ≠ 0 then some exMisalign
  else if 2 ^ 48 ≤ a then some exBoardAddr
  else if granted s (s.model t.model).owner t.model (a / 2 ^ 45) (a % 2 ^ 45) n then none
  else some exBoardAddr

/-- Starts an asynchronous load on a tag (R158). -/
def startLoad (s : State) (q : Issue) (tag dst size align : Nat) (l : List (Nat × Nat)) : VCtx ⊕ Nat :=
  match lanesCheck l (fun a => boardCheck s q.t a size align) with
  | some e => .inr e
  | none => .inl { q.x with tags := Tbl.put q.x.tags tag { dst := dst, addrs := l, size := size } }

/-- The reads that a context's pending loads need from other devices are issued, as far as they may be (R158, R233). -/
def issueLoads (s : State) (ctx : Nat) : State :=
  match Tbl.find? s.vctx ctx with
  | none => s
  | some x =>
    match Tbl.find? s.threads x.thread with
    | none => s
    | some t =>
      x.tags.foldl (fun s p => issueReads s (.load ctx x.seed p.1) (ridOf 0 (s.model t.model).owner t.model) p.2.size
        (p.2.addrs.map Prod.snd)) s

/-- LDB: 8 B at board address sa + 8·OFF10. -/
def execLdb (ctx : Nat) (s : State) : Res :=
  onObj s (okVctx ctx) (issueLoads (vIssue s ctx (fun i => match i with | .ldb 8 .. => true | _ => false) (fun q => match q.ins with
    | .ldb _ rd sa off tag => startLoad s q tag (kS rd) 8 8 [(0, (q.x.getS sa + 8 * off) % 2 ^ 64)]
    | _ => .inl q.x)) ctx)

/-- LDVB: 1 KiB at board address sa + 64·OFF10. -/
def execLdvb (ctx : Nat) (s : State) : Res :=
  onObj s (okVctx ctx) (issueLoads (vIssue s ctx (fun i => match i with | .ldb 9 .. => true | _ => false) (fun q => match q.ins with
    | .ldb _ rd sa off tag => startLoad s q tag (kV rd) 1024 64 [(0, (q.x.getS sa + 64 * off) % 2 ^ 64)]
    | _ => .inl q.x)) ctx)

/-- GATHB: guarded lanes of board-memory words. -/
def execGathb (ctx : Nat) (s : State) : Res :=
  onObj s (okVctx ctx) (issueLoads (vIssue s ctx (fun i => match i with | .gath 10 .. => true | _ => false) (fun q => match q.ins with
    | .gath _ rd sa vi sc pg tag => startLoad s q tag (kV rd) 4 4 (gatherAddrs q.x sa vi sc pg)
    | _ => .inl q.x)) ctx)

/-- How a board-memory read ended: its bytes, poison, or a refusal. -/
inductive ReadEnd where
  | data (b : Bytes)
  | poison (a : Nat)
  | denied (a : Nat)
  | wait

/-- Bytes at a board address of another device, from the completions of their granules. -/
def readRemote (s : State) (src : BlpSrc) (a size : Nat) : ReadEnd :=
  let got := (boardGranules a size).map (remoteGot s src)
  if got.any Option.isNone then .wait
  else if got.any (fun g => match g with | some (st, _) => st == 3 | none => false) then .poison a
  else if got.any (fun g => match g with | some (st, _) => st != 0 | none => false) then .denied a
  else .data (slice (got.flatMap (fun g => match g with | some (_, b) => padTo 64 (b.take 64) | none => [])) (a % 64) size)

/-- Reads the addresses of a load: local ones from HBM under the region table (R225), those of other devices from what
their completions brought. -/
def readBoard (s : State) (src : BlpSrc) (owner ctx size : Nat) : List (Nat × Nat) → ReadEnd
  | [] => .data []
  | (_, a) :: t =>
    if a / 2 ^ 45 = s.boot.boardPos then
      let l := a % 2 ^ 45
      if !granted s owner ctx s.boot.boardPos l size || regionLost s s.boot.boardPos l then .denied a
      else if s.poisoned l size then .poison l
      else
        match readBoard s src owner ctx size t with
        | .data b => .data (Memory.read s.hbm l size ++ b)
        | e => e
    else
      match readRemote s src a size with
      | .data b =>
        match readBoard s src owner ctx size t with
        | .data r => .data (b ++ r)
        | e => e
      | e => e

/-- The ranges of this device's HBM that a load reads: those its identity is granted. -/
def localReads (s : State) (owner ctx size : Nat) (addrs : List (Nat × Nat)) : List (Nat × Nat) :=
  ((addrs.map Prod.snd).filter (fun a => a / 2 ^ 45 == s.boot.boardPos && granted s owner ctx s.boot.boardPos (a % 2 ^ 45) size)).map
    (fun a => (a % 2 ^ 45, size))

/-- A load's register once its bytes are there. -/
def landLoad (x : VCtx) (p : Pend) (cyc : Nat) (b : Bytes) : VCtx :=
  let x := if p.dst < 64 then x.setS cyc 0 p.dst (le b 0 8)
    else if p.size = 1024 then x.setV cyc 0 (p.dst - 64) ((upTo 256).map (fun i => le b (4 * i) 4))
    else x.setV cyc 0 (p.dst - 64)
      (putLanes (x.getV (p.dst - 64)) ((p.addrs.mapIdx (fun i q => (q.1, le b (4 * i) 4)))))
  x

/-- Context cycles up to now of a context that stalls on a load or waits for one: it issues again in the next at the earliest
(R163). -/
def VCtx.stalled (x : VCtx) (now : Nat) : Nat := x.cyc + (now - x.since - 1)

/-- The context stalls on the load of a tag: it waits for it, or its next instruction names its register or its tag (R153, R157,
R158). -/
def stallsOn (s : State) (ctx tag : Nat) (x : VCtx) : Bool :=
  x.wait == some tag || x.wait == some 4 ||
    (match fetchV s ctx with
     | some q => stallsOnLoad { x with tags := List.filter (fun (p : Nat × Pend) => p.1 == tag) x.tags } q.ins
     | none => false)

/-- ASYNC_LOAD_COMPLETE (R158, R163, R166, R225, R279, R280): the data lands, and the cycles the context stalled on it are context
cycles; a poisoned granule or an error completion raises POISON; a load of an ended run is discarded with it. The read finds the
granules `bad` of this device uncorrectable. -/
def execAsyncLoadComplete (ctx tag : Nat) (bad : List Nat) (s : State) : Res :=
  onObj s (okVctx ctx && decide (tag < 4))
    (match Tbl.find? s.vctx ctx with
     | none => s
     | some x =>
       match Tbl.find? x.tags tag, Tbl.find? s.threads x.thread with
       | some p, some t =>
         let owner := (s.model t.model).owner
         let src := BlpSrc.load ctx x.seed tag
         let s := foundBad s (localReads s owner t.model p.size p.addrs) bad
         match readBoard s src owner t.model p.size p.addrs with
         | .wait => issueLoads s ctx
         | .poison a => vException (s.consumePoison t.model a) ctx x t.model exPoison
         | .denied a =>
           let s := if a / 2 ^ 45 = s.boot.boardPos then s.isoDeny owner 0 (objCode 1 t.model) a else s
           vException s ctx x t.model exPoison
         | .data b =>
           let s := dropReqs s src
           let x := if stallsOn s ctx tag x then { x with cyc := x.stalled s.cycle, since := s.cycle } else x
           let x := landLoad { x with tags := Tbl.del x.tags tag } p x.cyc b
           let freed := match x.wait with
             | some 4 => x.tags.isEmpty
             | some k => k == tag
             | none => false
           let x := if freed then { x with wait := none } else x
           { s with vctx := Tbl.put s.vctx ctx x }
       | _, _ => s)

/-- HOUT: hook output IMM12[3:0] = sa[31:0]; the last write of an index stands (R168). -/
def execHout (ctx : Nat) (s : State) : Res :=
  onObj s (okVctx ctx) (vIssueT s ctx (rowThr [3]) (fun q => match q.ins with
    | .thr _ _ sa v => .inl (q.x, { q.t with hookOut := Tbl.put q.t.hookOut (v % 16) (lo32 (q.x.getS sa)) })
    | _ => .inl (q.x, q.t)))

/-- EMIT: score IMM12[5:0] = sa[31:0] (R164). -/
def execEmit (ctx : Nat) (s : State) : Res :=
  onObj s (okVctx ctx) (vIssueT s ctx (rowThr [4]) (fun q => match q.ins with
    | .thr _ _ sa v => .inl (q.x, { q.t with scores := Tbl.put q.t.scores (v % 64) (lo32 (q.x.getS sa)) })
    | _ => .inl (q.x, q.t)))

/-- PUTA: array input row, elements 256·IMM12 onward, in the input format of the layer that follows, or of the attention layer
whose value product takes them (R143, R159, log 12). -/
def execPuta (ctx : Nat) (s : State) : Res :=
  onObj s (okVctx ctx) (vIssueT s ctx (rowThr [7]) (fun q => match q.ins with
    | .thr _ rd _ v =>
      let l := layerAt q.img (if (layerAt q.img q.t.layer).lkind = 2 then q.t.layer else q.t.layer + 1)
      .inl (q.x, { q.t with inRow := Tbl.put q.t.inRow v (toInput l.afmt l.iscale (q.x.getV rd)) })
    | _ => .inl (q.x, q.t)))

/-- REFUSE: ends the run; the query is answered 0x21 (R157, R169). -/
def execRefuse (ctx : Nat) (s : State) : Res :=
  onObj s (okVctx ctx)
    (match fetchV s ctx with
     | none => s
     | some q =>
       let s' := vIssue s ctx (rowThr [5]) (fun q => .inl q.x)
       match Tbl.find? s'.vctx ctx with
       | some y => if y.cyc = q.x.cyc then s' else (s'.count .progRefuse q.t.model 1).threadInvalid q.x.thread
       | none => s')

/-- A hook has ended (R84, R88): an output that a HOOK entry names is missing, or the values it gives are prepared. -/
def endHook (s : State) (tid : Nat) (t : Thread) (img : Bytes) : State :=
  let p := prepSec img
  if (hookOutputs p).any (fun o => !Tbl.has t.hookOut o) then s.threadFault tid
  else
    let r := prepareAll img p (imgAccept img) t.raw (some t.hookOut) t.prepd
    let s := s.updThread tid (fun x => { x with hook := .done, prepd := r.vals, nanMapped := x.nanMapped || r.nanMapped })
    let s := if r.nanMapped && !t.nanMapped then s.count .prepNanMapped t.model 1 else s
    let s := if r.nanReject then s.count .prepNanReject t.model 1 else s
    let s := if r.crossRange then s.count .prepCrossRange t.model 1 else s
    if r.nanReject || r.crossRange then s.threadInvalid tid else s

/-- A thread has come to a layer's array: its input row goes to the devices that hold columns of the layer, at most 1,024 values a
packet (R231, log 15). -/
def sendRow (s : State) (tid : Nat) : State :=
  match Tbl.find? s.threads tid with
  | none => s
  | some t =>
    let img := (s.verOf t).image
    let l := layerAt img t.layer
    let far := match Tbl.find? (s.verOf t).replicas t.replica with
      | some r => r.slices.filter (fun x => x.dev.isSome && x.layers.any (fun p => p.layer == t.layer))
      | none => []
    if t.phase ≠ .array ∨ far = [] then s
    else
      let row := rowValues l (inputRow t l.afmt l.k)
      let parts := (chunks 1024 row.length row).mapIdx (fun i c => (1024 * i, c))
      far.foldl (fun s x => parts.foldl (fun s q =>
        match sendQmsg s (x.dev.getD 0) 4 (s.model t.model).owner t.model
            (qmsgBody (s.boot.boardPos * 2 ^ 21 + tid) t.model q.1 q.2.length x.block t.layer (q.2.flatMap (beBytes 4))) with
        | some s => s
        | none => s.threadFault tid) s) s

/-- A LAYER run has ended: an attention layer's value product and output projection follow; then the next layer, or the scores if
it was the last (R143, R164). -/
def endLayer (s : State) (tid : Nat) (t : Thread) (img : Bytes) : State :=
  if t.layer + 1 < nlayer img then
    let l := layerAt img t.layer
    let row := if l.lkind = 2 then passRow img (t.layer + 1) (attnOut img l t) else t.inRow
    sendRow (s.updThread tid (fun _ => nextLayer { t with waitFrom := s.cycle, inRow := row } img)) tid
  else if (upTo (imgNout img)).all (fun j => Tbl.has t.scores j) then
    (s.updThread tid (fun x => { x with phase := .done })).endThread tid
  else s.threadFault tid

/-- END: ends the run and frees the context; loads still pending are discarded (R157, R158). -/
def execEndRun (ctx : Nat) (s : State) : Res :=
  onObj s (okVctx ctx)
    (match fetchV s ctx with
     | none => s
     | some q =>
       let s' := vIssue s ctx (rowCtl [8]) (fun q => .inl q.x)
       match Tbl.find? s'.vctx ctx with
       | some y =>
         if y.cyc = q.x.cyc then s'
         else
           let s' := { s' with vctx := Tbl.del s'.vctx ctx }
           if q.x.layerRun then endLayer s' q.x.thread q.t q.img else endHook s' q.x.thread q.t q.img
       | none => s')

/-- VSE_CYCLES_EXCEEDED (R163, R167): the run's context cycles exceed MAX_CYCLES: its next instruction stalls past them on its own
results, or it has stalled past them on its own loads. -/
def execVseCyclesExceeded (ctx : Nat) (s : State) : Res :=
  onObj s (okVctx ctx)
    (match fetchV s ctx with
     | none => s
     | some q =>
       if q.hdr.maxCycles < q.c ||
           ((q.x.wait.isSome || stallsOnLoad q.x q.ins) && decide (q.hdr.maxCycles ≤ q.x.stalled s.cycle)) then
         vException s ctx q.x q.t.model exCycles
       else s)

/-- A thread waits in the hook queue of a block. -/
def waitsHook (b tid : Nat) (t : Thread) : Bool := t.hook == .waiting && !t.done && tid / 4096 == b

/-- HOOK_BIND (R152, R162): the oldest waiting thread of the block, on the VSE R152 names. -/
def execHookBind (thread : Nat) (s : State) : Res :=
  onObj s (okThread thread)
    (match Tbl.find? s.threads thread with
     | none => s
     | some t =>
       let img := (s.verOf t).image
       let b := thread / 4096
       if !waitsHook b thread t || (s.block b).fenced || !oldestWaiting s thread (waitsHook b) then s
       else
         match hookProg img with
         | none => s
         | some pr =>
           match bindRun s b thread pr false (progHdr img pr).vregs with
           | some s => s.updThread thread (fun x => { x with hook := .bound })
           | none => s)

/-- The block on which a thread's LAYER program runs: its evaluating block if that holds the layer, else the lowest holding
block of its replica (R25, R162). -/
def layerBlock (s : State) (tid : Nat) (t : Thread) : Nat :=
  match Tbl.find? (s.verOf t).replicas t.replica with
  | none => tid / 4096
  | some r =>
    let holds := fun (x : Slice) => x.dev.isNone && x.layers.any (fun p => p.layer == t.layer)
    if r.slices.any (fun x => x.block == tid / 4096 && holds x) then tid / 4096
    else match r.slices.find? holds with | some x => x.block | none => tid / 4096

/-- A thread waits in the vector queue of a block. -/
def waitsVector (s : State) (b tid : Nat) (t : Thread) : Bool := t.phase == .vector && !t.done && layerBlock s tid t == b

/-- LAYER_BIND (R152, R162): the thread's array row or bags are complete, a context and registers are free. -/
def execLayerBind (thread : Nat) (s : State) : Res :=
  onObj s (okThread thread)
    (match Tbl.find? s.threads thread with
     | none => s
     | some t =>
       let img := (s.verOf t).image
       let pr := (layerAt img t.layer).prog
       let b := layerBlock s thread t
       if !waitsVector s b thread t || (s.block b).fenced || !oldestWaiting s thread (waitsVector s b) then s
       else
         match bindRun s b thread pr true (progHdr img pr).vregs with
         | some s => s.updThread thread (fun x => { x with phase := .running })
         | none => s)

end Sys2Proof.Machine
end

