-- ==== Sys2Proof/Machine/Arrays.lean ====
section
/-! DEFINITION. Matrix arrays and embedding bags: batches under the governor's credit, tile passes, gathers (R137 to R148,
R504 to R506). -/

namespace Sys2Proof.Machine

/-! The governor (R505): starts and stops of the last 1 µs cost 12 W each, against 1.5 A × VIN. -/

/-- VIN in millivolts as last measured. -/
def vinNow (s : State) : Int := match s.power.samples with | x :: _ => x.vin | [] => 0
/-- Starts and stops still in the rolling 1 µs window. -/
def recentStarts (s : State) : List Nat := s.power.starts.filter (fun t => decide (s.now < t + 1000000))
/-- One more start or stop has credit. -/
def hasCredit (s : State) : Bool := decide (((recentStarts s).length + 1 : Int) * 12000 * 10 ≤ 15 * vinNow s)
/-- Takes the credit of one start or stop. -/
def takeCredit (s : State) : State := { s with power := { s.power with starts := recentStarts s ++ [s.now] } }

/-- An array that waits for credit: counted from here on (GOV_WAIT_NS, R523). -/
def waitCredit (s : State) (b : Nat) : State :=
  s.updBlock b (fun x => { x with creditFrom := some (x.creditFrom.getD s.now) })
/-- The wait for credit ends: its nanoseconds are counted. -/
def endCreditWait (s : State) (b : Nat) : State :=
  match (s.block b).creditFrom with
  | some t => (s.count .govWaitNs 0 ((s.now - t) / 1000)).updBlock b (fun x => { x with creditFrom := none })
  | none => s

/-! Batches (R143). -/

/-- What a local block holds of the layer a thread has come to. -/
def layerPart (s : State) (t : Thread) (b : Nat) : Option LayerPl :=
  match Tbl.find? (s.verOf t).replicas t.replica with
  | some r => r.slices.findSome? (fun x => if x.dev.isNone && x.block == b then x.layers.find? (fun p => p.layer == t.layer) else none)
  | none => none

/-- Threads that wait for a block's array at a layer of a model, oldest first: (thread number, thread). A layer divided over blocks
takes a thread once on each. -/
def arrayWaiters (s : State) (b m l : Nat) : List (Nat × Thread) :=
  sortBy (fun p => p.2.tArrive) (s.threads.filter (fun p =>
    p.2.model == m && p.2.layer == l && (p.2.phase == .array || p.2.phase == .batch) && !p.2.done && !p.2.parts.contains b &&
      (layerPart s p.2 b).isSome))

/-- ARRAY_BATCH (R143, R505, R506): 64 threads wait, or the oldest has waited BATCH_WAIT cycles; a gated array starts
only against credit, and none starts under throttle or outside S0. The oldest is the one of lowest T_ARRIVE (log 138). -/
def execArrayBatch (block model layer : Nat) (s : State) : Res :=
  onObj s (okBlock block && okCtx model)
    (match arrayWaiters s block model layer with
     | [] => s
     | p :: t =>
       let ver := p.2.ver
       let l := ((p :: t).filter (fun x => x.2.ver == ver)).take 64
       let img := (s.verOf p.2).image
       let due := l.length == 64 || decide (p.2.waitFrom + batchWait img ≤ s.cycle)
       let x := s.block block
       if !due || x.batch.isSome || x.fenced || s.power.throttle || s.power.st ≠ 0 || s.power.fenced then s
       else if x.gated && !hasCredit s then waitCredit s block
       else
         let s := endCreditWait s block
         let s := if x.gated then takeCredit s else s
         let s := s.updBlock block (fun x =>
           { x with gated := false, batch := some ⟨model, ver, layer, l.map Prod.fst⟩ })
         l.foldl (fun s q => s.updThread q.1 (fun t => { t with phase := .batch, parts := block :: t.parts })) s)

/-! Tile passes (R137 to R142, R470). -/

/-- The thread after its layer's rows or bags are complete: on to the vector stage, or, without a program, on to the next
layer with the row converted (R25, R162, log 12). -/
def afterRows (s : State) (tid : Nat) (t : Thread) (img : Bytes) (row : List Nat) : State :=
  let l := layerAt img t.layer
  if l.prog ≠ 0xFFFF then
    s.updThread tid (fun x => { x with phase := .vector, outRow := row, inRow := [], parts := [], colRow := [] })
  else if t.layer + 1 < nlayer img then
    let out := if l.lkind = 2 then attnOut img l { t with inRow := toRow l row } else outFp32 l row
    sendRow (s.updThread tid (fun x =>
      { nextLayer { x with waitFrom := s.cycle } img with inRow := passRow img (t.layer + 1) out })) tid
  else s.threadFault tid

/-- A thread's row has passed a block's array: the columns the block holds are there; with the last of them the row is complete
(R148, R162). -/
def passThread (s : State) (block tid : Nat) (t : Thread) : State :=
  let img := (s.verOf t).image
  let l := layerAt img t.layer
  match layerPart s t block with
  | none => s
  | some p =>
    if l.lkind ≠ 1 || (p.first = 0 && l.n ≤ p.cols) then
      let t := { t with vals := layerVals img l t }
      afterRows (s.updThread tid (fun _ => t)) tid t img (layerOut img l t)
    else
      let c := (upTo p.cols).foldl (fun (c : Tbl Nat) i => Tbl.put c (p.first + i) (layerCol img l t (p.first + i))) t.colRow
      let t := { t with colRow := c }
      let s := s.updThread tid (fun _ => t)
      if (upTo l.n).all (Tbl.has c) then afterRows s tid t img ((upTo l.n).map (fun j => Tbl.getD c j 0)) else s

/-- ARRAY_PASS_DONE (R138, R142): the batch's rows go on to the vector stage. -/
def execArrayPassDone (block : Nat) (s : State) : Res :=
  onObj s (okBlock block)
    (match (s.block block).batch with
     | none => s
     | some b =>
       let s := s.updBlock block (fun x => { x with batch := none, lastRow := s.now })
       b.threads.foldl (fun s tid =>
         match Tbl.find? s.threads tid with
         | some t => if t.phase = .batch ∧ t.layer = b.layer ∧ t.parts.contains block = true then passThread s block tid t else s
         | none => s) s)

/-- ARRAY_IDLE_GATE (R505): 2 µs without a row; the stop costs credit like a start. -/
def execArrayIdleGate (block : Nat) (s : State) : Res :=
  onObj s (okBlock block)
    (let x := s.block block
     if x.gated || x.batch.isSome || s.now < x.lastRow + 2000000 then s
     else if !hasCredit s then waitCredit s block
     else (takeCredit (endCreditWait s block)).updBlock block (fun x => { x with gated := true }))

/-! Embedding bags (R144 to R147). -/

/-- A raw feature as a bag index: the integer, or none where it is not one (R145). -/
def bagIndex (isI : Bool) (v : Nat) : Option Int :=
  if isI then some (sext 32 v)
  else
    match fp32.decode v with
    | .fin neg m e =>
      let r := finToIntRne neg m e
      if r.2 then some r.1 else none
    | _ => none

/-- The indices of a bag, pads left out; none if one is refused (R145). -/
def bagRows (img : Bytes) (raw : List Nat) (d : BagDesc) : Option (List Nat) :=
  (upTo d.max).foldr (fun i acc =>
    match acc, bagIndex (acceptI (imgAccept img)) (raw.getD (d.first + i) 0) with
    | some l, some v => if v = -1 then some l else if 0 ≤ v ∧ v < etabRows img d.table then some (v.toNat :: l) else none
    | _, _ => none) (some [])

/-- Every bag of every layer of a query has legal indices (R145). -/
def bagsLegal (img : Bytes) (raw : List Nat) : Bool :=
  (upTo (nlayer img)).all (fun i => (upTo (layerAt img i).nbag).all (fun j => (bagRows img raw (bagAt img i j)).isSome))

/-- One table row as FP32 patterns, exactly (R144, R471). -/
def rowFp32 (fmt dim : Nat) (b : Bytes) : List Nat :=
  match fmt with
  | 1 => (upTo dim).map (fun i => le b (4 * i) 4)
  | 2 => (upTo dim).map (fun i => le b (2 * i) 2 * 65536)
  | 3 => (upTo dim).map (fun i => (cvtFmt e4m3 fp32 (byteAt b i)).1)
  | _ =>
    let h := ceilDiv (ceilDiv dim 32) 4 * 4
    (upTo dim).map (fun i =>
      match scaleExp (byteAt b (i / 32)) with
      | none => fp32.nanBits
      | some k => (fp32.encode ((e4m3.decode (byteAt b (h + i))).scale k)).1)

/-- SUM and MEAN over the rows, in index order, rounding at each addition; +0.0 for a bag of pads (R144). The sum starts
with the first row (log 138). -/
def poolRows (mean : Bool) (dim : Nat) (rows : List (List Nat)) : List Nat :=
  let sum := match rows with
    | [] => List.replicate dim 0
    | r :: t => t.foldl (fun a b => a.zipWith faddBits b) r
  if mean && !rows.isEmpty then
    let n := (fp32.ofInt rows.length).1
    sum.map (fun x => (fp32.div x n).1)
  else sum

/-- BAG_GATHER_COMPLETE (R144, R147, R225, R280): the rows are there and the bag is pooled; poison faults the query and
its model context, a refusal or an error completion the query. -/
def execBagGatherComplete (thread bag : Nat) (s : State) : Res :=
  onObj s (okThread thread && decide (bag < 16))
    (match Tbl.find? s.threads thread with
     | none => s
     | some t =>
       let v := s.verOf t
       let img := v.image
       let l := layerAt img t.layer
       if t.phase ≠ .bags || t.done || l.nbag ≤ bag || Tbl.has t.bags bag then s
       else
         let d := bagAt img t.layer bag
         let dim := etabDim img d.table
         let fmt := etabFmt img d.table
         let size := etabRowBytes dim fmt
         let copies := Tbl.getD v.tables d.table []
         let base := copies.getD (t.replica % max 1 copies.length) 0
         let rows := (bagRows img t.raw d).getD []
         let owner := (s.model t.model).owner
         let addrs := rows.map (fun r => base + r * etabStride dim fmt)
         let src := BlpSrc.bag t.req t.qi bag
         let far := addrs.find? (fun a => a / 2 ^ 45 != s.boot.boardPos &&
           (!granted s owner t.model (a / 2 ^ 45) (a % 2 ^ 45) size || regionLost s (a / 2 ^ 45) (a % 2 ^ 45)))
         match (match far with | some a => ReadEnd.denied a | none => readBoard s src owner t.model size (addrs.map (fun a => (0, a)))) with
         | .wait => issueReads s src (ridOf 0 owner t.model) size addrs
         | .poison a => (s.consumePoison t.model a).threadFault thread
         | .denied a =>
           (if a / 2 ^ 45 = s.boot.boardPos || far.isSome then s.isoDeny owner 0 (objCode 1 t.model) a else s).threadFault thread
         | .data b =>
           let s := dropReqs s src
           let pooled := poolRows d.mean dim ((chunks size rows.length b).map (rowFp32 fmt dim))
           let t := { t with bags := Tbl.put t.bags bag pooled }
           let s := s.updThread thread (fun _ => t)
           if (upTo l.nbag).all (fun j => Tbl.has t.bags j) then afterRows s thread t img (t.bags.flatMap Prod.snd)
           else s)

end Sys2Proof.Machine
end

