-- ==== Sys2Proof/Machine/Trees.lean ====
section
/-! DEFINITION. Tree ensembles (chapter 04): starting a thread's evaluation, the compare network, keys and lookups, the
combine stage with the margin check (R101 to R123, R135, R283 to R285). -/

namespace Sys2Proof.Machine

/-! Where a tree lies. -/

/-- A thread's replica. -/
def replicaOf (s : State) (t : Thread) : Option Replica := Tbl.find? (s.verOf t).replicas t.replica

/-- The slice a local block holds of a thread's replica. -/
def sliceOf (s : State) (t : Thread) (block : Nat) : Option Slice :=
  match replicaOf s t with
  | some r => r.slices.find? (fun x => x.dev.isNone && x.block == block)
  | none => none

/-- The local slice and place of a tree. -/
def treePlace (s : State) (t : Thread) (tree : Nat) : Option (Slice × TreePl) :=
  match replicaOf s t with
  | some r => r.slices.findSome? (fun x =>
      if x.dev.isNone then (x.trees.find? (fun p => p.tree == tree)).map (fun p => (x, p)) else none)
  | none => none

/-- Prepared features a tree's predicates test. -/
def treePreps (img : Bytes) (tree : Nat) : List Nat := (treePreds img (treeDir img tree)).map (thrPrep img)

/-- Every predicate bit of a tree is valid on a block (R107). -/
def treeReady (img : Bytes) (t : Thread) (block tree : Nat) : Bool :=
  (treePreps img tree).all (fun p => t.presented.contains (block * 4096 + p))

/-- What sets a tree's lookup off. -/
inductive Trigger where
  /-- No predicate: nothing to wait for. -/
  | none
  /-- The end of the hook. -/
  | hookEnd
  /-- A prepared feature. -/
  | feature (prep : Nat)
  deriving DecidableEq, Repr, Inhabited

/-- The last raw feature a prepared feature is made from, none where a HOOK entry is among its inputs. -/
def rawEnd (p : Bytes) (i : Nat) : Option Nat :=
  let one := fun (j : Nat) => let e := prepEntry p j; if peKind e = 0 then some (peSrcA e) else none
  let e := prepEntry p i
  if peKind e = 1 || peKind e = 2 then
    match one (peSrcA e), one (peSrcB e) with
    | some a, some b => some (max a b)
    | _, _ => none
  else one i

/-- The trigger a tree is given at load: of its prepared features the one whose raw inputs end latest, the lowest of equals,
or the end of the hook (R111). -/
def treeTrigger (img : Bytes) (tree : Nat) : Trigger :=
  let ps := treePreps img tree
  let p := prepSec img
  if ps.isEmpty then .none
  else if ps.any (fun i => (rawEnd p i).isNone) then .hookEnd
  else
    let last := ps.foldl (fun a i => max a ((rawEnd p i).getD 0)) 0
    .feature ((ps.filter (fun i => rawEnd p i == some last)).foldl min (nprep p))

/-- A tree's trigger has fired on a block. -/
def triggered (img : Bytes) (t : Thread) (block tree : Nat) : Bool :=
  match treeTrigger img tree with
  | .none => true
  | .hookEnd => t.hook == .done
  | .feature p => t.presented.contains (block * 4096 + p)

/-- Trees of a slice whose lookup can be queued and is not yet: the trigger has fired, and every other predicate bit of the
key is valid (R107, R111, log 16). -/
def newlyReady (img : Bytes) (t : Thread) (x : Slice) : List Nat :=
  (x.trees.map TreePl.tree).filter (fun k =>
    triggered img t x.block k && treeReady img t x.block k && !t.queued.contains k && !Tbl.has t.matched k)

/-! Starting evaluation (R25, R73 to R93, R143 to R145). -/

/-- The raw features of a thread go to the holders of its replica on other devices (R231). -/
def sendFeatures (s : State) (tid : Nat) (t : Thread) : State :=
  match replicaOf s t with
  | none => s
  | some r =>
    (r.slices.filter (fun x => x.dev.isSome)).foldl (fun s x =>
      let p := qmsgBody (s.boot.boardPos * 2 ^ 21 + tid) t.model 0 t.raw.length x.block 0 (t.raw.flatMap (beBytes 4))
      match sendQmsg s (x.dev.getD 0) 1 (s.model t.model).owner t.model p with
      | some s => s
      | none => s.threadFault tid) s

/-- A tree thread's preparation starts, or starts again from the held input: features that need no hook are prepared, the
hook waits, trees without predicates are ready at once (R87, R100, R290). -/
def startTree (s : State) (tid : Nat) (t : Thread) (img : Bytes) : State :=
  let p := prepSec img
  let r := prepareAll img p (imgAccept img) t.raw none []
  let t' := { t with prepd := r.vals, nanMapped := t.nanMapped || r.nanMapped, presented := [], pvec := [], queued := [],
                     matched := [], hookOut := [], hook := if hasHook p then .waiting else .none }
  let own := match replicaOf s t with
    | some x => (x.slices.filter (fun y => y.dev.isNone)).flatMap (newlyReady img t')
    | none => []
  let s := s.updThread tid (fun _ => { t' with queued := own })
  let s := if r.nanMapped && !t.nanMapped then s.count .prepNanMapped t.model 1 else s
  let s := if r.nanReject then s.count .prepNanReject t.model 1 else s
  let s := if r.crossRange then s.count .prepCrossRange t.model 1 else s
  if r.nanReject || r.crossRange then s.threadInvalid tid else sendFeatures s tid t'

/-- A neural thread starts at layer 0: its bags, or its raw features as the first input row (R145, log 12). -/
def startNeural (s : State) (tid : Nat) (t : Thread) (img : Bytes) : State :=
  if !bagsLegal img t.raw then (s.count .embIndex t.model 1).threadInvalid tid
  else
    let l := layerAt img 0
    let raw := if acceptI (imgAccept img) then t.raw.map (fun v => (fp32.ofInt (sext 32 v)).1) else t.raw
    sendRow (s.updThread tid (fun _ =>
      { t with layer := 0, phase := if l.lkind = 0 then .bags else .array, waitFrom := s.cycle, bags := [], outRow := [],
               scores := [], inRow := if l.lkind = 0 then [] else passRow img 0 raw })) tid

/-- A thread starts its evaluation from its features. -/
def startThread (s : State) (tid : Nat) : State :=
  match Tbl.find? s.threads tid with
  | none => s
  | some t =>
    let img := (s.verOf t).image
    if imgKind img = 0 then startTree s tid t img else startNeural s tid t img

/-- The thread's request has poisoned cells in the query hold (R277). -/
def holdBad (s : State) (tid : Nat) : Bool :=
  match Tbl.find? s.threads tid with
  | some t => (match s.req t.req with | some q => q.heldBad | none => false)
  | none => false

/-- A thread is evaluated again from its held input (R285, R290): nothing of the first run is left. A poisoned held input
is answered 0x30 (R277). -/
def replayThread (s : State) (tid : Nat) : State :=
  if holdBad s tid then s.threadFault tid
  else
    startThread ((s.dropCtxOf tid).updThread tid (fun t =>
      { t with invalid := false, fault := false, done := false, scores := [], scratch := [], remoteSum := [],
               remoteLeaf := [], remoteGot := [], sums := [], sumFrom := .none, parts := [], colRow := [], vals := [], phase := .bags, layer := 0 })) tid

/-! The compare network (R101 to R107). -/

/-- Lanes a prepared feature's runs lie on, in a slice (R106). -/
def lanesOf (img : Bytes) (x : Slice) (prep : Nat) : List Nat :=
  (x.comps.filter (fun c => thrPrep img c.pred == prep)).map (fun c => c.bit / 256)

/-- A thread's prepared features that are ready and wait for lanes of a block. -/
def waitingPreps (s : State) (t : Thread) (block : Nat) : List Nat :=
  if t.done then []
  else
    match sliceOf s t block with
    | none => []
    | some x =>
      let img := (s.verOf t).image
      (t.prepd.map Prod.fst).filter (fun p =>
        !t.presented.contains (block * 4096 + p) && x.comps.any (fun c => thrPrep img c.pred == p))

/-- No other thread with an older T_ARRIVE waits for one of these lanes of a block (R107). -/
def lanesFree (s : State) (block tArrive : Nat) (lanes : List Nat) : Bool :=
  s.threads.all (fun p => decide (tArrive ≤ p.2.tArrive) ||
    (match sliceOf s p.2 block with
     | none => true
     | some x => (waitingPreps s p.2 block).all (fun q =>
         (lanesOf (s.verOf p.2).image x q).all (fun l => !lanes.contains l))))

/-- FEATURE_PRESENTATION (R106, R107, R111): the feature's predicate bits are set, and trees whose last predicate this was
are queued. -/
def execFeaturePresentation (thread block prep : Nat) (s : State) : Res :=
  onObj s (okThread thread && okBlock block)
    (match Tbl.find? s.threads thread with
     | none => s
     | some t =>
       match sliceOf s t block, Tbl.find? t.prepd prep with
       | some x, some v =>
         let img := (s.verOf t).image
         let p := prepSec img
         if (s.block block).fenced || !(waitingPreps s t block).contains prep ||
             !lanesFree s block t.tArrive (lanesOf img x prep) then s
         else
           let cs := x.comps.filter (fun c => thrPrep img c.pred == prep)
           let pv := cs.foldl (fun a c => Tbl.put a (block * 4096 + c.bit) (predBit img p (imgAccept img) c.pred v)) t.pvec
           let i := peOutI (imgAccept img) (prepEntry p prep)
           let m := nanPolicy p != 0 && !i && fp32.isNan v
           let s := if m && !t.nanMapped then s.count .prepNanMapped t.model 1 else s
           let t := { t with pvec := pv, presented := (block * 4096 + prep) :: t.presented, nanMapped := t.nanMapped || m }
           s.updThread thread (fun _ => { t with queued := t.queued ++ newlyReady img t x })
       | _, _ => s)

/-! Lookups (R108 to R114). -/

/-- Numbers of the entries of a group in a bank that match a key (R109). -/
def bankHits (s : State) (block bank group key : Nat) : List Nat :=
  (s.banks.filter (fun p => p.1 / 1024 == block * 64 + bank && p.2.valid && p.2.group == group &&
    ((key ^^^ p.2.value) &&& p.2.care) == 0)).map (fun p => p.1 % 1024)

/-- The key of a tree on a slice from its predicate bits (R108): bit k is the gather map's entry k. -/
def treeKey (img : Bytes) (x : Slice) (tree : Nat) (bitAt : Nat → Bool) : Nat :=
  ((treePreds img (treeDir img tree)).mapIdx (fun k p =>
    match x.comps.find? (fun c => c.pred == p) with
    | some c => if bitAt c.bit then 2 ^ k else 0
    | none => 0)).foldl (· + ·) 0

/-- Matching entries of a tree's lookup: a ganged rule needs both halves at one index (R108, R109). -/
def treeHits (s : State) (img : Bytes) (x : Slice) (pl : TreePl) (key : Nat) : List Nat :=
  if (treeDir img pl.tree).gang then
    let h := bankHits s x.block (pl.bank + 1) pl.group (key / 2 ^ 256)
    (bankHits s x.block pl.bank pl.group (key % 2 ^ 256)).filter (fun e => h.contains e)
  else bankHits s x.block pl.bank pl.group key

/-- A lookup fault (R113, R283): counted, reported, and an immediate scrub of the group in the bank begins. -/
def lookupFault (s : State) (ctx block bank group : Nat) (multi : Bool) : State :=
  let s := s.count (if multi then .treeMultimatch else .treeNomatch) ctx 1
  let s := s.integ { fcode := 0x0122, sev := 1, unitKind := 2, unit := block * 64 + bank, obj := objCode 1 ctx,
                     detail := b2n multi * 2 ^ 31 + group }
  let f : BankFault :=
    match Tbl.find? s.place.bankFaults (block * 64 + bank) with
    | some f => if f.group = group || f.more.any (fun g => g.1 == group) then f else { f with more := f.more ++ [(group, ctx)] }
    | none => { group := group, ctx := ctx, since := s.cycle }
  { s with place := { s.place with bankFaults := Tbl.put s.place.bankFaults (block * 64 + bank) f } }

/-- A bank serves lookups: not retired and waiting for its rules to move (R135). -/
def bankServes (s : State) (block bank : Nat) : Bool :=
  match Tbl.find? s.place.bankFaults (block * 64 + bank) with
  | some f => !f.relocating
  | none => true

/-- The banks a tree's lookup uses: one, or both of a pair for a ganged tree (R108, R112). -/
def treeBanks (img : Bytes) (pl : TreePl) : List Nat :=
  if (treeDir img pl.tree).gang then [pl.bank, pl.bank + 1] else [pl.bank]

/-- No thread with an older T_ARRIVE waits with a lookup on this bank (R107, R112). -/
def bankTurn (s : State) (block bank tArrive : Nat) : Bool :=
  s.threads.all (fun p => p.2.done || decide (tArrive ≤ p.2.tArrive) ||
    p.2.queued.all (fun k => match treePlace s p.2 k with
      | some (x, pl) => x.block != block || !(treeBanks (s.verOf p.2).image pl).contains bank
      | none => true))

/-- Every bank of a tree's lookup serves, and none is owed to an older thread (R107, R112, R135). -/
def banksFree (s : State) (img : Bytes) (block tArrive : Nat) (pl : TreePl) : Bool :=
  (treeBanks img pl).all (fun k => bankServes s block k && bankTurn s block k tArrive)

/-! Output sums of the combine stage (R115). -/

/-- Output sums that threads hold in a block's slice. -/
def sumsHeld (s : State) (block : Nat) : Nat :=
  s.threads.foldl (fun a p => if p.2.sums.contains block then a + imgNout (s.verOf p.2).image else a) 0

/-- Output sums that threads with an older T_ARRIVE wait for in a block's slice: a lookup of theirs there is queued and they hold
none yet. -/
def sumsAwaited (s : State) (block tArrive : Nat) : Nat :=
  s.threads.foldl (fun a p =>
    if p.2.done || decide (tArrive ≤ p.2.tArrive) || p.2.sums.contains block || imgOrdered (s.verOf p.2).image ||
        p.2.queued.all (fun k => match treePlace s p.2 k with | some (x, _) => x.block != block | none => true) then a
    else a + imgNout (s.verOf p.2).image) 0

/-- Blocks in whose slice a thread has yet to take its output sums for a leaf value on `block`: that block and its evaluating
block, where the partial sums meet (R115, R116, log 129). -/
def sumsNeeded (img : Bytes) (thread : Nat) (t : Thread) (block : Nat) : List Nat :=
  if imgOrdered img then [] else [block, thread / 4096].eraseDups.filter (fun b => !t.sums.contains b)

/-- The slice of a block has the thread's output sums free, those that older threads wait for left out: 16,384 sums a block
(R115). -/
def sumsFree (s : State) (img : Bytes) (t : Thread) (block : Nat) : Bool :=
  decide (sumsHeld s block + sumsAwaited s block t.tArrive + imgNout img ≤ 16384)

/-- TREE_LOOKUP (R112 to R115): exactly one matching entry gives the leaf, which takes the output sums it is added to; any other
number is a fault, after which the query's other lookups still issue (R135). -/
def execTreeLookup (thread tree : Nat) (s : State) : Res :=
  onObj s (okThread thread)
    (match Tbl.find? s.threads thread with
     | none => s
     | some t =>
       match treePlace s t tree with
       | none => s
       | some (x, pl) =>
         let img := (s.verOf t).image
         let need := sumsNeeded img thread t x.block
         if t.done || !t.queued.contains tree || (s.block x.block).fenced || !banksFree s img x.block t.tArrive pl ||
             !need.all (sumsFree s img t) then s
         else
           let key := treeKey img x tree (fun b => Tbl.getD t.pvec (x.block * 4096 + b) false)
           let s := s.updThread thread (fun y => { y with queued := y.queued.erase tree })
           match treeHits s img x pl key with
           | [e] => s.updThread thread (fun y =>
               { y with matched := Tbl.put y.matched tree (e - pl.first), sums := need ++ y.sums })
           | l => (lookupFault s t.model x.block pl.bank pl.group (!l.isEmpty)).updThread thread (fun y =>
               { y with fault := true, matched := Tbl.put y.matched tree (treeDir img tree).rcount }))

/-! Combining (R115 to R123, R284, R285). -/

/-- Smallest binary32 at or above n · 2^−k units of 2^−149, in those units; none above the range. -/
def fp32Up (n k : Nat) : Option Nat :=
  let u := ceilDiv n (2 ^ k)
  let w := u.log2 + 1 - 24
  let v := if u = 0 then 0 else ceilDiv u (2 ^ w) * 2 ^ w
  if (2 ^ 24 - 1) * 2 ^ 253 < v then none else some v

/-- One step of the ordered bound: times 1 + 2^−24, rounded up (R284). -/
def boundStep (b : Option Nat) : Option Nat :=
  match b with
  | some v => fp32Up (v * (2 ^ 24 + 1)) 24
  | none => none

/-- The largest magnitude a tree can add to an output, in units of 2^−149. -/
def leafMax (img : Bytes) (d : TreeDir) (j : Nat) : Nat :=
  ((upTo d.rcount).flatMap (fun i => (leafValues img d i).filter (fun p => p.1 == j))).foldl
    (fun a p => max a (fixOfFp32 p.2).natAbs) 0

/-- BOUND_j in units of 2^−149, none for +∞ (R284). -/
def boundOf (img : Bytes) (j : Nat) : Option Nat :=
  let b := fp32Up ((upTo (ntrees img)).foldl (fun a k => a + leafMax img (treeDir img k) j)
    (fixOfFp32 (baseAt img j)).natAbs) 0
  if imgOrdered img then Nat.rec b (fun _ a => boundStep a) (ntrees img + 1) else b

/-- The margin check (R284): |m| ≤ BOUND; ±∞ passes only under +∞; a NaN never passes. -/
def marginOk (m : Nat) (bound : Option Nat) : Bool :=
  match fp32.decode m, bound with
  | .nan _, _ => false
  | _, none => true
  | .inf _, some _ => false
  | .fin .., some b => decide ((fixOfFp32 m).natAbs ≤ b)

/-- Leaf values of an output by tree index: those of matched trees and those received from other devices. -/
def leavesOf (img : Bytes) (t : Thread) (j : Nat) : List Nat :=
  (upTo (ntrees img)).filterMap (fun k =>
    match Tbl.find? t.matched k with
    | some i => ((leafValues img (treeDir img k) i).find? (fun p => p.1 == j)).map Prod.snd
    | none => Tbl.find? t.remoteLeaf (k * 64 + j))

/-- The margin of an output before the check: SUM_EXACT (R115) or SUM_ORDERED (R117). -/
def marginOf (img : Bytes) (t : Thread) (j : Nat) : Nat :=
  let base := baseAt img j
  let l := leavesOf img t j
  if imgOrdered img then
    let m := l.foldl faddBits (if baseFirst img then base else 0)
    if baseFirst img then m else faddBits m base
  else fp32OfFix (l.foldl (fun a v => a + fixOfFp32 v) (fixOfFp32 base + Tbl.getD t.remoteSum j 0))

/-- Scale and link (R119 to R122): the scores from the margins. -/
def linkScores (img : Bytes) (m : List Nat) : List Nat :=
  let u := m.map (fun x => (fp32.mul (imgScale img) x).1)
  match imgLink img with
  | 1 => u.map (fun x => (fp32.logistic x).1)
  | 2 => u.map (fun x => (fp32.exp x).1)
  | 3 => softmax u
  | _ => u

/-- Every tree of the thread's model has given its leaf, here or on another device. -/
def allLeaves (s : State) (t : Thread) (img : Bytes) : Bool :=
  (match replicaOf s t with
   | some r => r.slices.all (fun x => match x.dev with
       | none => x.trees.all (fun p => Tbl.has t.matched p.tree)
       | some d => t.remoteGot.contains (d * 64 + x.block))
   | none => false) && decide (t.matched.length ≤ ntrees img)

/-- Holding blocks of a thread's replica on this device. -/
def holders (s : State) (t : Thread) : List Nat :=
  match replicaOf s t with
  | some r => (r.slices.filter (fun x => x.dev.isNone)).map Slice.block
  | none => []

/-- A margin check fails (R285): the first time the thread is replayed; the second time the query is answered 0x30, an
event names the context and each holding block, and their tests fall due. -/
def marginFault (s : State) (tid : Nat) (t : Thread) (j : Nat) : State :=
  let obj := objCode 1 t.model
  if t.replayed then
    let hs := holders s t
    let s := hs.foldl (fun s b =>
      s.integ { fcode := 0x0121, sev := 1, unitKind := 1, unit := b, obj := obj, detail := j + 2 ^ 31 }) s
    let s := hs.foldl (fun s b => s.updBlock b (fun x => { x with testDue := some s.now })) s
    s.threadFault tid
  else
    let s := (s.count .marginFail t.model 1).count .devMarginFail 0 1
    let s := s.integ { fcode := 0x0121, sev := 1, obj := obj, detail := j }
    replayThread (s.updThread tid (fun x => { x with replayed := true })) tid

/-- SUM_ORDERED threads of an evaluating block whose additions run (R256). -/
def summing (s : State) (block : Nat) : Nat := s.threads.countP (fun p => p.1 / 4096 == block && p.2.sumFrom.isSome)

/-- A SUM_ORDERED thread waits in the combine stage's queue of its evaluating block: every leaf value is there (R118, R256). -/
def sumWaits (s : State) (t : Thread) : Bool :=
  let img := (s.verOf t).image
  !t.done && !t.fault && imgKind img == 0 && imgOrdered img && t.sumFrom.isNone && allLeaves s t img && t.hook != .waiting &&
    t.hook != .bound

/-- A waiting SUM_ORDERED thread may begin its additions: fewer than 16 run on its block and no older one waits there (R256). -/
def sumTurn (s : State) (thread : Nat) (t : Thread) : Bool :=
  decide (summing s (thread / 4096) < 16) &&
    s.threads.all (fun p => p.1 / 4096 != thread / 4096 || decide (t.tArrive ≤ p.2.tArrive) || !sumWaits s p.2)

/-- The combine stage has added a thread's leaf values: at once for SUM_EXACT, NTREES cycles after they began for SUM_ORDERED
(R115, R118). -/
def summed (s : State) (img : Bytes) (t : Thread) : Bool :=
  !imgOrdered img || (match t.sumFrom with | some c => decide (c + ntrees img ≤ s.cycle) | none => false)

/-- An exception of the SOFTMAX combine firmware (R167): counted, reported, the query answered 0x30. The firmware's program number
and instruction address are not given: 0xFFFF and 0 (log 133). -/
def combineException (s : State) (tid : Nat) (t : Thread) (code : Nat) : State :=
  let b := tid / 4096
  let s := (s.count .vseExc t.model 1).integ
    { fcode := 0x0123, sev := 1, unitKind := 3, unit := b * 4 + (chooseVse s b 1).getD 0, obj := objCode 1 t.model,
      detail := code * 2 ^ 24 + 0xFFFF }
  s.threadFault tid

/-- COMBINE_MARGIN (R115 to R123, R151, R152, R167, R256, R284, R285): the combine stage begins the additions of a SUM_ORDERED thread, or delivers
the margins of a thread whose sums are complete. The SOFTMAX firmware runs on a class 1 context. -/
def execCombineMargin (thread : Nat) (run : CombineRun) (s : State) : Res :=
  onObj s (okThread thread && okExc run.exc)
    (match Tbl.find? s.threads thread with
     | none => s
     | some t =>
       let img := (s.verOf t).image
       if t.done || imgKind img ≠ 0 || !allLeaves s t img || t.hook == .waiting || t.hook == .bound then s
       else if t.fault then s.endThread thread
       else if imgOrdered img && t.sumFrom.isNone then
         if sumTurn s thread t then s.updThread thread (fun x => { x with sumFrom := some s.cycle }) else s
       else if !summed s img t || (imgLink img == 3 && (chooseVse s (thread / 4096) 1).isNone) then s
       else
         let m := (upTo (imgNout img)).map (fun j =>
           match run.upset.find? (fun p => p.1 == j) with
           | some p => p.2 % 2 ^ 32
           | none => marginOf img t j)
         match firstIdx (fun p => !p) (m.mapIdx (fun j x => marginOk x (boundOf img j))) 0 with
         | some j => marginFault s thread t j
         | none =>
           match (if imgLink img = 3 then run.exc else none) with
           | some c => combineException s thread t c
           | none =>
           let y := linkScores img m
           let inf := (y.filter (fun v => v % 2 ^ 31 == 0x7F800000)).length
           let s := if inf = 0 then s else s.count .scoreOverflow t.model inf
           (s.updThread thread (fun x => { x with scores := y.mapIdx (fun i v => (i, v)) })).endThread thread)

end Sys2Proof.Machine
end

