-- ==== Sys2Proof/Machine/Guest.lean ====
section
/-! DEFINITION. A block that holds a slice of another device's tree model: it evaluates the slice on the features it is sent and
returns exact partial sums or leaf values; of a neural model it holds columns of layers (R28, R116, R118, R148, R231, log 15). -/

namespace Sys2Proof.Machine

/-- Leaf values of a slice on raw features: tree, output, FP32; none where a predicate has no value or a tree no single match. -/
def guestLeaves (img : Bytes) (x : Slice) (raw : List Nat) : Option (List (Nat × Nat × Nat)) :=
  let p := prepSec img
  let vals := (prepareAll img p (imgAccept img) raw none []).vals
  let bitAt := fun (b : Nat) => match x.comps.find? (fun c => c.bit == b) with
    | some c => predBit img p (imgAccept img) c.pred (Tbl.getD vals (thrPrep img c.pred) 0)
    | none => false
  if !x.comps.all (fun c => Tbl.has vals (thrPrep img c.pred)) then none
  else
    let one := fun (k : Nat) =>
      let d := treeDir img k
      let key := treeKey img x k bitAt
      match (upTo d.rcount).filter (fun i => let (v, c) := treeRule img d i; ((key ^^^ v) &&& c) == 0) with
      | [i] => some ((leafValues img d i).map (fun v => (k, v.1, v.2)))
      | _ => none
    let l := x.trees.map (fun q => one q.tree)
    if l.all Option.isSome then some (l.flatMap (fun o => o.getD [])) else none

/-- The record of an exact partial sum, SPEC 0 (R231): leaf values are finite. -/
def sumRecord (j : Nat) (v : Int) : Bytes := beBytes 2 j ++ zeros 6 ++ beBytes 40 (wrap 320 v)
/-- The record of a leaf value (R231). -/
def leafRecord (q : Nat × Nat × Nat) : Bytes := beBytes 2 q.1 ++ beBytes 1 q.2.1 ++ zeros 1 ++ beBytes 4 q.2.2

/-- What a holder sends back: QKIND and, for each packet, COUNT and body; records of at most 512 a packet (R231). -/
def guestAnswer (img : Bytes) (l : List (Nat × Nat × Nat)) : Nat × List (Nat × Bytes) :=
  if imgOrdered img then
    (3, (upTo (ceilDiv l.length 512)).map (fun i => let q := (l.drop (512 * i)).take 512; (q.length, q.flatMap leafRecord)))
  else
    (2, [(imgNout img, (upTo (imgNout img)).flatMap (fun j =>
      sumRecord j ((l.filter (fun q => q.2.1 == j)).foldl (fun a q => a + fixOfFp32 q.2.2) 0)))])

/-- Features of a thread of another device arrive for a slice on a block here; with the last of them the slice is evaluated and
the answer leaves. -/
def takeFeatures (s : State) (src eval first : Nat) (g : GuestSlice) (items : List Nat) : State :=
  let h := g.slice.block
  let key := eval * 64 + h
  let raw := (items.mapIdx (fun i v => (first + i, v))).foldl (fun (t : Tbl Nat) p => Tbl.put t p.1 p.2) (Tbl.getD s.guests key {}).raw
  if !inService s h then s
  else if !(upTo (imgNraw g.image)).all (fun i => Tbl.has raw i) then { s with guests := Tbl.put s.guests key { raw := raw } }
  else
    let s := { s with guests := Tbl.del s.guests key }
    match guestLeaves g.image g.slice ((upTo (imgNraw g.image)).map (fun i => Tbl.getD raw i 0)) with
    | none => s
    | some l =>
      let (k, ps) := guestAnswer g.image l
      ps.foldl (fun s q => (sendQmsg s src k g.fn g.ctx (qmsgBody eval g.ctx 0 q.1 h 0 q.2)).getD s) s

/-- Values of a layer's input row of a thread of another device arrive for a block here that holds columns of the layer; with the
last of them the columns leave, at most 1,024 values a packet (R148, R231, log 15). -/
def takeRow (s : State) (src eval first : Nat) (g : GuestSlice) (p : LayerPl) (items : List Nat) : State :=
  let h := g.slice.block
  let key := eval * 64 + h
  let l := layerAt g.image p.layer
  let at_ := fun (i : Nat) => p.layer * 65536 + i
  let raw := (items.mapIdx (fun i v => (at_ (first + i), v))).foldl (fun (t : Tbl Nat) q => Tbl.put t q.1 q.2) (Tbl.getD s.guests key {}).raw
  if !inService s h then s
  else if !(upTo l.k).all (fun i => Tbl.has raw (at_ i)) then { s with guests := Tbl.put s.guests key { raw := raw } }
  else
    let s := { s with guests := Tbl.del s.guests key }
    let t : Thread := { (default : Thread) with inRow := toRow l ((upTo l.k).map (fun i => Tbl.getD raw (at_ i) 0)) }
    let c := (upTo p.cols).map (fun i => layerCol g.image l t (p.first + i))
    ((chunks 1024 c.length c).mapIdx (fun i x => (p.first + 1024 * i, x))).foldl (fun s q =>
      (sendQmsg s src 4 g.fn g.ctx (qmsgBody eval g.ctx q.1 q.2.length h p.layer (q.2.flatMap (beBytes 4)))).getD s) s

end Sys2Proof.Machine
end

