-- ==== Sys2Proof/Machine/Flags.lean ====
section
/-! DEFINITION. Every status word the device computes: time-unit status (R323), identity words (R528), power and boot
status (R488, R517), PMBus status (R520), stage-program FLAGS (R154). -/

namespace Sys2Proof.Machine

/-- TU_STATUS (R323). -/
def tuStatus (t : Tu) : Nat :=
  t.epoch * 2 ^ 16 + b2n t.writeDenied * 64 + b2n t.capOvf * 32 + b2n t.stepRefused * 16 + b2n t.incRefused * 8 +
    b2n t.hoSeen * 4 + b2n t.holdover * 2 + b2n t.armed.isSome

/-- TU_STATUS after a write of ones clears its W1C bits (R323). -/
def tuStatusClear (t : Tu) (v : Nat) : Tu :=
  { t with writeDenied := t.writeDenied && !bit v 6, capOvf := t.capOvf && !bit v 5,
           stepRefused := t.stepRefused && !bit v 4, incRefused := t.incRefused && !bit v 3,
           hoSeen := t.hoSeen && !bit v 2 }

/-- BOOT_STATUS (R488). -/
def bootStatus (b : Boot) : Nat :=
  b.st * 2 ^ 28 + b.err * 2 ^ 24 + b.source * 2 ^ 22 + b.flash * 2 ^ 20 + b.pushPort * 2 ^ 18 + b.cfg * 2 ^ 16

/-- HOLD_REASON (R508): S3 and S4 wait while a model context is not EMPTY (1) or a fold group exists (2). -/
def holdReason (s : State) : Nat :=
  if s.power.targetEff < 3 then 0
  else if s.models.any (fun p => p.2.st != 0) then 1
  else if s.groups.isEmpty then 0 else 2

/-- PWR_STATUS (R517). -/
def pwrStatus (s : State) : Nat :=
  let p := s.power
  p.wakeSrc * 2 ^ 28 + p.wakePat * 2 ^ 24 + s.boot.profile * 2 ^ 22 + holdReason s * 2 ^ 20 +
    b2n (p.transit != .none) * 2 ^ 12 + b2n p.throttle * 2 ^ 11 + p.targetEff * 2 ^ 8 + p.st

/-- BLOCK_LIVE (R528): bit b is 0 once block b is retired. -/
def blockLive (s : State) : Nat :=
  (List.range 64).foldl (fun a b => a + (if (s.block b).retired then 0 else 2 ^ b)) 0

/-- LINK_UP (R528): links ACTIVE or in the deep state. -/
def linkUpBits (s : State) : Nat :=
  (List.range 7).foldl (fun a n =>
    match (s.link n).st with
    | .active => a + 2 ^ n
    | .deep => a + 2 ^ n
    | _ => a) 0

/-- STANDBY_NOW (R536). -/
def standbyNow (s : State) : Nat := (List.range 64).foldl (fun a b => a + b2n (s.block b).standby) 0

/-- PLACE_STATUS (R536). -/
def placeStatus (s : State) : Nat :=
  b2n s.place.qholdPending * 2 ^ 22 + s.place.qholdNow * 2 ^ 16 + standbyNow s * 2 ^ 8 + b2n s.place.setRefused

/-- STATUS_WORD (R520). -/
def statusWord (s : State) : Nat :=
  b2n (s.power.stInput != 0) * 2 ^ 13 + b2n s.power.stThrottle * 2 ^ 12 +
    b2n (s.power.fenced || s.boot.st == 6) * 2 ^ 6 + b2n (bit s.power.stInput 4) * 2 ^ 3 +
    b2n (s.power.stTemp != 0) * 2 ^ 2 + b2n s.power.cml * 2

/-- ALERT_N is low: any STATUS_WORD bit, FENCED or HALT (R519). -/
def alertLow (s : State) : Bool := statusWord s != 0

/-- STATUS of a ring block (R531). -/
def ringStatus (r : Ring) : Nat := r.stopCause * 4 + b2n r.cfgErr * 2 + b2n r.enable

/-- ATTACHED (R508, R529): a PF whose link is up and whose Bus Master Enable is set. -/
def attached (s : State) (f : Nat) : Bool := f % 64 == 0 && s.hostUp.contains (f / 64) && (s.fn f).bme

/-- Adds exception flags to a context's sticky FLAGS (R154). -/
def orFlags (a b : Nat) : Nat := a ||| b

end Sys2Proof.Machine
end

