-- ==== Sys2Proof/Machine/Clock.lean ====
section
/-! DEFINITION. The passing of time: one CCLK cycle, and the TCLK ticks that fall in it (log 2, R309, R310, R318). -/

namespace Sys2Proof.Machine

/-- Picoseconds of one CCLK cycle at 1.25 GHz and of one TCLK tick at 500 MHz (R29). -/
def cclkPs : Nat := 800
def tclkPs : Nat := 2000

/-- Adds `d` (units of 2^−40 ns, signed) to both views, with carries across FRAC, NS and SEC; LIN wraps modulo 2^64 ns
and TOD modulo 2^48 s (R309, R310, R315). -/
def viewsAdd (v : Views) (d : Int) : Views :=
  let lin := wrap 104 (((v.linNs * 2 ^ 40 + v.linFrac : Nat) : Int) + d)
  let m : Int := ((2 ^ 48 * 1000000000 * 2 ^ 40 : Nat) : Int)
  let tod := (((((v.todSec * 1000000000 + v.todNs) * 2 ^ 40 + v.todFrac : Nat) : Int) + d) % m).toNat
  { linNs := lin / 2 ^ 40, linFrac := lin % 2 ^ 40,
    todSec := tod / 2 ^ 40 / 1000000000, todNs := tod / 2 ^ 40 % 1000000000, todFrac := tod % 2 ^ 40 }

/-- One tick: the views and the free count advance by INC; an armed step comes one tick nearer (R309, R315, R318). -/
def tuTick (t : Tu) : Tu :=
  let v := viewsAdd t.views t.inc
  { t with views := v, secCarry := v.todSec != t.views.todSec, free := wrap 104 ((t.free : Int) + t.inc),
           ticks := t.ticks + 1, sinceInc := t.sinceInc + 1,
           armed := t.armed.map (fun a => (a.1, a.2 - 1)) }

/-- TCLK has edges: PLL locked, not stalled, power state S0 to S2 (R311, R33). -/
def tclkRuns (s : State) : Bool := s.tu.locked && !s.tu.stalled && decide (s.power.st ≤ 2)

/-- One CCLK cycle passes: what the block does when no command waits (log 2). -/
def tickCycle (s : State) : State :=
  let n := (s.now + cclkPs) / tclkPs - s.now / tclkPs
  let off := match s.power.stopAt with | some t => decide (t ≤ s.now + cclkPs) | none => false
  { s with power := if off then { s.power with stopped := [0, 1, 2, 3], stopAt := none } else s.power, now := s.now + cclkPs, cycle := s.cycle + 1,
           tu := if tclkRuns s && decide (0 < n) then tuTick s.tu else s.tu }

end Sys2Proof.Machine
end

