-- ==== Sys2Proof/Machine/TimeUnit.lean ====
section
/-! DEFINITION. The time unit: INC and STEP writes, action slots, pins, captures (chapter 10). -/

namespace Sys2Proof.Machine

/-- Changes the time unit. -/
def State.updTu (s : State) (g : Tu → Tu) : State := { s with tu := g s.tu }

/-- The PF that owns the time unit (R319, R320). -/
def tuOwner (s : State) : Nat := s.tu.owner * 64

/-- The hardened word of a device-wide register is lost (R543). -/
def lostReg (s : State) (off : Nat) : Bool :=
  s.place.lost.any (fun l => match l.obj with | .reg _ o => o == off | _ => false)

/-- Register writes of the time unit come from this function and are taken (R319, R543). -/
def tuWriter (s : State) (fn : Nat) : Bool := fn == tuOwner s && !lostReg s 0x3000

/-- LIN as a signed number relative to a target: full 64-bit difference a − b (R331). -/
def d64 (a b : Nat) : Int := sext 64 (wrap 64 ((a : Int) - (b : Int)))
/-- Signed difference of the low 40 bits (R331). -/
def d40 (a b : Nat) : Int := sext 40 (wrap 40 ((a : Int) - (b : Int)))

/-- The body of a time event at the present views (R341). -/
def timeBody (t : Tu) (tcode source flags aux : Nat) (value : Int) (ports n : Nat) : Bytes :=
  leBytes 2 tcode ++ leBytes 1 source ++ leBytes 1 flags ++ leBytes 2 t.epoch ++ leBytes 2 aux ++
    leBytes 8 t.views.linNs ++ leBytes 4 (t.views.linFrac / 256) ++ leBytes 4 t.views.todNs ++
    leBytes 8 t.views.todSec ++ leBytes 8 (wrap 64 value) ++ leBytes 4 n ++ leBytes 4 ports

/-- Posts a time event (R342). -/
def State.timeEvent (s : State) (fns : List Nat) (tcode source flags aux : Nat) (value : Int) : State :=
  let t := s.tu
  s.post fns (timeBody t tcode source flags aux value 0)

/-- A capture enters the ring of 1,024, or is dropped (R340). -/
def pushCapture (s : State) (tcode source flags aux : Nat) (value : Int) (ports : Nat) : State :=
  if s.tu.ring.length < 1024 then
    let f := if s.tu.gapNext then setBits flags 1 1 1 else flags
    let c : Capture := ⟨timeBody s.tu tcode source f aux value ports 0⟩
    s.updTu (fun t => { t with ring := t.ring ++ [c], gapNext := false })
  else
    let s := s.updTu (fun t => { t with capOvf := true, capDrop := min (t.capDrop + 1) 0xFFFFFFFF, gapNext := true })
    let due := match s.tu.ovfAt with | some a => decide (a + second ≤ s.now) | none => true
    if due then
      (s.timeEvent [tuOwner s] 0x0223 0 0 0 s.tu.capDrop).updTu (fun t => { t with ovfAt := some s.now })
    else s

/-- A TOUT pin goes active from tick `a` for `w` ticks; pulses that overlap count and become one with the later end (R337). -/
def drivePin (s : State) (pin a w : Nat) : State :=
  if !bit s.tu.pin pin || lostReg s 0x3004 then s
  else
    let l := Tbl.getD s.tu.toutUntil pin []
    let hit := fun (q : Nat × Nat) => decide (a < q.2) && decide (q.1 < a + w)
    let joined := (l.filter hit).foldl (fun x q => (min x.1 q.1, max x.2 q.2)) (a, a + w)
    (if l.any hit then s.count .pulseOverlap 0 1 else s).updTu (fun t =>
      { t with toutUntil := Tbl.put t.toutUntil pin (l.filter (fun q => !hit q) ++ [joined]) })

/-- A TOUT pin is high: TOUT_POL says which level its pulses drive (R321, R337). -/
def toutHigh (s : State) (pin : Nat) : Bool :=
  (Tbl.getD s.tu.toutUntil pin []).any (fun q => decide (q.1 ≤ s.tu.ticks) && decide (s.tu.ticks < q.2)) != bit s.tu.pin (4 + pin)

/-! Counters of time (R375, R523): what has run up to now is counted in whole nanoseconds, the rest stays. -/

/-- The part of an interval that lies between the time counted last and now: nanoseconds, and the time now counted. -/
def settled (s : State) (from_ until_ last : Nat) : Nat × Nat :=
  let a := max from_ last
  let n := (min until_ s.now - a) / 1000
  (n, a + n * 1000)

/-- Time during which transmission (8) or a class was held by pause goes into PAUSED_NS. -/
def settlePaused (s : State) (p cls : Nat) : State :=
  let x := s.port p
  if cls = 8 then
    let (n, t) := x.pause.settle s.now
    if x.pause.loads.isEmpty then s else (s.updPort p (fun x => { x with pause := t })).count .pausedNs p n
  else
    match Tbl.find? x.pfc cls with
    | none => s
    | some y =>
      let (n, t) := y.settle s.now
      (s.updPort p (fun x => { x with pfc := Tbl.put x.pfc cls t })).count .pausedNsCls p n cls

/-- PAUSED_NS of a management port. -/
def settleMgmt (s : State) (g : Nat) : State :=
  match Tbl.find? s.mgmts g with
  | none => s
  | some m =>
    let (n, t) := m.pause.settle s.now
    if m.pause.loads.isEmpty then s else ({ s with mgmts := Tbl.put s.mgmts g { m with pause := t } }).count .pausedNs (65536 + g) n

/-- PWR_RES_NS of the state the device is in, and THROTTLE_NS. -/
def settlePower (s : State) : State :=
  let (n, t) := settled s s.power.since s.now s.power.since
  let s := if s.power.st = 0 then s else ({ s with power := { s.power with since := t } }).count .pwrResNs 0 n s.power.st
  if s.power.throttle then
    let (n, t) := settled s s.power.throttleAt s.now s.power.throttleAt
    ({ s with power := { s.power with throttleAt := t } }).count .throttleNs 0 n
  else s

/-- Every counter of time is brought up to now. -/
def settleAll (s : State) : State :=
  let s := (s.ports.map Prod.fst).foldl (fun s p => (upTo 9).foldl (fun s c => settlePaused s p c) s) s
  settlePower (settleMgmt (settleMgmt s 0) 1)

/-- The statistics counters as TRIGGER line 0 latches them: outside S0 the counters of the gated stages (model contexts
and fold groups) keep the values latched before (R336, R515). -/
def latchCounters (s : State) : State :=
  let s := settleAll s
  let gated := fun (k : Nat) => allCounters.any (fun c => c.spec.code == k / 2 ^ 21 && (c.spec.scope == 5 || c.spec.scope == 6))
  let now := if s.power.st = 0 then s.counters
    else
      let old := (s.tu.latched.getD []).filter (fun p => gated p.1)
      (s.counters.filter (fun p => !gated p.1)).foldl (fun t p => Tbl.put t p.1 p.2) old
  s.updTu (fun t => { t with latched := some now, latchLin := t.views.linNs })

/-- What a firing slot does besides its records (R336); `x` is the telemetry sample a TRIGGER of line 1 takes. -/
def fireEffect (s : State) (c : Slot) (x : Sample) : State :=
  match c.kind with
  | 1 => drivePin s c.pin (s.tu.ticks + 2) c.width
  | 2 => drivePin s c.pin s.tu.ticks c.width
  | 3 =>
    if c.line = 0 then latchCounters s
    else if c.line = 1 then
      { s with power := { s.power with trig := x, trigCount := (s.power.trigCount + 1) % 65536 } }
    else s
  | _ => s

/-- Whole periods to add to a target that is still due, so that it lies ahead of LIN (R334). -/
def catchUp (target period lin : Nat) : Nat :=
  let d := d64 lin target
  if d < 0 then 0 else d.toNat / period + 1

/-- The slot after a firing: freed, or moved on by PERIOD with the catch-up of R334. A PPS slot stays (R338); its
`fired` marks the tick of its last pulse. -/
def slotAfter (s : State) (i : Nat) (c : Slot) : State :=
  if c.kind = 2 then s.updTu (fun t => { t with slots := Tbl.put t.slots i { c with late := false, fired := t.ticks + 1 } })
  else if c.kind = 6 || c.param = 0 || (c.count != 0 && decide (c.count ≤ c.fired + 1)) then
    s.updTu (fun t => { t with slots := Tbl.del t.slots i })
  else
    let tgt := wrap 64 ((c.target : Int) + c.param)
    let k := catchUp tgt c.param s.tu.views.linNs
    let c' := { c with target := wrap 64 ((tgt : Int) + k * c.param), fired := c.fired + 1, late := decide (0 < k),
                       skipped := k }
    s.updTu (fun t => { t with slots := Tbl.put t.slots i c' })

/-- A slot fires: its effect, its records, its next target (R331, R333, R334, R336). -/
def fireSlot (s : State) (i : Nat) (c : Slot) (late : Bool) (x : Sample) : State :=
  let late := late || c.late
  let lateness := d64 s.tu.views.linNs c.target
  let flags := b2n late
  let s := if late then s.count .actLate 0 1 else s
  let s := fireEffect s c x
  let s := if c.kind = 5 then s.timeEvent [tuOwner s] 0x0213 i flags 0 lateness else s
  let s := if c.kind = 4 || c.notify then s.timeEvent [tuOwner s] 0x0210 i flags c.skipped lateness else s
  slotAfter s i c

/-- A slot is cancelled (R335): cause 1 EPOCH, 2 RANGE. -/
def cancelSlot (s : State) (i cause : Nat) : State :=
  ((s.updTu (fun t => { t with slots := Tbl.del t.slots i })).count .actCancelled 0 1).timeEvent
    [tuOwner s] 0x0212 i 0 cause 0

/-- R335 step 2 for one slot: due at the new LIN, PPS apart (a step produces no PPS pulse, R338). STEP slots give
their offset to the caller instead (units of 2^−32 ns). -/
def stepFire (acc : State × Int) (p : Nat × Slot) : State × Int :=
  let c := p.2
  if c.kind = 2 || d64 acc.1.tu.views.linNs c.target < 0 then acc
  else if c.kind = 6 then
    (fireSlot acc.1 p.1 c true acc.1.power.trig, acc.2 + sext 64 c.param * 2 ^ 32)
  else (fireSlot acc.1 p.1 c true acc.1.power.trig, acc.2)

/-- R335: the pending slots at the tick at which a step applies. -/
def afterStep (s : State) (neg : Bool) : State × Int :=
  let s := if neg then (s.tu.slots.filter (fun p => p.2.guard)).foldl (fun a p => cancelSlot a p.1 1) s else s
  let (s, extra) := s.tu.slots.foldl stepFire (s, 0)
  let far := s.tu.slots.filter (fun p => decide (d64 p.2.target s.tu.views.linNs > 2 ^ 39 - 1))
  (far.foldl (fun a p => cancelSlot a p.1 2) s, extra)

/-- Applies a step: both views by the offset (units of 2^−32 ns), EPOCH, STEP_APPLIED, then the slots. STEP slots that
the step makes due apply theirs in turn, each once since they leave the table (R315, R316, R335). -/
def applyStep : Nat → State → Int → State
  | 0, s, _ => s
  | k + 1, s, off =>
    let s := s.updTu (fun t => { t with views := viewsAdd t.views (off * 256),
                                        epoch := if off < 0 then (t.epoch + 1) % 65536 else t.epoch })
    let s := s.timeEvent pfs 0x0220 0 0 0 (off / 2 ^ 32)
    let (s', extra) := afterStep s (decide (off < 0))
    if extra = 0 then s' else applyStep k s' extra

/-- A slot is due to fire now (R331): the PULSE advance is 2 INC. -/
def slotDue (t : Tu) (c : Slot) : Bool :=
  let adv := if c.kind = 1 then (t.views.linFrac + 2 * t.inc) / 2 ^ 40 else 0
  decide (0 ≤ d40 (t.views.linNs + adv) c.target)

/-- A pending slot of a kind, due now: a tick has come since it was written, and LIN has reached TARGET; a PPS slot that has
pulsed goes on (R338). -/
def dueSlot (s : State) (i kind : Nat) : Option Slot :=
  match Tbl.find? s.tu.slots i with
  | some c =>
    if c.kind = kind ∧ tclkRuns s ∧ c.since < s.tu.ticks ∧ (slotDue s.tu c ∨ (kind = 2 ∧ c.fired ≠ 0)) then some c else none
  | none => none

/-- The row of a slot kind that fires by its target. -/
def actionRow (kind i : Nat) (x : Sample) (s : State) : Res :=
  onObj s (okSlot i) (match dueSlot s i kind with | some c => fireSlot s i c false x | none => s)

/-- ACTION_PULSE (R336, R337). -/
def execActionPulse (slot : Nat) (s : State) : Res := actionRow 1 slot s.power.trig s

/-- ACTION_PPS (R338): TOD SEC has just increased by carry from NS, and LIN has reached TARGET. -/
def execActionPps (slot : Nat) (s : State) : Res :=
  onObj s (okSlot slot)
    (match dueSlot s slot 2 with
     | some c =>
       if s.tu.secCarry ∧ c.fired ≠ s.tu.ticks + 1 then fireSlot s slot c false s.power.trig else s
     | none => s)

/-- ACTION_TRIGGER (R336): line 1 takes the telemetry sample of its firing tick. -/
def execActionTrigger (slot : Nat) (sample : Sample) (s : State) : Res := actionRow 3 slot sample s

/-- ACTION_EVENT (R336). -/
def execActionEvent (slot : Nat) (s : State) : Res := actionRow 4 slot s.power.trig s

/-- ACTION_SNAPSHOT (R336). -/
def execActionSnapshot (slot : Nat) (s : State) : Res := actionRow 5 slot s.power.trig s

/-- The STEP slots due at this tick fire; their offsets and `off` are applied as one step (R336, R349; log 141). -/
def stepNow (s : State) (off : Int) : State :=
  let r := (List.range 64).foldl (fun (a : State × Int) i =>
    match dueSlot a.1 i 6 with
    | some c => (fireSlot a.1 i c false a.1.power.trig, a.2 + sext 64 c.param * 2 ^ 32)
    | none => a) (s, off)
  applyStep 65 r.1 r.2

/-- ACTION_STEP (R336, R349): PARAM as a step; a register step armed for this tick is added and applied with it. -/
def execActionStep (slot : Nat) (s : State) : Res :=
  onObj s (okSlot slot)
    (match dueSlot s slot 6 with
     | some c =>
       match s.tu.armed with
       | some (off, 0) => stepNow (s.updTu (fun t => { t with armed := none })) off
       | _ => applyStep 65 (fireSlot s slot c false s.power.trig) (sext 64 c.param * 2 ^ 32)
     | none => s)

/-- PULSE_END (R337): WIDTH ticks have passed and the pin returns to its inactive level. -/
def execPulseEnd (pin : Nat) (s : State) : Res :=
  onObj s (decide (pin < 4))
    (match Tbl.find? s.tu.toutUntil pin with
     | some l =>
       let left := l.filter (fun q => decide (s.tu.ticks < q.2))
       s.updTu (fun t => { t with toutUntil := if left.isEmpty then Tbl.del t.toutUntil pin else Tbl.put t.toutUntil pin left })
     | none => s)

/-- STEP_APPLY (R315, R316, R335, R349): the eighth tick after the arming has come. -/
def execStepApply (s : State) : Res :=
  .next (match s.tu.armed with
    | some (off, 0) => stepNow (s.updTu (fun t => { t with armed := none })) off
    | _ => s)

/-- HOLDOVER_START (R314): HO_MS milliseconds of ticks without an accepted INC write. -/
def execHoldoverStart (s : State) : Res :=
  .next (
    if s.tu.hoMs ≠ 0 ∧ ¬ s.tu.holdover ∧ ¬ lostReg s 0x3008 ∧ s.tu.hoMs * 500000 ≤ s.tu.sinceInc then
      (s.updTu (fun t => { t with holdover := true, hoSeen := true })).timeEvent pfs 0x0221 0 0 0 0
    else s)

/-- TIN_CAPTURE (R339): a selected edge captures both views; one edge per pin and tick. -/
def execTinCapture (pin : Nat) (rising : Bool) (s : State) : Res :=
  onObj s (decide (pin < 4))
    (let sel := bitsOf s.tu.pin (2 * pin + 9) (2 * pin + 8)
     if !tclkRuns s || lostReg s 0x3004 || !bit sel (if rising then 0 else 1) then s
     else if Tbl.find? s.tu.tinTick pin = some s.tu.ticks then s.count .tinLost 0 1
     else
       let s := s.updTu (fun t => { t with tinTick := Tbl.put t.tinTick pin t.ticks })
       pushCapture s 0x0201 pin (if rising then 0 else 4) 0 0 0)

/-- CAPTURE_DELIVER (R340): the oldest capture goes to the owner's event ring while it has room. -/
def execCaptureDeliver (s : State) : Res :=
  .next (match s.tu.ring with
    | c :: t =>
      if s.canWrite (tuOwner s) 2 then
        (s.updTu (fun x => { x with ring := t })).post [tuOwner s]
          (fun n => c.body.take 0x28 ++ leBytes 4 n ++ c.body.drop 0x2C)
      else s
    | [] => s)

/-- The upper word of TU_INC is written: it commits the staged lower word with it (R312 to R314, R319). -/
def incWrite (s : State) (fn value : Nat) : State :=
  if !s.live || !isPf fn then s
  else if !tuWriter s fn then s.updTu (fun t => { t with writeDenied := true })
  else
    let v := value % 65536 * 2 ^ 32 + s.tu.incLow
    if v < 0x010000000000 || 0x030000000000 < v || lostReg s 0x3010 then
      s.updTu (fun t => { t with incRefused := true })
    else
      let was := s.tu.holdover
      let s := s.updTu (fun t => { t with inc := v, sinceInc := 0, holdover := false })
      if was then s.timeEvent pfs 0x0222 0 0 0 0 else s

/-- TU_INC_COMMIT (R312 to R314, R319): the upper word commits the staged lower word with it. -/
def execTuIncCommit (fn value : Nat) (s : State) : Res :=
  onObj s (okFn fn) (incWrite s fn value)

/-- The top word of TU_STEP is written: it arms the step (R315, R317, R319). -/
def stepWrite (s : State) (fn value : Nat) : State :=
  if !s.live || !isPf fn then s
  else if !tuWriter s fn then s.updTu (fun t => { t with writeDenied := true })
  else if s.tu.armed.isSome then s.updTu (fun t => { t with stepRefused := true })
  else
    let off := sext 96 (value % 2 ^ 32 * 2 ^ 64 + s.tu.stepMid * 2 ^ 32 + s.tu.stepLow)
    s.updTu (fun t => { t with armed := some (off, 8) })

/-- TU_STEP_ARM (R315, R317, R319): the top word arms the step. -/
def execTuStepArm (fn value : Nat) (s : State) : Res :=
  onObj s (okFn fn) (stepWrite s fn value)

/-- The 32 bytes of TU_SNAP (R327). -/
def snapBytes (t : Tu) : Bytes :=
  leBytes 8 t.views.linNs ++ leBytes 4 (t.views.linFrac / 256) ++ leBytes 4 t.views.todNs ++
    leBytes 6 t.views.todSec ++ zeros 2 ++ leBytes 4 (t.views.todFrac / 256) ++ leBytes 2 t.epoch ++
    leBytes 1 (b2n t.holdover) ++ zeros 1

/-- TU_SNAP_LATCH (R327, R526): the read of the first word latches the snapshot for the reader and returns it. -/
def execTuSnapLatch (fn : Nat) (s : State) : Res :=
  onObj s (okFn fn)
    (if !s.live || !isPf fn then s.emit (.bar fn (zeros 4))
     else
       let b := snapBytes s.tu
       (s.updFn fn (fun x => { x with snap := b })).emit (.bar fn (b.take 4)))

/-- The fields of a slot record that are not legal, in rising offset (R329, R330). -/
def slotBad (b : Bytes) : Option Nat :=
  let kind := bitsOf (byteAt b 0x11) 3 0
  let pin := bitsOf (byteAt b 0x11) 5 4
  let param := le b 8 8
  let width := le b 0x14 2
  let periodic := (kind == 1 || kind == 3 || kind == 4 || kind == 5) && param != 0
  firstBad [
    (0x08, match kind with
      | 1 | 3 | 4 | 5 => param == 0 || (decide (max 100 (4 * width) ≤ param) && decide (param ≤ 2 ^ 39 - 1))
      | 2 => param == 0
      | 6 => param != 0
      | _ => true),
    (0x10, decide (byteAt b 0x10 ≤ 55)),
    (0x11, decide (kind ≤ 6) && bitsOf (byteAt b 0x11) 7 6 == 0 && (kind == 1 || kind == 2 || pin == 0)),
    (0x12, bitsOf (byteAt b 0x12) 7 3 == 0),
    (0x13, if kind = 3 then decide (byteAt b 0x13 ≤ 1) else byteAt b 0x13 == 0),
    (0x14, if kind = 1 ∨ kind = 2 then width != 0 else width == 0),
    (0x16, periodic || le b 0x16 2 == 0),
    (0x18, allZero (slice b 0x18 8))]

/-- The slot a record describes. -/
def slotOf (b : Bytes) (late : Bool) : Slot :=
  { target := le b 0 8, param := le b 8 8, kind := bitsOf (byteAt b 0x11) 3 0, pin := bitsOf (byteAt b 0x11) 5 4,
    skipIfLate := bit (byteAt b 0x12) 0, guard := bit (byteAt b 0x12) 1, notify := bit (byteAt b 0x12) 2,
    line := byteAt b 0x13, width := le b 0x14 2, count := le b 0x16 2, late := late }

/-- A slot write at its evaluation tick (R331, R332). -/
def writeSlot (s : State) (n : Nat) (b : Bytes) : State :=
  let i := byteAt b 0x10
  let c := slotOf b false
  let lin := s.tu.views.linNs
  let d := d64 c.target lin
  if c.kind = 0 then (s.updTu (fun t => { t with slots := Tbl.del t.slots i })).finish n stOk 0 lin
  else if d < -(2 ^ 39) || d > 2 ^ 39 - 1 then s.finish n stRange 0
  else if d ≤ 0 ∧ c.skipIfLate then
    let s := (s.updTu (fun t => { t with slots := Tbl.del t.slots i })).count .actSkipped 0 1
    (s.timeEvent [tuOwner s] 0x0211 i 0 0 (-d)).finish n stOk 0 lin
  else (s.updTu (fun t => { t with slots := Tbl.put t.slots i { slotOf b (decide (d ≤ 0)) with since := t.ticks } })).finish n stOk 0 lin

/-- TIME_ACTION (R319, R328 to R332): from the owner's PF only. -/
def execTimeAction (fn : Nat) (arg : Dma) (s : State) : Res :=
  onObj s (okFn fn)
    (match takeArg s fn 0x0040 (fn == tuOwner s) (· == 32) arg with
     | .inl s => s
     | .inr (n, _, b) =>
       match slotBad b with
       | some o => s.finish n stInvalidArg (argAt o)
       | none => startOn s fn n (.slot (byteAt b 0x10)) (fun s => writeSlot s n b))

end Sys2Proof.Machine
end

