-- ==== Sys2Proof/Machine/Egress.lean ====
section
/-! DEFINITION. The egress side of the ports: rates, the shared buffer, generated pause, the queues and their service, PTP
stamping, and frames that end early (R268, R287, R343 to R347, R351, R357, R362 to R368, R384 to R391). -/

namespace Sys2Proof.Machine

/-! Modes and rates (R351). -/

/-- MODE of the port a sub-port belongs to. -/
def portMode (s : State) (p : Nat) : Nat := (s.port (p / 8 * 8)).cfg.mode
/-- The sub-port exists in its port's mode. -/
def portExists (s : State) (p : Nat) : Bool := okPort p && decide (p % 8 < 2 ^ portMode s p)
/-- Rate in Gb/s. -/
def portRate (s : State) (p : Nat) : Nat := 1600 / 2 ^ portMode s p
/-- Picoseconds that `n` bytes take at the port's rate. -/
def bytesPs (s : State) (p n : Nat) : Nat := n * 8000 / portRate s p
/-- Length on the wire without preamble and gap: at least 64 B (R357). -/
def wireLen (b : Bytes) : Nat := max 64 (b.length + 4)
/-- Picoseconds of one pause quantum, 512 bit times (R361). -/
def quantumPs (s : State) (p : Nat) : Nat := 512000 / portRate s p
/-- The port is up (R359). -/
def portUp (x : Port) : Bool := x.st == .blocking || x.st == .opened || x.st == .forwarding

/-! Shared buffer (R388 to R391). -/

/-- 256 B cells of a frame. -/
def cellsOf (f : TxFrame) : Nat := ceilDiv (f.bytes.length + 4) 256
/-- Base die of a port. -/
def dieOf (p : Nat) : Nat := if p < 512 then 0 else 1
/-- A frame of the pool: forwarded and control-plane frames (R388). -/
def poolKind (f : TxFrame) : Bool := f.kind == .forwarded || f.kind == .control
/-- Frames a port holds that take pool or headroom cells. -/
def heldFrames (x : Port) : List TxFrame :=
  ((x.classQ.flatMap Prod.snd) ++ (match x.cur with | some (f, _) => [f] | none => [])).filter poolKind
/-- Cells of an egress queue. -/
def queueCells (x : Port) (c : Nat) : Nat := (Tbl.getD x.classQ c []).foldl (fun a f => a + cellsOf f) 0
/-- A class is lossless on a port: its bit stands in PFC_CLASSES. -/
def lossless (x : Port) (c : Nat) : Bool := bit x.cfg.pfcClasses c
/-- Accumulator slots a block of a format needs, and its capacity (R178). -/
def fmtSlots (c : Nat) : Nat :=
  match c with
  | 1 => 1 | 2 => 2 | 3 => 4 | 4 => 4 | 0x10 => 4 | 0x11 => 4 | 0x12 => 6 | 0x13 => 6 | 0x14 => 8 | _ => 0
/-- Elements of a block of a format (R178). -/
def fmtCap (c : Nat) : Nat :=
  match c with
  | 1 => 1024 | 2 => 2048 | 3 => 4096 | 4 => 4096 | 0x10 => 3968 | 0x11 => 3968 | 0x12 => 5216 | 0x13 => 5216
  | 0x14 => 7680 | _ => 0
/-- Held-store bytes a group reserves (R207). -/
def heldReserve (g : Group) : Nat :=
  g.window * (g.members.foldl (fun a m => a + (if m.2.child then ceilDiv (fmtCap g.inFmt) 1024 else 1)) 0 + 1) * 4160
/-- Its part on a base die, in proportion to the accumulating blocks above it (R202, log 18). -/
def heldOnDie (g : Group) (die : Nat) : Nat :=
  let n := g.accBlocks.length
  let k := (g.accBlocks.filter (fun b => b / 32 == die)).length
  if n = 0 then heldReserve g / 2 else ceilDiv (heldReserve g * k) n
/-- Headroom cells of the lossless pairs of a die's ports. -/
def headroomCells (s : State) (die : Nat) : Nat :=
  (s.ports.filter (fun p => dieOf p.1 == die)).foldl (fun a p =>
    (upTo 8).foldl (fun a c => if lossless p.2 c then a + p.2.cfg.headroom.getD c 512 else a) a) 0
/-- Size of a base die's pool in cells; negative when the parts do not fit. -/
def poolCells (s : State) (die : Nat) : Int :=
  let held := s.groups.foldl (fun a g => a + heldOnDie g.2 die) 0
  (((128 - s.place.qholdNow) * 4096 : Nat) : Int) - (ceilDiv held 256 : Nat) - (headroomCells s die : Nat)
/-- Pool cells in use on a die. -/
def poolUsed (s : State) (die : Nat) : Nat :=
  (s.ports.filter (fun p => dieOf p.1 == die)).foldl (fun a p =>
    (heldFrames p.2).foldl (fun a f => if f.inHeadroom then a else a + cellsOf f) a) 0
/-- A group's class. -/
def groupTc (s : State) (g : Nat) : Nat := match Tbl.find? s.groups g with | some y => y.tc | none => 0
/-- Cells of the fold frames above RES that wait in a class of an ingress port (R265). -/
def foldCells (s : State) (p c : Nat) : Nat :=
  s.foldIn.foldl (fun a w => if w.port = p ∧ groupTc s w.group = c then a + w.cells else a) 0
/-- Cells charged to an ingress (port, class). -/
def ingressCells (s : State) (p c : Nat) : Nat :=
  foldCells s p c + s.ports.foldl (fun a q => (heldFrames q.2).foldl (fun a f => if f.ingress = some (p, c) then a + cellsOf f else a) a) 0
/-- Headroom cells in use by an ingress (port, class). -/
def headroomUsed (s : State) (p c : Nat) : Nat :=
  s.ports.foldl (fun a q => (heldFrames q.2).foldl (fun a f =>
    if f.ingress = some (p, c) ∧ f.inHeadroom = true then a + cellsOf f else a) a) 0

/-! Generated pause (R365 to R367, R391, R208). -/

/-- A PAUSE (class 8) or PFC frame with a time (R366). -/
def pauseBytes (src cls time : Nat) : Bytes :=
  beBytes 6 0x0180C2000001 ++ beBytes 6 src ++ beBytes 2 0x8808 ++
    (if cls = 8 then beBytes 2 0x0001 ++ beBytes 2 time
     else beBytes 2 0x0101 ++ beBytes 2 (2 ^ cls) ++ (upTo 8).flatMap (fun c => beBytes 2 (if c = cls then time else 0)))

/-- Queues a generated pause frame after those decided before it; a time 0 takes the place of an XOFF of its class that has not
left (R367). -/
def queuePause (s : State) (p cls : Nat) (xoff : Bool) : State :=
  let x := s.port p
  if x.cfg.macAddr = 0 || !portUp x then s
  else
    let k : TxKind := .pause (if cls = 8 then none else some cls) xoff
    let waits : TxKind := .pause (if cls = 8 then none else some cls) true
    let f : TxFrame := { bytes := pauseBytes x.cfg.macAddr cls (if xoff then x.cfg.pauseQuanta else 0), kind := k }
    s.setPort p { x with pauseQ := (if xoff then x.pauseQ else x.pauseQ.filter (fun g => g.kind != waits)) ++ [f] }

/-- The condition for XOFF of a class (8: the port under PAUSE) begins or ends (R366, R391, log 17). -/
def xoffWanted (s : State) (p cls : Nat) (now : Bool) : Bool :=
  let x := s.port p
  let full := fun (c : Nat) =>
    let o := ingressCells s p c
    let th := x.cfg.xoffTh.getD c 1024
    if now then decide (th ≤ o + x.cfg.xonDelta.getD c 256) else decide (th ≤ o)
  if cls = 8 then x.cfg.fcMode == 1 && (upTo 8).any full
  else x.cfg.fcMode == 2 && lossless x cls && (full cls || x.spillXoff.contains cls)

/-- Brings the XOFF conditions of a port up to date, sending XOFF or time 0 where one changes. -/
def pauseUpdate (s : State) (p : Nat) : State :=
  (upTo 9).foldl (fun s c =>
    let now := Tbl.has (s.port p).xoff c
    let want := xoffWanted s p c now
    if want && !now then
      queuePause (s.updPort p (fun x => { x with xoff := Tbl.put x.xoff c s.now })) p c true
    else if !want && now then
      queuePause (s.updPort p (fun x => { x with xoff := Tbl.del x.xoff c })) p c false
    else s) s

/-- PAUSE_REFRESH (R366): every PAUSE_QUANTA / 2 quanta while the condition holds. -/
def execPauseRefresh (port cls : Nat) (s : State) : Res :=
  onObj s (okPort port && decide (cls < 9))
    (let x := s.port port
     match Tbl.find? x.xoff cls with
     | none => s
     | some t =>
       if s.now < t + x.cfg.pauseQuanta * quantumPs s port / 2 then s
       else queuePause (s.updPort port (fun x => { x with xoff := Tbl.put x.xoff cls s.now })) port cls true)

/-! Obeyed pause (R362 to R365, R375). -/

/-- The PAUSE timer runs. -/
def pausedNow (s : State) (x : Port) : Bool := x.pause.runs s.now
/-- The timer of a class runs. -/
def classPaused (s : State) (x : Port) (c : Nat) : Bool := (Tbl.getD x.pfc c {}).runs s.now

/-! PTP (R343 to R347). -/

/-- A PTP event message: offset of its header, and its IP header if it is carried over UDP (R343). -/
def ptpEvent (tpids : List Nat) (f : Bytes) : Option (Nat × Option Ip) :=
  let k := parsePkt tpids f
  let at_ := fun (o : Nat) => byteAt f (o + 1) % 16 == 2 && decide (byteAt f o % 16 < 4) && decide (o + 34 ≤ f.length)
  if k.etype = 0x88F7 then (if at_ k.l3 then some (k.l3, none) else none)
  else
    match k.ip with
    | some ip => if ip.proto = 17 ∧ udpDst f ip = 319 ∧ at_ (ip.l4 + 8) = true then some (ip.l4 + 8, some ip) else none
    | none => none

/-- Replaces bytes at an offset. -/
def patch (f : Bytes) (off : Nat) (b : Bytes) : Bytes := f.take off ++ b ++ f.drop (off + b.length)

/-- A correctionField with `d` (2^−16 ns) added, saturating (R347). -/
def addCorrection (v : Nat) (d : Int) : Nat :=
  let r := sext 64 v + d
  if v = 0x7FFFFFFFFFFFFFFF ∨ 2 ^ 63 - 1 < r then 0x7FFFFFFFFFFFFFFF else wrap 64 r

/-- A changed PTP frame's UDP checksum (R345): 0 over IPv4, compensated in the trailer over IPv6; none where an IPv6 frame
has no trailer. -/
def ptpFix (old new : Bytes) (h : Nat) (ip : Option Ip) : Option Bytes :=
  match ip with
  | none => some new
  | some p =>
    if !p.v6 then some (patch new (p.l4 + 6) (beBytes 2 0))
    else
      let n := udpLen old p - 8
      if n ≤ be old (h + 2) 2 ∨ n < 2 then none
      else
        let t := p.l4 + 8 + n - 2
        let rest := pseudoHdr true p.src p.dst (udpLen old p)
        let z := patch new t (beBytes 2 0)
        let odd := (t - p.l4) % 2 == 1
        let sum := onesSum (rest ++ slice z p.l4 (udpLen old p))
        let v := 0xFFFF - sum
        some (patch new t (beBytes 2 (if odd then v % 256 * 256 + v / 256 else v)))

/-- RX_CORR of a rate, in picoseconds (R353). -/
def rxCorr (rate : Nat) : Nat := if rate = 200 then 96151 else if rate = 1600 then 57751 else 70551
/-- TX_CORR (R353). -/
def txCorr : Nat := 29694

/-- A time in picoseconds in units of 2^−40 ns. -/
def psFrac (ps : Int) : Int := ps * 2 ^ 40 / 1000

/-- Views at the ingress plane of a frame that arrives now (R354). -/
def ingressViews (s : State) (p : Nat) : Views :=
  viewsAdd s.tu.views (-(psFrac (rxCorr (portRate s p) + (s.port p).cfg.rxTrim)))
/-- Views at the egress plane of a frame that starts now; the manual gives a management port (1,024) no correction
(log 21). -/
def egressViews (s : State) (p : Nat) : Views := if 1024 ≤ p then s.tu.views else viewsAdd s.tu.views (psFrac (txCorr + (s.port p).cfg.txTrim))
/-- Free count in 2^−16 ns after a shift in picoseconds. -/
def freeAt (s : State) (ps : Int) : Nat := wrap 80 (((s.tu.free : Int) + psFrac ps) / 2 ^ 24)

/-- What a frame becomes as it starts on a port (R344, R347): stamped, or with its residence added. -/
def stampTx (s : State) (p : Nat) (f : TxFrame) : State × TxFrame :=
  let x := s.port p
  let ev := ptpEvent s.dev.tpid f.bytes
  if f.tsOrigin then
    match ev with
    | none => (s.count .ptpNoadj 0 1, f)
    | some (h, ip) =>
      let v := egressViews s p
      let b := patch f.bytes (h + 8) (beBytes 8 (addCorrection (be f.bytes (h + 8) 8) (v.todFrac / 2 ^ 24 : Nat)))
      let b := (patch b (h + 34) (beBytes 6 v.todSec ++ beBytes 4 v.todNs)).take f.bytes.length
      match ptpFix f.bytes b h ip with
      | some b => (s, { f with bytes := b })
      | none => (s.count .ptpNoadj 0 1, f)
  else
    match f.residenceFrom, ev with
    | some i, some (h, ip) =>
      if !x.cfg.ptpTc then (s, f)
      else
        let d := sext 80 (wrap 80 ((freeAt s (txCorr + x.cfg.txTrim) : Int) - i.free))
        let b := patch f.bytes (h + 8) (beBytes 8 (addCorrection (be f.bytes (h + 8) 8) d))
        match ptpFix f.bytes b h ip with
        | none => (s.count .ptpNoadj 0 1, f)
        | some b =>
          let s := s.count .ptpTcUpdated 0 1
          let ports := i.port / 8 + i.port % 8 * 2 ^ 8 + p / 8 * 2 ^ 16 + p % 8 * 2 ^ 24
          let cap := fun (s : State) => pushCapture s 0x0202 0 (byteAt b h % 16 * 16) (be b (h + 30) 2)
            (egressViews s p).linNs ports
          if !x.cfg.ptpCap then (s, { f with bytes := b })
          else if s.tu.ring.length < 1024 then
            let w := s.tu.views
            ((cap (s.updTu (fun t => { t with views := i.views }))).updTu (fun t => { t with views := w }),
             { f with bytes := b })
          else (cap s, { f with bytes := b })
    | _, _ => (s, f)

/-! Ending a frame (R59, R61, R64, R286, R289). -/

/-- A request whose replies and verdict are settled leaves the device. -/
def retire (s : State) (r : Nat) : State :=
  match s.req r with
  | some q =>
    if q.allBuilt && q.framesOut == 0 && q.verdict.isSome && q.retractAt.isNone then { s with reqs := Tbl.del s.reqs r } else s
  | none => s

/-- The verdict a frame's FCS waits for: that of the request it answers. -/
def frameVerdict (s : State) (f : TxFrame) : Option Bool :=
  match f.kind with
  | .reply r => match s.req r with | some q => q.verdict | none => some true
  | _ => some true

/-- The FCS waits for a verdict that is not there yet (TAIL_GATED, R59). -/
def awaitsVerdict (s : State) (f : TxFrame) : Bool := f.gate.isSome && (frameVerdict s f).isNone

/-- A reply frame has left: its records have ended, the one that stands for missing queries too (R44); with the last frame
the held granules free (R289). -/
def replyLeft (s : State) (r : Nat) (recs : List Nat) (good : Bool) : State :=
  let s := s.updReq r (fun q =>
    { q with framesOut := q.framesOut - 1,
             missingEnded := q.missingEnded || (good && q.missing && recs.contains q.recs.length),
             recs := recs.foldl (fun l i => updAt l i (fun y => { y with ended := y.ended || good })) q.recs })
  let s := match s.req r with
    | some q => if q.allBuilt && q.framesOut == 0 then s.freeHold r else s
    | none => s
  retire s r

/-- Bytes to a port's queue statistics. -/
def countTx (s : State) (p : Nat) (f : TxFrame) (good : Bool) : State :=
  let s := if good then s.count .txOk p 1 else s.count .stumpTx 0 1
  match f.kind with
  | .pause none _ => s.count .txPause p 1
  | .pause (some c) _ => s.count .txPfc p 1 c
  | _ => s

/-- The frame in transmission ends with its FCS, good or inverted. -/
def endFrame (s : State) (p : Nat) (f : TxFrame) : State :=
  let good := !f.bad && frameVerdict s f != some false
  let s := s.updPort p (fun x => { x with cur := none })
  let s := countTx (s.emit (.frame p (withFcs good f.bytes))) p f good
  let s := match f.kind with
    | .reply r => replyLeft s r f.recs good
    | .retract r => retire (s.updReq r (fun q => { q with framesOut := q.framesOut - 1 })) r
    | _ => s
  match f.ingress with
  | some (i, _) => pauseUpdate s i
  | none => s

/-! Service (R268, R359, R384 to R386). -/

/-- A kind of frame may start in a port's state (R359). -/
def mayStart (st : PortSt) (k : TxKind) : Bool :=
  match st, k with
  | .forwarding, _ => true
  | .opened, .forwarded => true
  | .opened, .control => true
  | .opened, .hello => true
  | .opened, .pause .. => true
  | .blocking, .control => true
  | .blocking, .hello => true
  | .blocking, .pause .. => true
  | _, _ => false

/-- Token bucket sizes: replies 2 × MAX_FRAME, a group two frames of 4,202 B (R384, R385). -/
def replyBucket (x : Port) : Nat := 2 * x.cfg.maxFrame * 800000
def groupBucket : Nat := 2 * 4202 * 8000

/-- Fills the token buckets up to now. -/
def fillTokens (s : State) (p : Nat) : State :=
  let dt := s.now - (s.port p).tokTime
  let rate := portRate s p
  s.updPort p (fun x =>
    { x with tokTime := s.now, replySpent := x.replySpent - dt * rate * x.cfg.replyShare,
             groupSpent := (Tbl.mapVals x.groupSpent (fun g v =>
               v - dt * (match Tbl.find? s.groups g with
                 | some y => (Tbl.getD y.res p (0, 0)).1
                 | none => 0))).filter (fun q => q.2 != 0) })

/-- The first frame of a list that may start, and the rest. -/
def takeFirst (ok : TxFrame → Bool) : List TxFrame → Option (TxFrame × List TxFrame)
  | [] => none
  | f :: t =>
    if ok f then some (f, t)
    else match takeFirst ok t with | some (g, r) => some (g, f :: r) | none => none

/-- The request whose reply or RETRACT a frame is. -/
def TxKind.request : TxKind → Option Nat
  | .reply r => some r
  | .retract r => some r
  | _ => none

/-- No reply or RETRACT of the frame's flow that was released before it still waits or is in transmission on another port
(R50). -/
def flowTurn (s : State) (p : Nat) (f : TxFrame) : Bool :=
  match f.kind.request.bind s.req with
  | none => true
  | some q =>
    s.ports.all (fun x => x.1 == p || (x.2.replyQ ++ (match x.2.cur with | some (g, _) => [g] | none => [])).all (fun g =>
      decide (f.relNo ≤ g.relNo) || (match g.kind.request.bind s.req with | some o => !o.sameFlow q | none => true)))

/-- A gated reply may start (R59): its verdict is known, or will be by the time every byte before its FCS has been sent. -/
def gateOpen (s : State) (p : Nat) (f : TxFrame) : Bool :=
  match f.gate.bind s.req with
  | some q => q.verdict.isSome || decide (q.verdictAt ≤ s.now + bytesPs s p (wireLen f.bytes - 4))
  | none => true

/-- A frame may start on a port now: by the port's state, by its flow's order and by its commit mode. -/
def frameOk (s : State) (p : Nat) (f : TxFrame) : Bool :=
  mayStart (s.port p).st f.kind && flowTurn s p f && gateOpen s p f

/-- Bytes a frame spends: with preamble and gap (R385 counts 4,202 B for a fold frame). -/
def spendBytes (f : TxFrame) : Nat := wireLen f.bytes + 20

/-- A group's reservation in the transmit direction of a port, in Gb/s (R207). -/
def groupRes (s : State) (g p : Nat) : Nat := match Tbl.find? s.groups g with | some y => (Tbl.getD y.res p (0, 0)).1 | none => 0

/-- The next fold group in round robin with credit (a group without a reservation on the port has none, R268) and a frame that may start (R385). -/
def pickGroup (s : State) (p : Nat) (x : Port) (credit : Bool) (cls : Option Nat) : Option (Nat × TxFrame × List TxFrame) :=
  let ks := x.groupQ.filter (fun q => (takeFirst (frameOk s p) q.2).isSome && !classPaused s x (groupTc s q.1) &&
    (match cls with | some c => groupTc s q.1 == c | none => true) &&
    (credit == (decide (0 < groupRes s q.1 p) && decide (Tbl.getD x.groupSpent q.1 0 < groupBucket))))
  let ord := ks.filter (fun q => decide (x.rrGroup < q.1)) ++ ks.filter (fun q => !decide (x.rrGroup < q.1))
  match ord with
  | (g, l) :: _ => match takeFirst (frameOk s p) l with | some (f, r) => some (g, f, r) | none => none
  | [] => none

/-- The reply queue has no credit (R384). -/
def replyBroke (x : Port) : Bool := decide (replyBucket x ≤ x.replySpent)

/-- What the class stage would send for a class: the reply head without credit, a queued frame, a group's frame beyond its
credit (R384 to R386, log 19). The port after it, and the frame. -/
def classHead (s : State) (p : Nat) (x : Port) (c : Nat) : Option (TxFrame × Port × Nat) :=
  if classPaused s x c then none
  else
    match (if replyBroke x && x.cfg.replyTc == c then takeFirst (frameOk s p) x.replyQ else none) with
    | some (f, r) => some (f, { x with replyQ := r }, 1)
    | none =>
      match takeFirst (frameOk s p) (Tbl.getD x.classQ c []) with
      | some (f, r) => some (f, { x with classQ := Tbl.put x.classQ c r }, 0)
      | none =>
        match pickGroup s p x false (some c) with
        | some (g, f, r) => some (f, { x with groupQ := Tbl.put x.groupQ g r }, 2)
        | none => none

/-- Deficit weighted round robin (R386): the frame of the first class whose deficit covers it, adding a quantum at each
visit. The last component: 1 a reply beyond its share. -/
def dwrr (s : State) (p : Nat) : Nat → Port → Option (TxFrame × Port × Nat)
  | 0, _ => none
  | n + 1, x =>
    let c := x.rrClass
    let next := (c + 1) % 8
    match classHead s p x c with
    | some (f, y, k) =>
      let d := Tbl.getD x.deficit c 0
      if spendBytes f ≤ d then some (f, { y with deficit := Tbl.put y.deficit c (d - spendBytes f) }, k)
      else
        let e := Tbl.getD x.deficit next 0
        dwrr s p n { x with rrClass := next, deficit := Tbl.put x.deficit next (e + x.cfg.weight.getD next 8 * 1024) }
    | none =>
      let x := if classPaused s x c then x else { x with deficit := Tbl.del x.deficit c }
      let e := Tbl.getD x.deficit next 0
      dwrr s p n { x with rrClass := next, deficit := Tbl.put x.deficit next (e + x.cfg.weight.getD next 8 * 1024) }

/-- The next frame by R268, R367 and R384 to R386: the frame, the port without it, and how it counts: 1 a reply beyond its
share, 3 from a reservation. -/
def pickFrame (s : State) (p : Nat) (x : Port) : Option (TxFrame × Port × Nat) :=
  match takeFirst (frameOk s p) x.pauseQ with
  | some (f, r) => some (f, { x with pauseQ := r }, 9)
  | none =>
    if pausedNow s x then none
    else
      match (if replyBroke x || classPaused s x x.cfg.replyTc then none else takeFirst (frameOk s p) x.replyQ) with
      | some (f, r) => some (f, { x with replyQ := r, replySpent := x.replySpent + spendBytes f * 800000 }, 8)
      | none =>
        match pickGroup s p x true none with
        | some (g, f, r) =>
          some (f, { x with groupQ := Tbl.put x.groupQ g r, rrGroup := g,
                            groupSpent := Tbl.put x.groupSpent g (Tbl.getD x.groupSpent g 0 + spendBytes f * 8000) }, 3)
        | none => dwrr s p 120 x

/-- A frame starts on a port (R357). -/
def startFrame (s : State) (p : Nat) (f : TxFrame) (how : Nat) : State :=
  let n := wireLen f.bytes
  let s := if how = 1 then s.count .replyOverShare p n else s
  let s := if how = 3 then s.count .resBytes p n else s
  let s := if how = 9 || how = 8 then s else s.count .txBytes p n (if how = 1 then (s.port p).cfg.replyTc else f.cls)
  let (s, f) := stampTx s p f
  s.updPort p (fun x => { x with cur := some (f, s.now + bytesPs s p (n + 20)) })

/-- The port may start frames now: it exists, the device is not fenced, no remote fault (R358). -/
def txAlive (s : State) (p : Nat) : Bool :=
  portExists s p && !s.power.fenced && portUp (s.port p) && !(s.port p).remoteFault

/-- The frame in transmission, if its time is over and its verdict known, ends. -/
def settleTx (s : State) (p : Nat) : State :=
  match (s.port p).cur with
  | some (f, e) => if e ≤ s.now ∧ awaitsVerdict s f = false then endFrame s p f else s
  | none => s

/-- EGRESS_TRANSMIT (R268): the frame in transmission ends when its time is over and its verdict known, and the next
starts. -/
def execEgressTransmit (port : Nat) (s : State) : Res :=
  onObj s (okPort port)
    (let s := settleTx s port
     if (s.port port).cur.isSome || !txAlive s port then s
     else
       let s := fillTokens s port
       match pickFrame s port (s.port port) with
       | none => s
       | some (f, x, how) => startFrame (s.setPort port x) port f how)

end Sys2Proof.Machine
end

