-- ==== Sys2Proof/Machine/FoldMath.lean ====
section
/-! DEFINITION. The numbers of fold: the Fold header and TBC, payload elements, BMAX, exact accumulation, the one rounding
and the check stage (R176 to R182, R188 to R201). -/

namespace Sys2Proof.Machine

/-! The Fold header (R176). -/

def fTy (p : Bytes) : Nat := byteAt p 0 % 16
def fReplay (p : Bytes) : Bool := bit (byteAt p 1) 7
def fSub (p : Bytes) : Nat := byteAt p 1 / 16 % 8
def fGroup (p : Bytes) : Nat := be p 2 2 / 16
def fMember (p : Bytes) : Nat := be p 4 2 / 64
def fFmt (p : Bytes) : Nat := be p 4 2 % 64
def fEcount (p : Bytes) : Nat := be p 6 2
def fStep (p : Bytes) : Nat := be p 8 4
def fBlock (p : Bytes) : Nat := be p 12 4
def fBmax (p : Bytes) : Nat := be p 16 2
def fGen (p : Bytes) : Nat := be p 18 2
def fArg (p : Bytes) : Nat := be p 20 4

/-- What a Fold header names; the rest is 0. -/
structure FHdr where
  ty : Nat
  group : Nat
  member : Nat := 0
  fmt : Nat := 0
  ecount : Nat := 0
  step : Nat := 0
  block : Nat := 0
  sub : Nat := 0
  bmax : Nat := 0
  gen : Nat := 0
  arg : Nat := 0
  deriving DecidableEq, Repr, Inhabited

/-- The 32 header bytes with REPLAY and RANGE 0. -/
def FHdr.bytes (h : FHdr) : Bytes :=
  beBytes 1 (0x10 + h.ty) ++ beBytes 1 (h.sub * 16) ++ beBytes 2 (h.group * 16) ++ beBytes 2 (h.member * 64 + h.fmt) ++
    beBytes 2 h.ecount ++ beBytes 4 h.step ++ beBytes 4 h.block ++ beBytes 2 h.bmax ++ beBytes 2 h.gen ++ beBytes 4 h.arg ++
    zeros 8

/-- A payload with REPLAY and RANGE set as given (R181: they do not change its TBC). -/
def withMarks (replay range : Bool) (p : Bytes) : Bytes :=
  p.take 1 ++ [BitVec.ofNat 8 (setBits (setBits (byteAt p 1) 7 7 (b2n replay)) 3 3 (b2n range))] ++ p.drop 2

/-- TBC of a header and body (R181). -/
def tbcOf (b : Bytes) : Bytes := beBytes 8 (tbc (withMarks false false b)).toNat
/-- A UDP payload with its TBC, good or stomped (R182). -/
def withTbc (good : Bool) (b : Bytes) : Bytes :=
  b ++ (if good then tbcOf b else (tbcOf b).map (fun x => x ^^^ 0xFF#8))
/-- The TBC of a UDP payload verifies. -/
def tbcOk (p : Bytes) : Bool := p.drop (p.length - 8) == tbcOf (p.take (p.length - 8))

/-- UDP payload length of a type (R177); 0 for an illegal type. -/
def foldLen (ty : Nat) : Nat :=
  match ty with
  | 1 => 4136 | 2 => 4136 | 3 => 4136 | 4 => 40 | 5 => 104 | 6 => 40 | 7 => 72 | _ => 0

/-! Payload elements (R179, R188). -/

/-- Bits of an element. -/
def foldBits (c : Nat) : Nat :=
  match c with
  | 1 => 32 | 2 => 16 | 0x12 => 6 | 0x13 => 6 | 0x14 => 4 | _ => 8

/-- Scale bytes of an MX payload, and the offset P of its elements. -/
def mxScales (c : Nat) : Nat := fmtCap c / 32
def mxBase (c : Nat) : Nat := (mxScales c + 3) / 4 * 4

/-- `w` bits from bit position `k` of a byte string, most significant first. -/
def msbBits (b : Bytes) (k w : Nat) : Nat :=
  be b (k / 8) 5 / 2 ^ (40 - k % 8 - w) % 2 ^ w

/-- A finite value of 2^128 or more counts as an infinity (R188); the second answer says so. -/
def capBig (v : FV) : FV × Bool :=
  match v with
  | .fin n m e => if m != 0 && decide (128 ≤ (Nat.log2 m : Int) + e) then (.inf n, true) else (v, false)
  | _ => (v, false)

/-- Element `i` of a payload body, and whether it counts in FOLD_RANGE_IN. -/
def foldElem (c : Nat) (b : Bytes) (i : Nat) : FV × Bool :=
  if isMx c then
    let x := byteAt b (i / 32)
    let v := (fmtOf c).decode (msbBits (b ++ zeros 5) (8 * mxBase c + i * foldBits c) (foldBits c))
    if x = 0xFF then (.nan false, false) else capBig (v.scale ((x : Int) - 127))
  else ((fmtOf c).decode (be b (i * (foldBits c / 8)) (foldBits c / 8)), false)

/-- The first `n` elements of a body. -/
def foldElems (c : Nat) (b : Bytes) (n : Nat) : List (FV × Bool) := (upTo n).map (foldElem c b)

/-- BMAX of some elements (R176). -/
def bmaxOf (l : List FV) : Nat :=
  if l.any (fun v => match v with | .fin .. => false | _ => true) then 0x7FFF
  else
    match l.foldl (fun (a : Option Int) v => match a, v.topExp with
        | none, x => x
        | a, none => a
        | some x, some y => some (max x y)) none with
    | none => 0x8000
    | some e => wrap 16 e

/-- The body of an output block in a format (R178, R179, R193): E4M3 and MX saturate; an infinity or NaN of the sum is
NaN 0x7F in E4M3 and scale byte 0xFF in MX; NaN is 0x7F in E5M2. -/
def foldBody (c : Nat) (l : List FV) : Bytes :=
  let f := fmtOf c
  padTo 4096 (
    if isMx c then
      let nanify := fun (v : FV) => match v with | .fin .. => v | _ => FV.nan false
      let bs := (chunks 32 l.length l).map (fun k => mxBlock f (k.map nanify))
      let codes := bs.flatMap Prod.snd
      let bits := codes.length * foldBits c
      let n := codes.foldl (fun a x => a * 2 ^ foldBits c + x) 0
      padTo (mxBase c) (bs.map (fun k => BitVec.ofNat 8 k.1)) ++ beBytes ((bits + 7) / 8) (n * 2 ^ ((8 - bits % 8) % 8))
    else
      l.flatMap (fun v => beBytes (foldBits c / 8)
        (match c, v with
         | 3, .inf _ => 0x7F
         | 3, .nan _ => 0x7F
         | 3, v => f.satEncode v
         | 4, .nan _ => 0x7F
         | _, v => (f.encode v).1)))

/-! Exact accumulation (R189 to R191). -/

/-- Index of the lowest set bit of a positive number. -/
def lowBit (n : Nat) : Nat := Nat.log2 ((n ^^^ (n - 1)) + 1) - 1

/-- The exact sum of an element in units of 2^−149. -/
def Elem.sum (e : Elem) : Int := if e.wide then e.side else e.window * ((2 ^ e.anchor : Nat) : Int)

/-- What the sum of an element is, with SPEC. -/
def Elem.value (e : Elem) : FV :=
  match e.spec with
  | 0 => .fin (decide (e.sum < 0)) e.sum.natAbs (-149)
  | 1 => .inf false
  | 2 => .inf true
  | _ => .nan false

/-- Adds one exact value (R191). -/
def addElem (e : Elem) (v : FV) : Elem :=
  match v with
  | .nan _ => { e with spec := 3 }
  | .inf false => { e with spec := if e.spec = 2 ∨ e.spec = 3 then 3 else 1 }
  | .inf true => { e with spec := if e.spec = 1 ∨ e.spec = 3 then 3 else 2 }
  | .fin n m x =>
    if m = 0 then e
    else
      let f := alignTo n m x (-149)
      if e.wide then { e with side := e.side + f }
      else
        let e := if e.anchored then e
          else { e with anchored := true, anchor := (clampInt ((Nat.log2 f.natAbs : Int) - 99) 0 208).toNat }
        let s := e.window + f / ((2 ^ e.anchor : Nat) : Int)
        let lim : Int := ((2 ^ 111 : Nat) : Int)
        if e.anchor ≤ lowBit f.natAbs ∧ -lim ≤ s ∧ s < lim then { e with window := s }
        else { e with wide := true, side := e.window * ((2 ^ e.anchor : Nat) : Int) + f, window := 0 }

/-- Adds values to the elements from number `i` on, in a table whose numbers start there. -/
def addRun : Nat → List FV → Tbl Elem → Tbl Elem
  | _, [], t => t
  | i, v :: l, t =>
    match t with
    | (k, e) :: r => if k = i then (i, addElem e v) :: addRun (i + 1) l r else (i, addElem {} v) :: addRun (i + 1) l t
    | [] => (i, addElem {} v) :: addRun (i + 1) l []

/-- Adds a frame's values from an element offset. -/
def addFrame (t : Tbl Elem) (off : Nat) (l : List FV) : Tbl Elem :=
  (t.filter (fun p => decide (p.1 < off))) ++ addRun off l (t.filter (fun p => decide (off ≤ p.1)))

/-- Elements in the side table. -/
def wideCount (t : Tbl Elem) : Nat := (t.filter (fun p => p.2.wide)).length

/-! The check stage (R198, R201). -/

/-- A BMAX as a power of two in units of 2^−149: 2^(BMAX + 1), none for +∞. -/
def bmaxBound (b : Nat) : Option Nat :=
  if b = 0x7FFF then none
  else if b = 0x8000 then some 0
  else some (2 ^ (sext 16 b + 150).toNat)

/-- M (R198): the sum of the bounds rounded up at each addition. -/
def sumBound (l : List Nat) : Option Nat :=
  l.foldl (fun a b => match a, bmaxBound b with
    | some x, some y => fp32Up (x + y) 0
    | _, _ => none) (some 0)

/-- Magnitude in units of 2^−149 of a code of a format under a scale byte; none if it is not finite. -/
def codeMag (c s code : Nat) : Option Nat :=
  match ((fmtOf c).decode (code % (fmtOf c).signBit)).scale (if isMx c then (s : Int) - 127 else 0) with
  | .fin _ m e => some (alignTo false m e (-149)).natAbs
  | _ => none

/-- The magnitude test of one output element (R198): it lies at or below M rounded up into its format. -/
def magOk (c s code : Nat) (m : Option Nat) : Bool :=
  match m, codeMag c s code with
  | none, _ => true
  | _, none => true
  | some m, some r =>
    r == 0 || decide (r ≤ m) ||
      (match codeMag c s (code % (fmtOf c).signBit - 1) with | some q => decide (q < m) | none => false)

/-- Codes and scale bytes of an output body. -/
def outCodes (c : Nat) (b : Bytes) (n : Nat) : List (Nat × Nat) :=
  (upTo n).map (fun i =>
    if isMx c then (msbBits (b ++ zeros 5) (8 * mxBase c + i * foldBits c) (foldBits c), byteAt b (i / 32))
    else (be b (i * (foldBits c / 8)) (foldBits c / 8), 127))

/-- What the check stage finds: elements that fail the range test, whether a fault-kind test fails, elements that are NaN
or infinite. -/
structure CheckEnd where
  range : List Nat
  fault : Bool
  nonfinite : Nat
  deriving DecidableEq, Repr, Inhabited

/-- The tests of R198 over an output body of `n` elements; `specs` says which exact sums are not finite, `bmaxes` are those
of the contributions, `bad` the elements read with bad parity. -/
def checkBlock (c : Nat) (b : Bytes) (n : Nat) (bmaxes : List Nat) (lo hi : Int) (finite : List Bool) (bad : List Nat) :
    CheckEnd :=
  let m := sumBound bmaxes
  let any := bmaxes.contains 0x7FFF
  let l := outCodes c b n
  let vals := l.map (fun p => if isMx c && p.2 == 0xFF then FV.nan false else
    ((fmtOf c).decode p.1).scale (if isMx c then (p.2 : Int) - 127 else 0))
  let range := (upTo n).filter (fun i =>
    match vals.getD i (.fin false 0 0) with
    | .nan _ => false
    | .inf _ => decide (hi < 128) || decide (128 < lo)
    | .fin s m e => match (FV.fin s m e).topExp with | some x => decide (x < lo) || decide (hi < x) | none => false)
  let magBad := l.any (fun p => !magOk c p.2 p.1 m)
  let specBad := (upTo n).any (fun i =>
    match vals.getD i (.fin false 0 0) with
    | .fin .. => false
    | .inf _ => !any && !finite.getD i true
    | .nan _ => !any)
  { range := range, fault := magBad || specBad || !bad.isEmpty,
    nonfinite := (vals.filter (fun v => match v with | .fin .. => false | _ => true)).length }

end Sys2Proof.Machine
end

