-- ==== Sys2Proof/Machine/Forward.lean ====
section
/-! DEFINITION. Forwarding: table lookups, ECMP and spraying, classes, marking and admission to the egress queues, copies
for the control-plane receive ring, and control-plane transmit frames (R376 to R391, R452, R453, R465). -/

namespace Sys2Proof.Machine

/-! Delivery to a control-plane receive ring (R348, R453). -/

/-- A frame without its FCS waits for a PF's receive ring, with its receive time. -/
def deliverRx (s : State) (fn reason port : Nat) (v : Views) (f : Bytes) : State :=
  let d := zeros 1 ++ leBytes 1 reason ++ leBytes 2 port ++ zeros 4 ++ leBytes 6 v.todSec ++ zeros 2 ++
    leBytes 4 v.todNs ++ leBytes 2 (v.todFrac / 2 ^ 24) ++ leBytes 1 s.tu.epoch ++ zeros 41
  (s.updFn fn (fun x => { x with rxQ := x.rxQ ++ [⟨d, f⟩] })).drainFn fn

/-- Counts one copy of the running second; true while the limit is not passed (R377, R465). -/
def secondQuota (s : State) (q : Nat × Nat) (limit : Nat) : Bool × (Nat × Nat) :=
  let sec := s.now / second
  let n := if q.1 = sec then q.2 else 0
  if n < limit then (true, (sec, n + 1)) else (false, (sec, n))

/-! Lookups (R376, R377, R381 to R383). -/

/-- Prefix of an address. -/
def prefixOf (w a len : Nat) : Nat := a / 2 ^ (w - len) * 2 ^ (w - len)
/-- Key of an IPv4 route. -/
def ip4Key (vrf len pre : Nat) : Nat := (vrf * 64 + len) * 2 ^ 32 + pre
/-- Key of an IPv6 route. -/
def ip6Key (vrf len pre : Nat) : Nat := (vrf * 256 + len) * 2 ^ 128 + pre

/-- Longest prefix match: the table (R465), the key, the route. -/
def lookupIp (s : State) (vrf : Nat) (v6 : Bool) (dst : Nat) : Option (Nat × Nat × Route) :=
  if v6 then
    (upTo 129).findSome? (fun i =>
      let k := ip6Key vrf (128 - i) (prefixOf 128 dst (128 - i))
      (Tbl.find? s.fwd.ip6 k).map (fun r => (4, k, r)))
  else
    (upTo 33).findSome? (fun i =>
      let k := ip4Key vrf (32 - i) (prefixOf 32 (dst % 2 ^ 32) (32 - i))
      (Tbl.find? s.fwd.ip4 k).map (fun r => (3, k, r)))

/-- A hardened forwarding entry is lost (R275). -/
def entryLost (s : State) (table key : Nat) : Bool := s.place.lost.any (fun l => l.obj == .route table key)

/-- A port takes forwarded frames: FORWARDING or OPEN (R383). -/
def fwdLive (s : State) (p : Nat) : Bool :=
  let x := s.port p
  portExists s p && (x.st == .forwarding || x.st == .opened)

/-- The next hop of a slot, if it is live. -/
def slotHop (s : State) (g slot : Nat) : Option NextHop :=
  match Tbl.find? s.fwd.ecmp (g * 256 + slot) with
  | none => none
  | some n =>
    match Tbl.find? s.fwd.nextHop n with
    | some h => if fwdLive s h.port then some h else none
    | none => none

/-- The live next hop of a hashed slot: its own, else the next higher slot's, wrapping (R383). -/
def hashHop (s : State) (g h : Nat) : Option NextHop :=
  (upTo 256).findSome? (fun i => slotHop s g ((h + i) % 256))

/-- The live next hop with the fewest cells queued for a class; a tie goes to the one that follows the last choice in slot
order (R382). -/
def sprayHop (s : State) (g c : Nat) : Option (NextHop × Nat) :=
  let last := Tbl.getD s.fwd.lastSpray (g * 8 + c) 255
  let lastHop := slotHop s g last
  let all := (upTo 256).filterMap (fun i =>
    let k := (last + 1 + i) % 256
    (slotHop s g k).map (fun h => (h, k)))
  let ord := all.filter (fun p => some p.1 != lastHop) ++ all.filter (fun p => some p.1 == lastHop)
  ord.foldl (fun (a : Option (NextHop × Nat)) p =>
    match a with
    | none => some p
    | some b => if queueCells (s.port p.1.port) c < queueCells (s.port b.1.port) c then some p else a) none

/-- The next hop a result names for a frame: (state, hop). `sprayed`: the frame's class has SPRAY set. -/
def resolveHop (s : State) (r : Route) (h c : Nat) (sprayed : Bool) : State × Option NextHop :=
  if r.rkind = 0 then
    match Tbl.find? s.fwd.nextHop r.result with
    | some n => (s, if fwdLive s n.port then some n else none)
    | none => (s, none)
  else if sprayed then
    match sprayHop s r.result c with
    | some (n, k) => ({ s with fwd := { s.fwd with lastSpray := Tbl.put s.fwd.lastSpray (r.result * 8 + c) k } }, some n)
    | none => (s, none)
  else (s, hashHop s r.result (h % 256))

/-- A frame selects an ECMP slot or a next hop whose hardened word is lost (R275). -/
def hopLost (s : State) (r : Route) (h c : Nat) (sprayed : Bool) : Bool :=
  !s.place.lost.isEmpty &&
    (if r.rkind = 0 then entryLost s 5 r.result
     else
       let slot := if sprayed then (sprayHop s r.result c).map Prod.snd
         else (upTo 256).findSome? (fun i =>
           let k := (h + i) % 256
           if entryLost s 6 (r.result * 256 + k) || (slotHop s r.result k).isSome then some k else none)
       match slot with
       | some k => entryLost s 6 (r.result * 256 + k) ||
           (match Tbl.find? s.fwd.ecmp (r.result * 256 + k) with | some n => entryLost s 5 n | none => false)
       | none => false)

/-- Bytes of an address as hashed: 4 for IPv4, 16 for IPv6. -/
def hashAddr (v6 : Bool) (a : Nat) : Bytes := if v6 then beBytes 16 a else beBytes 4 (a % 2 ^ 32)

/-- The hash of a forwarded frame (R381). -/
def frameHash (s : State) (f : Bytes) (k : Pkt) : Nat :=
  let seed := beBytes 4 s.dev.hashSeed
  (match k.ip with
   | some ip =>
     let base := seed ++ hashAddr ip.v6 ip.src ++ hashAddr ip.v6 ip.dst ++ beBytes 1 ip.proto
     if ip.proto = 6 ∨ ip.proto = 17 then crc32c (base ++ beBytes 2 (be f ip.l4 2) ++ beBytes 2 (be f (ip.l4 + 2) 2))
     else crc32c (base ++ (if ip.v6 then beBytes 4 ip.flowLabel else []))
   | none => crc32c (seed ++ beBytes 6 k.smac ++ beBytes 6 k.dmac ++ beBytes 2 k.etype)).toNat

/-- The class of a forwarded frame at its ingress port (R379, R380). -/
def frameClass (s : State) (p : Nat) (k : Pkt) : Nat :=
  let x := s.port p
  match x.cfg.trust with
  | 0 => x.cfg.defaultTc
  | 1 => match k.tags with | (_, t) :: _ => s.dev.pcpMap.getD (t / 8192) 0 | [] => x.cfg.defaultTc
  | _ => match k.ip with | some ip => s.dev.dscpMap.getD (ip.tos / 4) 0 | none => x.cfg.defaultTc

/-- A router MAC entry that a destination address selects is lost (R275). -/
def routerLost (s : State) (m : Nat) : Bool := s.fwd.routerMac.any (fun p => p.2 == m && entryLost s 0 p.1)
/-- The MAC address sends the frame to the L3 lookup (R376). -/
def routerMac (s : State) (m : Nat) : Bool :=
  m != 0 && (s.fwd.routerMac.any (fun p => p.2 == m) || s.ports.any (fun p => p.2.cfg.macAddr == m))

/-! Admission to an egress queue (R357, R378, R389 to R391). -/

/-- The 16-bit word at an offset of a frame replaced, and the IPv4 header checksum at `c` updated (R377, R390). -/
def patchSum (f : Bytes) (off v c : Nat) : Bytes :=
  let o := be f off 2
  patch (patch f off (beBytes 2 v)) c (beBytes 2 (csumUpdate (be f c 2) o v))

/-- CE set in an ECN-capable frame (R390). -/
def markCe (f : Bytes) (ip : Ip) : Bytes :=
  if ip.v6 then patch f ip.off (beBytes 2 (be f ip.off 2 ||| 0x30))
  else patchSum f ip.off (be f ip.off 2 ||| 3) (ip.off + 10)

/-- Whether the draw marks a frame that finds `q` cells in its queue (R390, log 5): (mark, draws made). -/
def ecnMarks (s : State) (p c q : Nat) : Bool × Nat :=
  let x := s.port p
  let lo := x.cfg.ecnMin.getD c 400
  let hi := x.cfg.ecnMax.getD c 2000
  let pm := x.cfg.ecnPmax.getD c 10
  if q < lo then (false, 0)
  else if hi ≤ q then (true, 0)
  else (decide ((Config.ecnDraw p x.ecnDraws).toNat * 100 * (hi - lo) < pm * (q - lo) * 2 ^ 32), 1)

/-- A forwarded or control-plane frame joins the class queue of an egress port, or is dropped (R357, R389 to R391).
`good`: its ingress verdict; a bad one drops it unless it is cut through (R378, R286). -/
def enqueue (s : State) (ep c : Nat) (ingress : Option Nat) (good : Bool) (f : TxFrame) : State :=
  let x := s.port ep
  let q := queueCells x c
  let n := cellsOf f
  let cut := match ingress with
    | some i => (Tbl.getD x.classQ c []).isEmpty && decide (portRate s ep ≤ portRate s i)
    | none => false
  if x.cfg.maxFrame < wireLen f.bytes then s.count .txOversize ep 1
  else if !good && !cut then s
  else
    let die := dieOf ep
    let free := poolCells s die - (poolUsed s die : Nat)
    let fits := decide ((q : Int) * 16 < free * 2 ^ s.dev.alpha.getD c 4)
    let loss := match ingress with | some i => lossless (s.port i) c | none => lossless x c
    let own := ingress.getD ep
    if !fits && !loss then s.count .dropCong ep 1 c
    else if !fits && decide ((s.port own).cfg.headroom.getD c 512 < headroomUsed s own c + n) then
      s.count .dropHeadroom own 1 c
    else
      let k := parsePkt s.dev.tpid f.bytes
      let ect := match k.ip with
        | some ip => ip.tos % 4 == 1 || ip.tos % 4 == 2
        | none => false
      let (mk, dr) := if ect then ecnMarks s ep c q else (false, 0)
      let b := match k.ip with | some ip => if mk then markCe f.bytes ip else f.bytes | none => f.bytes
      let s := if mk then s.count .ecnMark ep 1 c else s
      let g : TxFrame := { f with bytes := b, cls := c, bad := !good, ingress := ingress.map (fun i => (i, c)),
                                  inHeadroom := !fits }
      let s := s.updPort ep (fun y =>
        { y with classQ := Tbl.put y.classQ c (Tbl.getD y.classQ c [] ++ [g]), ecnDraws := y.ecnDraws + dr })
      match ingress with
      | some i => pauseUpdate s i
      | none => s

/-! Forwarding one frame (R377). -/

/-- A frame with its outer tags replaced. -/
def retag (f : Bytes) (k : Pkt) (tags : List (Nat × Nat)) : Bytes :=
  f.take 12 ++ tags.flatMap (fun t => beBytes 2 t.1 ++ beBytes 2 t.2) ++ f.drop (12 + 4 * k.tags.length)

/-- A frame as it leaves by a next hop: TTL or Hop Limit decremented, addresses and VLAN of the next hop, PCP its class
(R377, R380). -/
def routed (s : State) (f : Bytes) (k : Pkt) (ip : Ip) (n : NextHop) (c : Nat) : Bytes :=
  let f := if ip.v6 then patch f (ip.off + 7) (beBytes 1 (ip.ttl - 1))
    else patchSum f (ip.off + 8) (be f (ip.off + 8) 2 - 256) (ip.off + 10)
  let f := retag f k (if n.vlan = 0 then [] else [(s.dev.tpid.headD 0x8100, c * 8192 + n.vlan)])
  beBytes 6 n.dmac ++ beBytes 6 (s.port n.port).cfg.macAddr ++ f.drop 12

/-- A copy for the function that set a route, within the second's quota (R377, R465). -/
def copyToHost (s : State) (p fn reason : Nat) (f : Bytes) : State :=
  if reason = 2 then
    let (ok, q) := secondQuota s (s.port p).ttlCopies 1000
    let s := s.updPort p (fun x => { x with ttlCopies := q })
    if ok then deliverRx s fn 2 (portField p) (ingressViews s p) f else s
  else
    let (ok, q) := secondQuota s (s.port p).hostCopies 100000
    let s := s.updPort p (fun x => { x with hostCopies := q })
    if ok then deliverRx s fn 4 (portField p) (ingressViews s p) f else s.count .fwdHostDrop 0 1

/-- L3 forwarding (R377 steps 1, 4 and 5). -/
def routeFrame (s : State) (p : Nat) (f : Bytes) (k : Pkt) (ip : Ip) (good : Bool) (pin : Option PtpIn) : State :=
  match lookupIp s (s.port p).cfg.vrf ip.v6 ip.dst with
  | none => s.count .fwdNoRoute p 1
  | some (tab, key, r) =>
    if entryLost s tab key then s.count .fwdHardDrop 0 1
    else if ip.ttl ≤ 1 then
      let s := s.count .fwdTtl p 1
      if good then copyToHost s p r.fn 2 f else s
    else if r.rkind = 3 then (if good then copyToHost s p r.fn 4 f else s)
    else if r.rkind = 4 then s
    else
      let c := frameClass s p k
      if hopLost s r (frameHash s f k) c (s.dev.spray.getD c 0 == 1) then s.count .fwdHardDrop 0 1
      else
        let (s, n) := resolveHop s r (frameHash s f k) c (s.dev.spray.getD c 0 == 1)
        match n with
        | none => s.count .fwdNoPath p 1
        | some n => enqueue s n.port c (some p) good { bytes := routed s f k ip n c, kind := .forwarded, residenceFrom := pin }

/-- A bridged frame as it leaves a member port: with or without its VLAN tag (R376, log 20). -/
def bridged (s : State) (f : Bytes) (k : Pkt) (vlan ep : Nat) : Bytes :=
  match Tbl.find? s.fwd.vlan (vlan * 1024 + ep), k.tags with
  | some true, [] => retag f k [(s.dev.tpid.headD 0x8100, vlan)]
  | some false, _ :: t => retag f k t
  | _, _ => f

/-- L2 forwarding (R377 steps 2 and 3). -/
def bridgeFrame (s : State) (p : Nat) (f : Bytes) (k : Pkt) (good : Bool) (pin : Option PtpIn) : State :=
  let vlan := match k.tags with
    | (_, t) :: _ => if t % 4096 = 0 then (s.port p).cfg.nativeVlan else t % 4096
    | [] => (s.port p).cfg.nativeVlan
  let c := frameClass s p k
  let send := fun (s : State) (ep : Nat) =>
    if entryLost s 2 (vlan * 1024 + ep) then s.count .fwdHardDrop 0 1
    else enqueue s ep c (some p) good { bytes := bridged s f k vlan ep, kind := .forwarded, residenceFrom := pin }
  let hit := if macGroup k.dmac then none else Tbl.find? s.fwd.l2 (vlan * 2 ^ 48 + k.dmac)
  match hit with
  | some r =>
    if entryLost s 1 (vlan * 2 ^ 48 + k.dmac) then s.count .fwdHardDrop 0 1
    else if r.rkind = 2 then (if fwdLive s r.result then send s r.result else s.count .fwdNoPath p 1)
    else if r.rkind = 3 then (if good then copyToHost s p r.fn 4 f else s)
    else if r.rkind = 4 then s
    else if hopLost s r (frameHash s f k) c (s.dev.spray.getD c 0 == 1) then s.count .fwdHardDrop 0 1
    else
      let (s, n) := resolveHop s r (frameHash s f k) c (s.dev.spray.getD c 0 == 1)
      match n with
      | none => s.count .fwdNoPath p 1
      | some n => send s n.port
  | none =>
    let members := ((s.fwd.vlan.filter (fun q => q.1 / 1024 == vlan)).map (fun q => q.1 % 1024)).filter (fun q =>
      q != p && fwdLive s q)
    members.foldl send (s.count .fwdFlood p 1)

/-- Device addresses and ports of a kind: the frame's UDP datagram is for the query path, or for fold (R34, R173). -/
def udpTo (s : State) (addrs ports : Tbl Nat) (f : Bytes) (k : Pkt) : Option Ip :=
  match k.ip with
  | some ip =>
    let dst := if ip.v6 then ip.dst else mapped4 ip.dst
    if ip.proto = 17 ∧ ip.hdrOk = true ∧ ip.frag = false ∧ addrs.any (fun a => a.2 == dst) = true ∧
        ports.any (fun q => q.2 == udpDst f ip) = true ∧ s.boot.st = 5 then some ip else none
  | none => none

/-- A query frame's IP header (R34, R35). -/
def queryIp (s : State) (f : Bytes) (k : Pkt) : Option Ip := udpTo s s.dev.queryAddr s.dev.sqfPort f k
/-- The conditions of a HELLO on a frame's headers (R174). -/
def helloIp (s : State) (p : Nat) (f : Bytes) (ip : Ip) : Bool :=
  match s.dev.foldPort with
  | (_, fp) :: _ =>
    let all := if ip.v6 then ip.dst == 0xff02 * 2 ^ 112 + 1 else ip.dst == mapped4 0xFFFFFFFF
    (s.port p).cfg.foldEn && all && ip.proto == 17 && ip.hdrOk && !ip.frag && udpDst f ip == fp && ip.ttl == 1
  | [] => false

/-- A fold frame's IP header: to a fold address (R173), or a HELLO, of TYPE 7 (R174). -/
def foldIp (s : State) (p : Nat) (f : Bytes) (k : Pkt) : Option Ip :=
  match udpTo s s.dev.foldAddr s.dev.foldPort f k with
  | some ip => some ip
  | none =>
    match k.ip with
    | some ip => if helloIp s p f ip && byteAt (udpPayload f ip) 0 % 16 == 7 then some ip else none
    | none => none

/-- An IPv4 frame to a query address with a bad header checksum (R36). -/
def badQueryHdr (s : State) (k : Pkt) : Bool :=
  match k.ip with
  | some ip => !ip.v6 && !ip.hdrOk && s.dev.queryAddr.any (fun a => a.2 == mapped4 ip.dst)
  | none => false

/-- Frames the port takes for the parser: it is up, the device is not fenced, S0 or S1 (R359, R515). -/
def rxAlive (s : State) (p : Nat) : Bool :=
  portExists s p && !s.power.fenced && s.live && portUp (s.port p) && decide (s.power.st ≤ 1)

/-- The port handles received frames as in BLOCKING: by its state, or in S1 and while the device drains into it
(R359, R510, R515). -/
def rxBlocked (s : State) (p : Nat) : Bool :=
  (s.port p).st == .blocking || s.power.st == 1 || s.power.transit != .none

/-- A received frame's verdict by the MAC: length and FCS (R355). -/
def macGood (s : State) (p : Nat) (f : Bytes) : Bool :=
  decide (64 ≤ f.length) && decide (f.length ≤ (s.port p).cfg.maxFrame) && fcsOk f

/-- An LLDP frame (R373): a port in BLOCKING takes it (R359). -/
def isLldp (k : Pkt) : Bool := k.etype == 0x88CC && k.dmac == 0x0180C200000E

/-- FORWARD_FRAME (R377, R378, R343, R356). -/
def execForwardFrame (port : Nat) (frame : Bytes) (s : State) : Res :=
  onObj s (okPort port)
    (let k := parsePkt s.dev.tpid frame
     let isHello := (foldIp s port frame k).isSome
     if !rxAlive s port || frame.length < 64 || k.etype == 0x8808 || (queryIp s frame k).isSome || isHello ||
         badQueryHdr s k then s
     else if rxBlocked s port then (if isLldp k then s else s.count .rxBlocked port 1)
     else
       let good := macGood s port frame
       let body := (frame.take ((s.port port).cfg.maxFrame)).take (min frame.length ((s.port port).cfg.maxFrame) - 4)
       let ptp := ptpEvent s.dev.tpid body
       let pin := match ptp with
         | some _ => some { free := freeAt s (-((rxCorr (portRate s port) : Int) + (s.port port).cfg.rxTrim)),
                            views := ingressViews s port, port := port : PtpIn }
         | none => none
       let pdelay := match ptp with | some (h, _) => decide (2 ≤ byteAt body h % 16) | none => false
       let toHost := k.etype == 0x88F7 && k.dmac == (s.port port).cfg.macAddr && k.dmac != 0
       if pdelay || toHost then
         (if good then deliverRx s (tuOwner s) 3 (portField port) (ingressViews s port) body else s)
       else
         let badSum := match k.ip with | some ip => !ip.v6 && !ip.hdrOk | none => false
         if badSum then s
         else if routerLost s k.dmac then s.count .fwdHardDrop 0 1
         else
           match (if routerMac s k.dmac then k.ip else none) with
           | some ip => routeFrame s port body k ip good pin
           | none => bridgeFrame s port body k good pin)

/-! Control-plane transmit (R452). -/

/-- A descriptor of a control-plane transmit ring breaks R9 or R452. -/
def cpTxBad (s : State) (d : Bytes) : Bool :=
  let len := le d 8 2
  let pf := le d 10 2
  let mg := bit pf 15
  !allZero (d.drop 14) || byteAt d 12 / 8 != 0 || byteAt d 13 / 2 != 0 || decide (len < 14) ||
    (if mg then pf % 32768 / 2 != 0 || decide (9216 - 4 < len)
     else decide (2048 ≤ pf) || bit pf 3 || decide ((s.port (portOf pf)).cfg.maxFrame - 4 < len))

/-- CP_TX (R452, R344, R369, R515): the oldest fetched descriptor's frame is queued, sent on a management port, or
dropped. -/
def execCpTx (fn : Nat) (data : Dma) (s : State) : Res :=
  onObj s (okFn fn)
    (match (s.fn fn).txQ with
     | [] => s
     | d :: t =>
       if !s.live then s
       else
         let pf := le d 10 2
         let g := pf % 2
         let drop := (s.updFn fn (fun x => { x with txQ := t })).count .cpTxDrop 0 1
         if cpTxBad s d then drop
         else
           match data with
           | .err _ => drop
           | .data b =>
             let f := padTo (le d 8 2) (b.take (le d 8 2))
             if bit pf 15 then
               match Tbl.find? s.mgmts g with
               | none => drop
               | some m =>
                 if m.owner ≠ some (fn / 64) then drop
                 else if m.pause.runs s.now then s
                 else
                   let tx : TxFrame := { bytes := f, kind := .control, tsOrigin := bit (byteAt d 13) 0 }
                   let s := s.updFn fn (fun x => { x with txQ := t })
                   let (s, tx) := if tx.tsOrigin then stampTx s 1024 tx else (s, tx)
                   (s.emit (.mgmt g (withFcs true tx.bytes))).count .txOk (65536 + g) 1
             else
               let p := portOf pf
               if !portExists s p || !portUp (s.port p) then drop
               else
                 enqueue (s.updFn fn (fun x => { x with txQ := t })) p (byteAt d 12 % 8) none true
                   { bytes := f, kind := .control, tsOrigin := bit (byteAt d 13) 0 })

end Sys2Proof.Machine
end

