-- ==== Sys2Proof/Machine/FoldOps.lean ====
section
/-! DEFINITION. Shared operations of fold groups: what is expected of a block, sending frames to members and parent, group
states, slots and spilling, emission (R172, R175, R185, R190 to R208, R210 to R213, R254). -/

namespace Sys2Proof.Machine

/-! Blocks, steps and members. -/

/-- NBLK (R170). -/
def Group.nblk (g : Group) : Nat := ceilDiv g.nelem (fmtCap g.inFmt)
/-- ECOUNT of a block index (R180). -/
def Group.ecount (g : Group) (b : Nat) : Nat :=
  if b + 1 < g.nblk then fmtCap g.inFmt else g.nelem - (g.nblk - 1) * fmtCap g.inFmt
/-- Step and block index of a position. -/
def Group.stepAt (g : Group) (pos : Nat) : Nat := pos / max g.nblk 1
def Group.blockAt (g : Group) (pos : Nat) : Nat := pos % max g.nblk 1
/-- A member contributes to a step (R210, R211, R460). -/
def Member.activeAt (m : Member) (step : Nat) : Bool :=
  decide (m.fromStep ≤ step) && (match m.untilStep with | some u => decide (step < u) | none => true)
/-- Members expected for a step. -/
def Group.expected (g : Group) (step : Nat) : List (Nat × Member) := List.filter (fun (p : Nat × Member) => p.2.activeAt step) g.members
/-- Sub-frames of a child's contribution to a block (R193). -/
def Group.subs (g : Group) (b : Nat) : Nat := ceilDiv (g.ecount b) 1024
/-- A member's contribution to a block is complete (R193, R194). -/
def memberDone (g : Group) (b : Nat) (f : FBlock) (m : Nat) (x : Member) : Bool :=
  if x.child then (upTo (g.subs b)).all (fun i => f.held.any (fun h => h.member == m && h.sub == i))
  else f.held.any (fun h => h.member == m)
/-- Contributions a block still misses. -/
def missingOf (g : Group) (pos : Nat) (f : FBlock) : Nat :=
  ((g.expected (g.stepAt pos)).filter (fun p => !memberDone g (g.blockAt pos) f p.1 p.2)).length
/-- E of R210: the first step no member can yet have contributed to. -/
def Group.effective (g : Group) : Nat :=
  (match g.newest with | some p => p + g.window + 1 | none => g.oldest + g.window) / max g.nblk 1 + 1
/-- The accumulating block of a block index at a step (R192, R246). -/
def Group.accOf (g : Group) (pos : Nat) : Nat :=
  let l := match g.nextAcc with | some (st, l) => if st ≤ g.stepAt pos then l else g.accBlocks | none => g.accBlocks
  l.getD (g.blockAt pos % max l.length 1) 0

/-! Sending. -/

/-- The device's fold address of a family, lowest index first, and its first Fold port (R374). -/
def ownFold (s : State) (v6 : Bool) : Option (Nat × Nat) :=
  match List.find? (fun (p : Nat × Nat) => isMapped p.2 == !v6) s.dev.foldAddr, s.dev.foldPort with
  | some (_, a), (_, p) :: _ => some (a, p)
  | _, _ => none

/-- Sends a fold frame's UDP payload to a member or parent: as a MSG on a board link, else by the forwarding tables of the
port's VRF into the group's queue on the egress port (R175, R230, R268, log 23). -/
def sendFold (s : State) (gn tc port addr udp : Nat) (p : Bytes) : State :=
  if 65536 ≤ port then
    let l := port - 65536
    sendBlp s l (blpHdr 8 s.boot.boardPos (s.link l).farPos false 0 0 p.length (ridOf 2 0 0) ++ p)
  else
    let v6 := !isMapped addr
    match ownFold s v6 with
    | none => s
    | some (own, up) =>
      match lookupIp s (s.port port).cfg.vrf v6 addr with
      | none => s.count .fwdNoRoute port 1
      | some (tab, key, r) =>
        if entryLost s tab key || 2 < r.rkind then s.count .fwdHardDrop 0 1
        else
          let h := (crc32c (beBytes 4 s.dev.hashSeed ++ hashAddr v6 own ++ hashAddr v6 addr ++ beBytes 1 17 ++ beBytes 2 up ++
            beBytes 2 udp)).toNat
          if hopLost s r h tc false then s.count .fwdHardDrop 0 1
          else match (resolveHop s r h tc false).2 with
          | none => s.count .fwdNoPath port 1
          | some n =>
            let mac := (s.port n.port).cfg.macAddr
            if mac = 0 || !portUp (s.port n.port) then s.count .txDownDrop n.port 1
            else
              let tag := if n.vlan = 0 then none else some (s.dev.tpid.headD 0x8100, tc * 8192 + n.vlan)
              let d := udpDgram v6 own addr up udp p
              let f : TxFrame := { bytes := ethHdr n.dmac mac tag (ipEtype v6) ++ ipHdr v6 own addr 0 s.dev.replyTtl d.length ++ d,
                                   kind := .fold gn, cls := tc }
              s.updPort n.port (fun x => { x with groupQ := Tbl.put x.groupQ gn (Tbl.getD x.groupQ gn [] ++ [f]) })

/-- Sends a payload to a member of a group. -/
def sendMember (s : State) (gn : Nat) (g : Group) (m : Member) (p : Bytes) : State := sendFold s gn g.tc m.port m.addr m.udp p
/-- Sends a payload to the parent of an INNER group. -/
def sendParent (s : State) (gn : Nat) (g : Group) (p : Bytes) : State :=
  if g.root then s else sendFold s gn g.tc g.parentPort g.parentAddr g.parentUdp p

/-- NOTICE payload (R185). -/
def noticeBytes (gn : Nat) (g : Group) (member code detail step block sub : Nat) : Bytes :=
  withTbc true ({ ty := 6, group := gn, member := member, step := step, block := block, sub := sub, gen := g.gen,
                  arg := code * 2 ^ 24 + detail : FHdr }).bytes
/-- NOTICE to a member. -/
def notice (s : State) (gn : Nat) (g : Group) (m code detail step block sub : Nat) : State :=
  match Tbl.find? g.members m with
  | some x => sendMember s gn g x (noticeBytes gn g m code detail step block sub)
  | none => s
/-- NOTICE to the parent. -/
def noticeUp (s : State) (gn : Nat) (g : Group) (code detail step block sub : Nat) : State :=
  sendParent s gn g (noticeBytes gn g g.pmember code detail step block sub)
/-- NOTICE to every member, or to the children alone. -/
def noticeAll (s : State) (gn : Nat) (g : Group) (onlyChildren : Bool) (code detail step : Nat) : State :=
  g.members.foldl (fun s p => if onlyChildren && !p.2.child then s else notice s gn g p.1 code detail step 0 0) s

/-! Group states (R202, R211 to R213). -/

/-- A group changes state; its owner is told (R448). -/
def setGroupState (s : State) (gn st cause step : Nat) : State :=
  match Tbl.find? s.groups gn with
  | none => s
  | some g =>
    let s := s.updGroup gn (fun x => { x with st := st, cause := cause })
    if g.st = st then s else s.general [g.owner] 0x0310 cause (objCode 2 gn) 0 st step

/-- A group fails (R202): everyone is told. -/
def failGroup (s : State) (gn : Nat) : State :=
  match Tbl.find? s.groups gn with
  | none => s
  | some g =>
    if g.st = 3 then s
    else
      let s := setGroupState s gn 3 4 (g.stepAt g.oldest)
      noticeUp (noticeAll s gn g false 0x0A 0 (g.stepAt g.oldest)) gn g 0x0A 0 (g.stepAt g.oldest) 0 0

/-- A group enters HOLD from step `e` (R212): members and children are told. -/
def holdGroup (s : State) (gn e cause : Nat) : State :=
  match Tbl.find? s.groups gn with
  | none => s
  | some g =>
    if 2 ≤ g.st then s
    else
      let s := setGroupState s gn 2 cause e
      noticeAll (s.updGroup gn (fun x => { x with holdStep := e })) gn g false 7 0 e

/-- A member is not yet excluded from step `e`. -/
def Member.lastsTo (m : Member) (e : Nat) : Bool := match m.untilStep with | none => true | some u => decide (e < u)

/-- Excludes a replica from step `e` (R211): its endpoints here are told, also those that would join later; its children are
told. -/
def expelReplica (s : State) (gn r e : Nat) : State :=
  match Tbl.find? s.groups gn with
  | none => s
  | some g =>
    let own := List.filter (fun (p : Nat × Member) => !p.2.child && p.2.replica == r && p.2.lastsTo e) g.members
    let s := own.foldl (fun s p =>
      let s := s.updGroup gn (fun x => { x with members := Tbl.modify x.members p.1 (fun m => { m with untilStep := some e }) })
      (notice s gn g p.1 6 0 e 0 0).general [g.owner] 0x0311 0 (objCode 2 gn) 0 r e) s
    noticeAll s gn g true 5 r e

/-! Poisoned cells of the held store (R202, R277 to R280). -/

/-- A cell of a group's held frame has an uncorrectable error: it is poisoned (R277, R279, R306). -/
def poisonCell (s : State) (gn die : Nat) : State :=
  (s.count .poisonSet 0 1).integ { fcode := 0x0111, sev := 1, unitKind := 9, unit := die, obj := objCode 2 gn, detail := 1 }
/-- A read delivers poison to a group: row 1 of R280 a held input or result, row 2 a spilled image. -/
def consumePoison (s : State) (gn row unitKind unit : Nat) : State :=
  (s.count .poisonConsumed 0 1).integ
    { fcode := 0x0112, sev := 1, unitKind := unitKind, unit := unit, obj := objCode 2 gn, detail := row }
/-- A held frame of a group is poisoned, or no longer as its TBC says: the group fails (R202). -/
def heldFails (s : State) (gn die : Nat) (poisoned : Bool) : State :=
  failGroup (if poisoned then consumePoison s gn 1 9 die else s) gn
/-- Held inputs of a block that do not verify when they are read. -/
def FBlock.badHeld (f : FBlock) : Bool := f.held.any (fun h => h.damaged || !tbcOk h.payload)
/-- The held RESULT of a block does not verify when it is read. -/
def FBlock.badResult (f : FBlock) (p : Bytes) : Bool := f.resultBad || !tbcOk p

/-! Accumulator slots, the side table and spilling (R189, R191, R192, R208). -/

/-- Blocks in flight of all groups on a base die: (group, position, block). -/
def dieBlocks (s : State) (die : Nat) : List (Nat × Nat × FBlock) :=
  (s.groups.flatMap (fun g => g.2.blocks.map (fun b => (g.1, b.1, b.2)))).filter (fun x => x.2.2.acc / 32 == die)
/-- Slots and side entries in use on a base die. -/
def slotsUsed (s : State) (die : Nat) : List Nat := (dieBlocks s die).flatMap (fun x => x.2.2.slots)
def sideUsed (s : State) (die : Nat) : List Nat :=
  (dieBlocks s die).flatMap (fun x => if x.2.2.spilled then [] else ((x.2.2.elems.filter (fun e => e.2.wide)).map (fun e => e.2.idx)))
/-- Free slots and side entries of a base die. -/
def slotsFree (s : State) (die : Nat) : Nat := 3640 - (slotsUsed s die).length
def sideFree (s : State) (die : Nat) : Nat := 16384 - (sideUsed s die).length
/-- The stack that holds a block's spilled image: one of the two by its die, in turn, or the first that is left (R221, R299,
log 132). -/
def spillStack (s : State) (f : FBlock) : Nat :=
  let k := f.acc / 32 * 2 + f.opened % 2
  if bit s.place.stackLive k then k else ((upTo 4).find? (fun i => bit s.place.stackLive i)).getD k
/-- Spilled blocks above a base die. -/
def spilledOn (s : State) (die : Nat) : Nat := ((dieBlocks s die).filter (fun x => x.2.2.spilled)).length

/-- The lowest `n` numbers from `i` on, of the next `k`, that are not in use. -/
def pickFree (used : List Nat) : Nat → Nat → Nat → List Nat
  | 0, _, _ => []
  | k + 1, i, n =>
    if n = 0 then [] else if used.contains i then pickFree used k (i + 1) n else i :: pickFree used k (i + 1) (n - 1)
/-- Slots a block takes: the lowest free ones of the die (log 132). -/
def takeSlots (s : State) (die n : Nat) : List Nat := pickFree (slotsUsed s die) 3640 0 n
/-- Gives side entries, in order, to the elements that have just become WIDE. -/
def giveSide (old : Tbl Elem) : List Nat → Tbl Elem → Tbl Elem
  | _, [] => []
  | free, (k, e) :: r =>
    if e.wide && !(Tbl.getD old k {}).wide then (k, { e with idx := free.headD 0 }) :: giveSide old free.tail r
    else (k, e) :: giveSide old free r
/-- Elements with side entries of a die for those WIDE that `old` does not hold WIDE. -/
def takeSide (s : State) (die n : Nat) (old t : Tbl Elem) : Tbl Elem :=
  if n = 0 then t else giveSide old (pickFree (sideUsed s die) 16384 0 n) t

/-- Changes a block in flight. -/
def State.updFB (s : State) (gn pos : Nat) (f : FBlock → FBlock) : State :=
  s.updGroup gn (fun g => { g with blocks := Tbl.modify g.blocks pos f })
/-- A block in flight. -/
def State.fblock (s : State) (gn pos : Nat) : Option FBlock :=
  match Tbl.find? s.groups gn with | some g => Tbl.find? g.blocks pos | none => none

/-- The spill pause of a port follows the dies under pressure (R208): the classes of groups with a spilled block there and
a member on the port. -/
def applySpill (s : State) : State :=
  let want := fun (p : Nat) => ((List.filter (fun (g : Nat × Group) =>
      g.2.blocks.any (fun b => b.2.spilled && s.place.spillPress.contains (b.2.acc / 32)) &&
      g.2.members.any (fun m => m.2.port == p)) s.groups).map (fun g => g.2.tc)).eraseDups
  s.ports.foldl (fun s q =>
    if (s.port q.1).spillXoff = want q.1 then s
    else pauseUpdate (s.updPort q.1 (fun x => { x with spillXoff := want q.1 })) q.1) s

/-- Brings the spill pressure of a die up to date (R208): above 1,024 it begins, below 512 it ends. -/
def spillPressure (s : State) (die : Nat) : State :=
  let n := spilledOn s die
  let now := s.place.spillPress.contains die
  let s := if 1024 < n && !now then { s with place := { s.place with spillPress := die :: s.place.spillPress } }
    else if n < 512 && now then { s with place := { s.place with spillPress := s.place.spillPress.erase die } } else s
  applySpill s

/-- Spills a block: its slots and side entries are free (R192). -/
def spillBlock (s : State) (gn pos : Nat) : State :=
  match s.fblock gn pos with
  | none => s
  | some f => spillPressure ((s.updFB gn pos (fun x => { x with spilled := true, slots := [] })).count .foldSpill gn 1) (f.acc / 32)

/-- The open block to spill (R192): most contributions missing, newest first. -/
def spillVictim (s : State) (die : Nat) : Option (Nat × Nat) :=
  let open_ := (dieBlocks s die).filter (fun x => x.2.2.st == .gathering && !x.2.2.spilled && !x.2.2.slots.isEmpty)
  let miss : Nat × Nat × FBlock → Nat := fun x => match Tbl.find? s.groups x.1 with | some g => missingOf g x.2.1 x.2.2 | none => 0
  (open_.foldl (fun (a : Option (Nat × Nat × FBlock)) (x : Nat × Nat × FBlock) =>
    match a with
    | none => some x
    | some y => if miss y < miss x ∨ (miss y = miss x ∧ y.2.2.opened < x.2.2.opened) then some x else a) none).map
    (fun x => (x.1, x.2.1))

/-- Spills until a die has `n` free slots. -/
def makeRoom (die n : Nat) : Nat → State → State
  | 0, s => s
  | k + 1, s =>
    if n ≤ slotsFree s die then s
    else match spillVictim s die with
      | some (gn, pos) => makeRoom die n k (spillBlock s gn pos)
      | none => s

/-- Spills until a die has `n` free side entries, or the block that needs them is itself spilled (R192). -/
def makeSide (die n gn pos : Nat) : Nat → State → State
  | 0, s => s
  | k + 1, s =>
    if n ≤ sideFree s die then s
    else match spillVictim s die with
      | some (vg, vp) => if vg = gn ∧ vp = pos then spillBlock s vg vp else makeSide die n gn pos k (spillBlock s vg vp)
      | none => s

/-! Adding, completing, emitting (R190 to R205). -/

/-- Values, element offset and range-in count of a held frame. -/
def heldValues (g : Group) (b : Nat) (h : Held) (child : Bool) : Nat × List (FV × Bool) :=
  if child then (1024 * h.sub, foldElems 1 (h.payload.drop 32) (fEcount h.payload))
  else (0, foldElems g.inFmt (h.payload.drop 32) (g.ecount b))

/-- Adds a held contribution to its block's accumulator. Where the side table has no room, open blocks are spilled until it
has; a frame whose own block was spilled waits in the held store (R191, R192, log 132). -/
def addHeld (s : State) (gn pos i : Nat) : State :=
  match Tbl.find? s.groups gn, s.fblock gn pos with
  | some g, some f =>
    match f.held[i]? with
    | none => s
    | some h =>
      if f.spilled || h.added then s
      else
        let child := match Tbl.find? g.members h.member with | some m => m.child | none => false
        let (off, l) := heldValues g (g.blockAt pos) h child
        let t := addFrame f.elems off (l.map Prod.fst)
        let w := wideCount t - wideCount f.elems
        let s := makeSide (f.acc / 32) w gn pos 3640 s
        if (match s.fblock gn pos with | some y => y.spilled | none => true) || decide (sideFree s (f.acc / 32) < w) then s
        else
          let t := takeSide s (f.acc / 32) w f.elems t
          let s := s.updFB gn pos (fun x => { x with elems := t, held := updAt x.held i (fun y => { y with added := true }) })
          let s := if w = 0 then s else s.count .foldWiden gn w
          let r := (l.filter (fun p => p.2)).length
          if r = 0 then s else s.count .foldRangeIn gn r
  | _, _ => s

/-- Adds every held contribution that waits. -/
def addWaiting (s : State) (gn pos : Nat) : State :=
  match s.fblock gn pos with
  | some f => (upTo f.held.length).foldl (fun s i => addHeld s gn pos i) s
  | none => s

/-- Every block before a step on this device has been emitted (R205). -/
def stepClear (g : Group) (step : Nat) : Bool :=
  (upTo (step * g.nblk - g.oldest)).all (fun i =>
    match Tbl.find? g.blocks (g.oldest + i) with
    | some f => f.st == .sent || f.st == .committed
    | none => false)

/-- Complete blocks whose step has come start to leave (R205). -/
def releaseReady (s : State) (gn : Nat) : State :=
  s.updGroup gn (fun g =>
    { g with blocks := Tbl.mapVals g.blocks (fun pos f =>
        if f.st == .ready && stepClear g (g.stepAt pos) then { f with st := .emitting } else f) })

/-- A block whose contributions are all there and added is complete (R193). -/
def tryComplete (s : State) (gn pos : Nat) : State :=
  match Tbl.find? s.groups gn, s.fblock gn pos with
  | some g, some f =>
    if f.st == .gathering && !f.spilled && missingOf g pos f == 0 && f.held.all (fun h => h.added) && g.st != 3 then
      let s := s.updFB gn pos (fun x => { x with st := if g.root then .ready else .emitting, opened := s.place.foldSeq })
      releaseReady { s with place := { s.place with foldSeq := s.place.foldSeq + 1 } } gn
    else s
  | _, _ => s

/-- Opens a block (R192): its slots are taken, spilling others if none is free; it opens spilled where none can be freed. -/
def openBlock (s : State) (gn pos : Nat) : State :=
  match Tbl.find? s.groups gn with
  | none => s
  | some g =>
    let n := fmtSlots g.inFmt
    let acc := g.accOf pos
    let s := makeRoom (acc / 32) n 16 s
    let l := takeSlots s (acc / 32) n
    let sp := decide (l.length < n)
    let f : FBlock := { slots := if sp then [] else l, acc := acc, opened := s.place.foldSeq, spilled := sp }
    let s := ({ s with place := { s.place with foldSeq := s.place.foldSeq + 1 } }).updGroup gn (fun x =>
      { x with blocks := Tbl.put x.blocks pos f })
    if sp then spillPressure (s.count .foldSpill gn 1) (acc / 32) else s

/-- A block is rebuilt from its held inputs (R200, R298): a damaged held frame fails the group (R202). It keeps its slots; one
that has none on its base die takes some, and stays or becomes spilled where none is free (R192). -/
def rebuildBlock (s : State) (gn pos : Nat) : State :=
  match Tbl.find? s.groups gn, s.fblock gn pos with
  | some g, some f =>
    let die := f.acc / 32
    if f.badHeld then heldFails s gn die (f.held.any (fun h => h.damaged))
    else
      let n := fmtSlots g.inFmt
      let s := s.updFB gn pos (fun x =>
        { x with st := .gathering, elems := [], held := x.held.map (fun h => { h with added := false }) })
      let s := if f.slots.isEmpty && !f.spilled then makeRoom die n 16 s else s
      let l := if f.slots.isEmpty then takeSlots s die n else f.slots
      let sp := decide (l.length < n)
      let s := s.updFB gn pos (fun x => { x with slots := if sp then [] else l, spilled := sp })
      let s := if sp && !f.spilled then s.count .foldSpill gn 1 else s
      tryComplete (addWaiting (spillPressure s die) gn pos) gn pos
  | _, _ => s

/-- The exact elements of a complete block. -/
def blockValues (g : Group) (pos : Nat) (f : FBlock) : List FV :=
  (upTo (g.ecount (g.blockAt pos))).map (fun i => (Tbl.getD f.elems i {}).value)

/-- The frame payloads a complete block gives, without marks and TBC: one RESULT, or PARTIAL sub-frames (R193). -/
def blockFrames (gn : Nat) (g : Group) (pos : Nat) (l : List FV) : List Bytes :=
  let hdr : FHdr := { ty := 3, group := gn, step := g.stepAt pos, block := g.blockAt pos, gen := g.gen }
  if g.root then
    let body := foldBody g.outFmt l
    let vals := (foldElems g.outFmt body l.length).map Prod.fst
    [{ hdr with fmt := g.outFmt, ecount := l.length, bmax := bmaxOf vals }.bytes ++ body]
  else
    (chunks 1024 l.length l).mapIdx (fun i c =>
      let body := foldBody 1 c
      let vals := (foldElems 1 body c.length).map Prod.fst
      { hdr with ty := 2, member := g.pmember, fmt := 1, ecount := c.length, sub := i, bmax := bmaxOf vals }.bytes ++ body)

/-- Sends a RESULT to every member of its step, or only to those that have not acknowledged. -/
def sendResult (s : State) (gn : Nat) (g : Group) (step : Nat) (skip : List Nat) (p : Bytes) : State :=
  (g.expected step).foldl (fun s m => if skip.contains m.1 then s else sendMember s gn g m.2 p) s

/-! Commit (R203, R246). -/

/-- A GROUP_MEMBER change whose step has come completes (R460, R475). -/
def memberStep (s : State) (gn : Nat) : State :=
  match Tbl.find? s.groups gn with
  | none => s
  | some g =>
    match g.memberCmd with
    | some (c, e) =>
      if e ≤ g.stepAt g.oldest then (s.updGroup gn (fun x => { x with memberCmd := none })).finish c stOk 0 e else s
    | none => s

/-- Leading committed blocks leave the window. -/
def advanceOldest (gn : Nat) : Nat → State → State
  | 0, s => s
  | n + 1, s =>
    match Tbl.find? s.groups gn with
    | none => s
    | some g =>
      match Tbl.find? g.blocks g.oldest with
      | some f =>
        if f.st == .committed then
          let s := s.updGroup gn (fun x => { x with blocks := Tbl.del x.blocks x.oldest, oldest := x.oldest + 1 })
          let g := (Tbl.find? s.groups gn).getD {}
          let s := if g.blockAt g.oldest = 0 then
              memberStep (s.updGroup gn (fun x =>
                { x with accBlocks := match x.nextAcc with
                           | some (st, l) => if st ≤ x.stepAt x.oldest then l else x.accBlocks
                           | none => x.accBlocks,
                         nextAcc := match x.nextAcc with
                           | some (st, l) => if st ≤ x.stepAt x.oldest then none else some (st, l)
                           | none => none,
                         k := (x.nextDigest.getD (x.k, 0, 0)).1,
                         digestLen := (x.nextDigest.getD (0, x.digestLen, 0)).2.1,
                         digestWait := (x.nextDigest.getD (0, 0, x.digestWait)).2.2,
                         digests := if (x.nextDigest.getD (1, 0, 0)).1 = 0 then [] else x.digests,
                         nextDigest := none,
                         parentPort := match x.parentPlanned with
                           | some p => if (s.port p).st == .forwarding then p else x.parentPort
                           | none => x.parentPort,
                         parentPlanned := match x.parentPlanned with
                           | some p => if (s.port p).st == .forwarding then none else some p
                           | none => none,
                         members := (Tbl.mapVals x.members (fun _ m =>
                           match m.planned with
                           | some p => if (s.port p).st == .forwarding then { m with port := p, planned := none } else m
                           | none => m)).filter (fun p => match p.2.untilStep with
                             | some u => decide (x.stepAt x.oldest < u)
                             | none => true) })) gn
            else s
          advanceOldest gn n s
        else s
      | none => s

/-- A block commits (R203): its held frames and result go, a child acknowledges to its parent. -/
def commitBlock (s : State) (gn pos : Nat) : State :=
  match Tbl.find? s.groups gn, s.fblock gn pos with
  | some g, some f =>
    let s := s.updFB gn pos (fun x =>
      { x with st := .committed, held := [], result := none, resultBad := false, elems := [], slots := [] })
    let s := if g.root then s else
      sendParent s gn g (withTbc true ({ ty := 4, group := gn, member := g.pmember, ecount := 1, step := g.stepAt pos,
                                         block := g.blockAt pos, gen := g.gen : FHdr }).bytes)
    spillPressure (advanceOldest gn (g.window + 1) s) (f.acc / 32)
  | _, _ => s

/-- A block with a verified result commits once every expected member has acknowledged. -/
def tryCommit (s : State) (gn pos : Nat) : State :=
  match Tbl.find? s.groups gn, s.fblock gn pos with
  | some g, some f =>
    if f.st == .sent && f.result.isSome && (g.expected (g.stepAt pos)).all (fun m => f.acks.contains m.1) then
      commitBlock s gn pos
    else s
  | _, _ => s

/-! Neighbours of the tree (R213, R254). -/

/-- The planned neighbour behind a port, or the device behind a board link (65,536 + link): SYSTEM_ID and device. -/
def neighbourOf (s : State) (p : Nat) : Option (Nat × Nat) :=
  if 65536 ≤ p then some (s.dev.systemId, (s.link (p - 65536)).farPos)
  else
    match Tbl.find? s.plans p with
    | some x => if x.expect = 2 then some (x.systemId, x.device) else none
    | none => none

/-- Another planned path to the neighbour a port faces: another port, or the board link to its device. -/
def otherPath (s : State) (p : Nat) : Option Nat :=
  match neighbourOf s p with
  | none => none
  | some (sys, dev) =>
    match List.find? (fun (q : Nat × Plan) => q.1 != p && q.2.expect == 2 && q.2.systemId == sys &&
        q.2.device == dev && (s.port q.1).st == .forwarding) s.plans with
    | some q => some q.1
    | none => if sys = s.dev.systemId then ((linkTo s dev).map (65536 + ·)).filter (· != p) else none

/-- A tree neighbour of a group is reached through a port. -/
def Group.treeOn (g : Group) (p : Nat) : Bool :=
  (!g.root && g.parentPort == p) || g.members.any (fun m => m.2.child && m.2.port == p)

/-- A group's children and parent that use a port move to another path; their planned port stays known. -/
def movePath (g : Group) (p q : Nat) : Group :=
  { g with members := Tbl.mapVals g.members (fun _ m =>
             if m.port = p ∧ m.child = true then { m with port := q, planned := some (m.planned.getD p) } else m),
           parentPort := if !g.root && g.parentPort == p then q else g.parentPort,
           parentPlanned := if !g.root && g.parentPort == p then some (g.parentPlanned.getD p) else g.parentPlanned,
           missing := Tbl.del g.missing p }

/-- A DEGRADED group that misses no tree neighbour any more is ACTIVE again (R213, R254). -/
def reviveGroup (s : State) (gn : Nat) : State :=
  match Tbl.find? s.groups gn with
  | some g => if g.st = 1 ∧ g.missing.isEmpty = true then setGroupState s gn 0 2 (g.stepAt g.oldest) else s
  | none => s

/-- Placement moves a group to another path to each missing tree neighbour that has one (R254). -/
def retryPaths (s : State) (gn : Nat) : State :=
  let ps := match Tbl.find? s.groups gn with | some g => g.missing.map Prod.fst | none => []
  reviveGroup (ps.foldl (fun s p => match otherPath s p with | some r => s.updGroup gn (fun x => movePath x p r) | none => s) s) gn

/-- The planned neighbour of a port is missing (R213, R254): groups with an endpoint there enter HOLD; groups with a tree
neighbour there enter DEGRADED and move to another path, or wait for one. -/
def neighbourGone (s : State) (p : Nat) : State :=
  s.groups.foldl (fun s q =>
    let g := (Tbl.find? s.groups q.1).getD {}
    let s := if g.treeOn p && g.st != 3 then
        let s := if g.st = 0 then setGroupState s q.1 1 2 (g.stepAt g.oldest) else s
        retryPaths (s.updGroup q.1 (fun x => { x with missing := Tbl.put x.missing p (Tbl.getD x.missing p s.now) })) q.1
      else s
    if g.members.any (fun m => !m.2.child && m.2.port == p) then holdGroup s q.1 g.effective 1 else s) s

/-- A neighbour is there, on a port or behind a board link (R254): groups that missed it, or that now have a path to one they
missed, go on. -/
def neighbourBack (s : State) (p : Nat) : State :=
  s.groups.foldl (fun s q => retryPaths (s.updGroup q.1 (fun x => { x with missing := Tbl.del x.missing p })) q.1) s

end Sys2Proof.Machine
end

