-- ==== Sys2Proof/Machine/Query.lean ====
section
/-! DEFINITION. Queries (chapter 02, 08, 12): parsing SQF content, the flow tracker and the order of a flow, homes and
evaluating blocks, admission, the commit verdict, replies and RETRACT frames. -/

namespace Sys2Proof.Machine

/-! Parsing SQF content (R38 to R45). -/

/-- One located query: its header and feature block; `bad` where R42 makes it 0x22. -/
structure QHead where
  qid : Nat
  ffmt : Nat
  fcount : Nat
  deadline : Nat
  feats : Bytes
  bad : Bool
  deriving DecidableEq, Repr, Inhabited

/-- The located queries of a content after the SQF header, and whether any promised one is missing (R41, R42, R44). -/
def parseQueries : Nat → Bytes → List QHead × Bool
  | 0, _ => ([], false)
  | n + 1, b =>
    if b.length < 8 then ([], true)
    else
      let fmt := byteAt b 3 % 16
      let cnt := be b 2 2 / 16
      let m := cnt * ffmtBytes fmt
      let h : QHead := ⟨be b 0 2, fmt, cnt, be b 4 2, slice b 8 m, cnt == 0 || decide (1024 < cnt)⟩
      if 4 < fmt || decide (b.length < 8 + m) then ([{ h with bad := true }], decide (0 < n))
      else
        let (l, miss) := parseQueries n (b.drop (8 + (m + 3) / 4 * 4))
        (h :: l, miss)

/-- The content is a QUERY of version 1 (R37, R38). -/
def sqfOk (b : Bytes) : Bool := decide (16 ≤ b.length) && byteAt b 0 == 0x11

/-! The flow tracker (R46, R396, R397). -/

/-- KEY_ADDR of a host flow: host port and function. -/
def hostKey (fn : Nat) : Nat := fn / 64 + fn % 64 * 256
/-- The 16 bytes of KEY_ADDR as they lie in the entry. -/
def keyBytes (host : Bool) (a : Nat) : Bytes := if host then leBytes 16 a else beBytes 16 a
/-- First handle of a key's bucket. -/
def bucketOf (s : State) (host : Bool) (a fid : Nat) : Nat :=
  (crc32c (beBytes 4 s.dev.hashSeed ++ [BitVec.ofNat 8 (b2n host)] ++ keyBytes host a ++ beBytes 4 fid)).toNat % 2 ^ 18 * 16

/-- The entry of a key. -/
def findFlow (s : State) (host : Bool) (a fid : Nat) : Option Nat :=
  let b := bucketOf s host a fid
  (upTo 16).findSome? (fun i =>
    match Tbl.find? s.flows (b + i) with
    | some f => if f.host == host && f.keyAddr == a && f.flowId == fid then some (b + i) else none
    | none => none)

/-- Requests of a flow, in arrival order. -/
def flowReqs (s : State) (h : Nat) : List (Nat × Request) :=
  List.filter (fun (p : Nat × Request) => p.2.handle == some h) s.reqs

/-- Queries of a request that count as in flight. -/
def reqInflight (q : Request) : Nat :=
  if q.verdict.isNone then q.recs.length + b2n q.missing
  else (q.recs.filter (fun r => !r.built)).length + b2n (q.missing && !q.missingBuilt)

/-- INFLIGHT of a flow (R397). -/
def flowInflight (s : State) (h : Nat) : Nat := (flowReqs s h).foldl (fun a p => a + reqInflight p.2) 0

/-- A slot of the key's bucket for a new entry: free, or the least recently used with no query in flight (R46, R396). -/
def flowSlot (s : State) (host : Bool) (a fid : Nat) : Option Nat :=
  let b := bucketOf s host a fid
  match (upTo 16).find? (fun i => !Tbl.has s.flows (b + i)) with
  | some i => some (b + i)
  | none =>
    let idle := (upTo 16).filter (fun i => flowInflight s (b + i) == 0)
    let use_ := fun (i : Nat) => match Tbl.find? s.flows (b + i) with | some f => f.lastUse | none => 0
    (sortBy use_ idle).head?.map (b + ·)

/-- d of R47 for a request at a flow entry. -/
def seqDiff (f : Flow) (seq : Nat) : Int := diff32 seq f.nextSeq

/-- A request is held ahead of a gap (R47, R49). -/
def heldAhead (f : Flow) (q : Request) : Bool :=
  q.order == .seq && !q.passed && !q.noHold && q.verdict != some false && decide (0 < seqDiff f q.seq)

/-- Advances NEXT_SEQ past requests whose verdict is good (R47, R48, R49). -/
def advanceSeq (h : Nat) : Nat → State → State
  | 0, s => s
  | n + 1, s =>
    match Tbl.find? s.flows h with
    | none => s
    | some f =>
      match (flowReqs s h).find? (fun p => p.2.order == .seq && !p.2.passed && p.2.verdict == some true &&
          (seqDiff f p.2.seq == 0 || (p.2.noHold && decide (0 < seqDiff f p.2.seq)))) with
      | some (r, q) =>
        advanceSeq h n ((s.updReq r (fun x => { x with passed := true, fromSeq := f.nextSeq })).updFlow h
          (fun x => { x with nextSeq := (q.seq + 1) % 2 ^ 32 }))
      | none => s

/-- A flow after something changed: NEXT_SEQ and the gap wait (R47 to R49). The gap runs up to the lowest number held when
it was first seen; it has filled once NEXT_SEQ has come to that number, and only then does a further gap start a wait of its
own (log 137). -/
def settleFlow (s : State) (h : Nat) : State :=
  let s := advanceSeq h s.reqs.length s
  match Tbl.find? s.flows h with
  | none => s
  | some f =>
    match (flowReqs s h).filter (fun p => heldAhead f p.2) with
    | [] => s.updFlow h (fun x => { x with gapEnd := 0 })
    | (_, q) :: t =>
      let low := t.foldl (fun a p => if seqDiff f p.2.seq < seqDiff f a then p.2.seq else a) q.seq
      if f.gapEnd = 0 || decide (seqDiff f f.gapTo ≤ 0) then
        s.updFlow h (fun x => { x with gapEnd := s.cycle + q.gapCycles, gapTo := low })
      else s

/-- Another request of the flow with this number, first in order (R48). -/
def rivalOf (s : State) (h r seq : Nat) : Option Request :=
  ((flowReqs s h).find? (fun p => decide (p.1 < r) && p.2.order == .seq && p.2.seq == seq &&
    p.2.verdict != some false)).map Prod.snd

/-- Where a request stands in its flow (R47, R48). -/
def orderOf (s : State) (h r seq : Nat) : Order :=
  match Tbl.find? s.flows h with
  | none => .free
  | some f =>
    match rivalOf s h r seq with
    | some q => if q.verdict.isNone then .copy else .late
    | none => if seqDiff f seq < 0 then .late else .seq

/-! Homes and evaluating blocks (R241, R242). -/

/-- Threads on a block. -/
def threadsOn (s : State) (b : Nat) : Nat := (s.threads.filter (fun p => p.1 / 4096 == b)).length

/-- Holding blocks of a model's replicas that take new work: (block, replica). -/
def holdingBlocks (s : State) (m : Nat) : List (Nat × Nat) :=
  (s.curVer m).replicas.flatMap (fun r =>
    if r.2.draining then []
    else ((r.2.slices.filter (fun x => x.dev.isNone && !(s.block x.block).fenced && !(s.block x.block).draining &&
      !(s.block x.block).failed)).map Slice.block).map (fun b => (b, r.1)))

/-- The block the rule of R241 chooses. -/
def chooseHome (s : State) (m die : Nat) : Option (Nat × Nat) :=
  let c := holdingBlocks s m
  let near := c.filter (fun p => p.1 / 32 == die)
  ((sortBy (fun (p : Nat × Nat) => threadsOn s p.1 * 64 + p.1) (if near.isEmpty then c else near)).head?)

/-- The evaluating block of a frame: the home if a replica of its model holds it, else by the same rule (R242). -/
def chooseEval (s : State) (m die : Nat) (home : Option Nat) : Option (Nat × Nat) :=
  match home with
  | some b =>
    match (holdingBlocks s m).find? (fun p => p.1 == b) with
    | some p => some p
    | none => chooseHome s m die
  | none => chooseHome s m die

/-! Admission (R259 to R261, R289, R568). -/

/-- Lane-cycles on the busiest lane of a slice per query (R124). -/
def laneCycles (img : Bytes) (x : Slice) : Nat :=
  ((upTo 16).map (fun l =>
    ((x.comps.filter (fun c => c.bit / 256 == l)).map (fun c => thrPrep img c.pred)).eraseDups.length)).foldl max 0

/-- Some rule has more than 12 cared bits (R125). -/
def deepRules (img : Bytes) : Bool :=
  (upTo (ntrees img)).any (fun k =>
    let d := treeDir img k
    (upTo d.rcount).any (fun i => decide (12 < popcount 512 (treeRule img d i).2)))

/-- Lookup-cycles of a replica's trees on the busiest bank of a slice. -/
def bankLoad (img : Bytes) (x : Slice) : Nat :=
  ((upTo 64).map (fun b => (x.trees.filter (fun p =>
    p.bank == b || (p.bank + 1 == b && (treeDir img p.tree).gang))).length)).foldl max 0

/-- The latency bound in cycles for a query that takes `n` bytes at a port rate, where it applies (R1, R124, R125). -/
def latBound (img : Bytes) (r : Replica) (rate n : Nat) : Option Nat :=
  let ok := imgKind img == 0 && !imgOrdered img && r.slices.all (fun x => x.dev.isNone &&
    decide (x.trees.foldl (fun a p => a + ruleUnits (treeDir img p.tree)) 0 ≤ 256) && decide (bankLoad img x ≤ 4) &&
    decide (laneCycles img x * rate ≤ 10 * n))
  if ok then
    some (80 + 16 * ceilDiv (ntrees img - 1024) 1024 + (if deepRules img then 2 else 0) + hookCycles (prepSec img))
  else none

/-- A thread has left the stage of its model that saturates first (R255, R259): the banks or the lanes of a tree model,
whichever need more cycles, the combine stage with SUM_ORDERED, the gathers of a neural model with bags; a neural model
without bags is taken to leave with its last layer (log 22). -/
def leftStage (img : Bytes) (r : Replica) (t : Thread) : Bool :=
  t.done ||
    (if imgKind img = 0 then
       !imgOrdered img && r.slices.all (fun x => x.dev.isSome || x.trees.all (fun p =>
         if imgLaneCyc img ≤ imgBankCyc img then Tbl.has t.matched p.tree
         else Tbl.has t.matched p.tree || t.queued.contains p.tree))
     else
       let bags := fun (i : Nat) => (layerAt img i).nbag != 0
       (upTo (nlayer img)).any bags &&
         !(upTo (nlayer img)).any (fun i => bags i && (decide (t.layer < i) || (i == t.layer && t.phase == .bags))))

/-- BACKLOG of a replica (R259, R261): admitted queries that have not left its saturating stage, and those that were held
ahead of a gap until their replies are built. -/
def backlog (s : State) (m ver rep : Nat) : Nat :=
  let v := Tbl.getD (s.model m).vers ver {}
  let r := Tbl.getD v.replicas rep {}
  (s.threads.filter (fun p => p.2.model == m && p.2.ver == ver && p.2.replica == rep &&
    (!leftStage v.image r p.2 || (match s.req p.2.req with | some q => q.heldGap | none => false)))).length

/-- Granules of the query hold in use on a base die (R289). -/
def holdUsed (s : State) (die : Nat) : Nat :=
  s.reqs.foldl (fun a p => if p.2.die = die then a + p.2.granules else a) 0

/-- A record gets a status before admission or at it (R568 steps 1 to 3). -/
def State.refuse (s : State) (r i st : Nat) : State :=
  s.updRec r i (fun x => { x with status := st, early := true, ready := true })

/-- A query is refused with 0x10 and its counter (R269, R270); a refusal by the estimate is what a sample looks for
(R258). -/
def State.busy (s : State) (r i m : Nat) (c : CName) : State :=
  ((s.refuse r i 0x10).count c m 1).updModel m (fun x => { x with refused := x.refused || c == .busyEst })

/-- Admission of one query (R259, R270): its thread starts, or it is BUSY. -/
def admitOne (r i : Nat) (h : QHead) (ev : Option (Nat × Nat)) (hold full : Bool) (rate : Option Nat) (s : State) : State :=
  match s.req r with
  | none => s
  | some q =>
    let m := s.model q.model
    let v := s.curVer q.model
    let img := v.image
    let td := s.cycle + 1250 * (if h.deadline = 0 then v.args.deadline else h.deadline)
    let busy := fun (c : CName) => s.busy r i q.model c
    match ev with
    | none => busy .busySlot
    | some (b, k) =>
      let rep := Tbl.getD v.replicas k {}
      let lat := match rate with
        | some g => (latBound img rep g (8 + h.feats.length)).getD (imgLatEst img)
        | none => imgLatEst img
      let w := backlog s q.model m.ver k * max (imgSvc img) rep.measured
      if td < s.cycle + w + lat then busy .busyEst
      else if !hold then busy .busySlot
      else
        match Tbl.freeKey s.threads (b * 4096) 4096 with
        | none => busy .busySlot
        | some tid =>
          if full then busy .busyFlow
          else
            let t : Thread := { req := r, qi := i, model := q.model, ver := m.ver, replica := k, ffmt := h.ffmt,
                                fcount := h.fcount, raw := loadAll true h.ffmt h.fcount h.feats, tArrive := s.cycle,
                                tDeadline := td }
            let s := { s with threads := Tbl.put s.threads tid t }
            let s := s.updModel q.model (fun x => { x with admitted := x.admitted + 1 })
            let s := s.updRec r i (fun x => { x with thread := some tid })
            startThread s tid

/-- The index names a COLLECTOR entry that holds an address of the family (R39). -/
def collectorAt (s : State) (v6 : Bool) (i : Nat) : Option (Nat × Nat) :=
  match Tbl.find? s.dev.collector i with
  | some (a, p) => if a != 0 && (isMapped a == !v6) then some (a, p) else none
  | none => none

/-- Status of a query found while it is parsed (R568 step 2). -/
def parseStatus (img : Bytes) (h : QHead) : Option Nat :=
  if h.bad then some 0x22
  else if !bit (imgAccept img) h.ffmt || h.fcount != imgNraw img then some 0x21
  else none

/-- The hardened descriptor of a context is lost (R275). -/
def modelLost (s : State) (m : Nat) : Bool := s.place.lost.any (fun l => l.obj == .model m)

/-! Flow entries that are lost (R50, R221, R277, R280, R299). -/

/-- A built record's thread slot is free again (R26). -/
def dropThread (s : State) (tid : Nat) : State :=
  let s := s.dropCtxOf tid
  { s with threads := Tbl.del s.threads tid }

/-- A request's threads end, and the records they belong to wait for nothing. -/
def cancelThreads (s : State) (r : Nat) : State :=
  (List.filter (fun (p : Nat × Thread) => p.2.req == r) s.threads).foldl (fun s p => dropThread s p.1) s

/-- A flow entry goes: what is left of its requests keeps its place before those of an entry made anew (R50). -/
def dropFlow (s : State) (h : Nat) : State :=
  { s with flows := Tbl.del s.flows h,
           reqs := Tbl.mapVals s.reqs (fun _ q => if q.handle == some h then
             { q with handle := none, order := if q.order == .late then .late else .lost, released := true } else q) }

/-- A flow entry is lost (R50, R277, R299): its queries in flight are answered 0x32 RESYNC. -/
def loseFlow (s : State) (h : Nat) : State :=
  let rs := (flowReqs s h).map Prod.fst
  dropFlow (rs.foldl (fun s r =>
    (cancelThreads s r).updReq r (fun q =>
      { q with recs := q.recs.map (fun x =>
          if x.built then x else { x with status := 0x32, early := true, ready := true, thread := none, scores := [] }) })) s) h

/-- The granule of HBM that holds a tracker entry: by its bucket in its stack's quarter (R221, R396; log 125). -/
def flowGranule (h : Nat) : Nat := h / 16 % 4 * 2 ^ 31 + 0x7C000000 + h / 64 * 16 + h % 16
/-- A tracker entry is read: it is lost with its cache line or its granule (R277, R280). -/
def readFlow (s : State) (old : Option Nat) (upset : Upset) : State :=
  match old with
  | some h => if upset == .flow || s.poison.contains (flowGranule h) then loseFlow s h else s
  | none => s

/-- What the protection of the query hold finds as a request is held (R277, R304, R306). -/
def heldCell (s : State) (die : Nat) (upset : Upset) : State :=
  match upset with
  | .corrected => (s.count .eccCorrected 0 1).integ { fcode := 0x0110, sev := 0, unitKind := 9, unit := die, detail := 1 }
  | .hold => (s.count .poisonSet 0 1).integ { fcode := 0x0111, sev := 1, unitKind := 9, unit := die, detail := 1 }
  | _ => s

/-- Enters a request: its flow, its order, the status of each query or its admission (R46 to R49, R241, R242, R259,
R568). `q` carries what the frame or descriptor says; `b` is the SQF content. A request that names an unloaded context waits the
default deadline of 1 µs for a gap, and a late reply to it has NOUT 0; a 0x20 reply shows no NOUT and no collector of the context
(log 137). -/
def acceptRequest (s0 : State) (q : Request) (host allowed : Bool) (b : Bytes) (rate : Option Nat) (upset : Upset) : State :=
  let s := heldCell (readFlow s0 (findFlow s0 host q.keyAddr (be b 8 4)) upset) q.die upset
  let r := s.nextReq
  let model := be b 2 2 / 16
  let fid := be b 8 4
  let seq := be b 12 4
  let flags := byteAt b 1
  let v := s.curVer model
  let img := v.image
  let (hs, missing) := parseQueries (byteAt b 4 % 64 + 1) (b.drop 16)
  let old := findFlow s host q.keyAddr fid
  let slot := if allowed then flowSlot s host q.keyAddr fid else none
  let s := match old, slot with
    | none, some h =>
      let f : Flow := { keyAddr := q.keyAddr, flowId := fid, host := host, nextSeq := seq }
      let s := dropFlow s h
      { s with flows := Tbl.put s.flows h f, poison := s.poison.filter (· != flowGranule h) }
    | _, _ => s
  let handle := match old with | some h => some h | none => slot
  let s := match handle with | some h => s.updFlow h (fun f => { f with lastUse := s.cycle }) | none => s
  let flow := match handle with | some h => (Tbl.find? s.flows h).getD {} | none => {}
  let ord := match handle with | some h => orderOf s h r seq | none => .free
  let dflt := v.args.deadline
  let gap := if flow.gapWait = 0xFFFFFFFF then dflt else flow.gapWait
  let wide := if ord == .late then some 0x11 else if !allowed then some 0x20
    else if (s.model model).st = 4 || modelLost s model then some 0x30 else none
  let hidden := wide == some 0x20
  let coll := if host || !bit flags 7 then none
    else match collectorAt s q.v6 flow.collector with
      | some c => some c
      | none => if hidden then none else collectorAt s q.v6 v.args.collector
  let fell := !host && bit flags 7 && coll.isNone
  let spec := !host && bit flags 6
  let room := decide (holdUsed s q.die + ceilDiv b.length 64 ≤ s.place.qhold * 16384)
  let rq : Request :=
    { q with model := model, flowId := fid, seq := seq, collector := coll, spec := spec, split := spec && bit flags 5,
             bf16 := bit flags 4 || (!hidden && imgScoreBf16 img), handle := handle, order := ord, arrival := r,
             noHold := gap == 0, heldGap := ord == .seq && gap != 0 && decide (0 < seqDiff flow seq), gapCycles := gap * 1250,
             recs := hs.map (fun h => { qid := h.qid }), missing := missing, nout := if hidden then 0 else imgNout img,
             tArrive := s.cycle, verdictAt := s.now + 9600, granules := if room then ceilDiv b.length 64 else 0, content := if room then b else [],
             heldBad := upset == .hold }
  let s := { s with reqs := Tbl.put s.reqs r rq, nextReq := r + 1 }
  let s := if fell then s.count .collectorFall 0 1 else s
  let s := match handle, wide with
    | some h, w =>
      if flow.home.isNone && allowed && w != some 0x20 then
        s.updFlow h (fun f => { f with home := (chooseHome s model q.die).map Prod.fst })
      else s
    | _, _ => s
  let home := match handle with | some h => (match Tbl.find? s.flows h with | some f => f.home | none => none) | none => none
  let goal := match handle with | some h => (match Tbl.find? s.flows h with | some f => f.moving | none => none) | none => none
  let ev := if wide.isNone then chooseEval s model q.die (match goal with | some b => some b | none => home) else none
  let s := s.updReq r (fun x =>
    { x with evalBlock := ev.map Prod.fst, released := home.isNone || ev.isNone || ev.map Prod.fst == home })
  let full := allowed && handle.isNone
  let s := (hs.mapIdx (fun i h => (i, h))).foldl (fun s p =>
    match wide with
    | some st => s.refuse r p.1 st
    | none =>
      match parseStatus img p.2 with
      | some 0x21 =>
        let s := s.refuse r p.1 0x21
        if bit (imgAccept img) p.2.ffmt then s else s.count .prepFormat model 1
      | some st => s.refuse r p.1 st
      | none => admitOne r p.1 p.2 ev room full rate s) s
  match handle with
  | some h => settleFlow s h
  | none => s

/-- The VID a port query is judged by (R456). -/
def queryVid (s : State) (p : Nat) (k : Pkt) : Nat :=
  match k.tags with
  | (_, t) :: _ => if t % 4096 = 0 then (s.port p).cfg.nativeVlan else t % 4096
  | [] => (s.port p).cfg.nativeVlan

/-- A context admits a port's frame in the sense of R46. -/
def admitsPort (s : State) (m p : Nat) (k : Pkt) : Bool :=
  let a := (s.curVer m).args
  ((s.model m).st == 2 || (s.model m).st == 4) && bit a.admitPorts (p / 8) &&
    (a.admitVlan.all (· == 0) || a.admitVlan.any (fun v => v != 0 && v == queryVid s p k))

/-- A context admits a function's host queries. -/
def admitsHost (s : State) (m fn : Nat) : Bool :=
  ((s.model m).st == 2 || (s.model m).st == 4) && (s.curVer m).args.hostq && (s.model m).owner == fn

/-- QUERY_FRAME (R34 to R49, R259, R277, R568, R569). -/
def execQueryFrame (port : Nat) (frame : Bytes) (upset : Upset) (s : State) : Res :=
  onObj s (okPort port)
    (let k := parsePkt s.dev.tpid frame
     if !rxAlive s port || frame.length < 64 then s
     else
       match queryIp s frame k with
       | none => if badQueryHdr s k && !rxBlocked s port then s.count .sqfDrop port 1 else s
       | some ip =>
         if rxBlocked s port || (s.port port).st == .opened then s.count .rxBlocked port 1
         else
           let b := udpPayload frame ip
           if !sqfOk b then s.count .sqfDrop port 1
           else
             let q : Request :=
               { src := .port port, smac := k.smac, tag := k.tags.head?, v6 := ip.v6, ipSrc := ip.src, ipDst := ip.dst,
                 tos := ip.tos, udpS := udpSrc frame ip, udpD := udpDst frame ip, model := 0, flowId := 0, seq := 0,
                 keyAddr := ip.src, checksGood := macGood s port frame && lengthsOk frame ip && udpSumOk frame ip,
                 die := dieOf port }
             acceptRequest s q false (admitsPort s (be b 2 2 / 16) port k) b (some (portRate s port)) upset)

/-! Replies to a host (R71, R451). -/

/-- The reply descriptor without PHASE (R451). -/
def replyDesc (rstatus n len tag fid seq model : Nat) : Bytes :=
  zeros 1 ++ leBytes 1 rstatus ++ leBytes 2 n ++ leBytes 4 len ++ leBytes 8 tag ++ leBytes 4 fid ++ leBytes 4 seq ++
    leBytes 2 model ++ zeros 38

/-- A host reply waits for its ring. -/
def queueHostReply (s : State) (fn ring : Nat) (x : HostReply) : State :=
  (s.updFn fn (fun f => { f with replies := Tbl.put f.replies ring (Tbl.getD f.replies ring [] ++ [x]) })).drainFn fn

/-- HOST_QUERY (R71, R450, R451): the oldest fetched descriptor of a query ring, with what the read of its request gave. -/
def execHostQuery (fn ring : Nat) (req : Dma) (upset : Upset) (s : State) : Res :=
  onObj s (okFn fn && decide (ring < 4))
    (match Tbl.getD (s.fn fn).queryQ ring [] with
     | [] => s
     | d :: t =>
       if !s.live || s.power.st ≠ 0 || s.power.transit != .none then s
       else
         let s := s.updFn fn (fun f => { f with queryQ := Tbl.put f.queryQ ring t })
         let tag := le d 0x10 8
         let len := le d 8 4
         let fail := fun (st fid seq m : Nat) => queueHostReply s fn ring ⟨replyDesc st 0 0 tag fid seq m, [], none⟩
         if le d 0 8 % 4 ≠ 0 || len < 28 || 262672 < len || !allZero (slice d 0x0C 4) || !allZero (d.drop 0x18) then
           fail 3 0 0 0
         else
           match req with
           | .err _ => fail 1 0 0 0
           | .data b0 =>
             let b := padTo len (b0.take len)
             if !sqfOk b then fail 4 (be b 8 4) (be b 12 4) (be b 2 2 / 16)
             else
               let q : Request := { src := .host fn ring tag, model := 0, flowId := 0, seq := 0, keyAddr := hostKey fn,
                                    die := fn / 128, verdict := some true, framesOut := 1 }
               acceptRequest s q true (admitsHost s (be b 2 2 / 16) fn) b none upset)

/-! Reply frames (R55 to R58, R62, R567, R570). -/

/-- The score area of a record (R56). -/
def scoreArea (bf : Bool) (nout : Nat) (sc : List Nat) : Bytes :=
  padMul 4 ((upTo nout).flatMap (fun i =>
    if bf then beBytes 2 (cvtFmt fp32 bf16 (sc.getD i 0)).1 else beBytes 4 (sc.getD i 0)))

/-- A reply record (R56). -/
def recordBytes (q : Request) (r : QRec) : Bytes :=
  let ok := r.status == 0
  beBytes 2 r.qid ++ beBytes 1 r.status ++ beBytes 1 (if ok then q.nout else 0) ++
    scoreArea q.bf16 q.nout (if ok then r.scores else [])

/-- The record that stands for every missing query (R44). -/
def missingRec : QRec := { qid := 0xFFFF, status := 0x22 }

/-- The SQF header of a reply (2) or RETRACT frame (3) of `n` records. -/
def replyHeader (q : Request) (ty n : Nat) : Bytes :=
  beBytes 1 (0x10 + ty) ++
    beBytes 1 (b2n q.collector.isSome * 128 + b2n (q.spec || ty == 3) * 64 + b2n q.split * 32 + b2n q.bf16 * 16) ++
    beBytes 2 (q.model * 16) ++ beBytes 1 (n - 1) ++ zeros 3 ++ beBytes 4 q.flowId ++ beBytes 4 q.seq

/-- A frame from its destination address to before its FCS, around SQF content without its trailer (R55, R57). -/
def sqfFrame (s : State) (q : Request) (ingress : Nat) (dmac smac : Nat) (body : Bytes) : Bytes :=
  let (dst, dport) := q.replyTo
  let n := 8 + body.length + 4
  let own := (s.port ingress).cfg.replyTtl
  let ttl := if own = 0 then s.dev.replyTtl else own
  let udp := beBytes 2 q.udpD ++ beBytes 2 dport ++ beBytes 2 n ++ beBytes 2 (if q.v6 then 0xFFFF else 0) ++ body ++ zeros 2
  let adj := if q.v6 then 0xFFFF - onesSum (pseudoHdr true q.ipDst dst n ++ udp ++ zeros 2) else 0
  ethHdr dmac smac q.tag (ipEtype q.v6) ++ ipHdr q.v6 q.ipDst dst (q.tos / 4 * 4) ttl n ++ udp ++ beBytes 2 adj

/-- Where a reply leaves: egress port and destination MAC, none where it is dropped (R55, R381, R570). -/
def replyRoute (s : State) (q : Request) (ingress : Nat) : Option (Nat × Nat) :=
  let dst := q.replyTo.1
  match lookupIp s (s.port ingress).cfg.vrf q.v6 dst with
  | none => if q.collector.isSome then none else some (ingress, q.smac)
  | some (tab, key, r) =>
    if entryLost s tab key || 2 < r.rkind then none
    else
      let h := (crc32c (beBytes 4 s.dev.hashSeed ++ hashAddr q.v6 dst ++ beBytes 4 q.flowId)).toNat
      match (resolveHop s r h 0 false).2 with
      | some n => some (n.port, n.dmac)
      | none => none

/-- The route a reply selects is lost (R275). -/
def replyLost (s : State) (q : Request) (ingress : Nat) : Bool :=
  let dst := q.replyTo.1
  match lookupIp s (s.port ingress).cfg.vrf q.v6 dst with
  | none => false
  | some (tab, key, r) =>
    entryLost s tab key || hopLost s r (crc32c (beBytes 4 s.dev.hashSeed ++ hashAddr q.v6 dst ++ beBytes 4 q.flowId)).toNat 0 false

/-- Puts a frame of a request into the reply queue of its egress port, or drops and counts it (R358, R570). The second
answer says whether it was queued. -/
def queueReply (s : State) (r : Nat) (q : Request) (f : Bytes → TxFrame) (body : Bytes) : State :=
  match q.src with
  | .host _ _ _ => s
  | .port ing =>
    if replyLost s q ing then s.count .fwdHardDrop 0 1
    else match replyRoute s q ing with
    | none => s.count .replyDrop ing 1
    | some (p, dmac) =>
      let mac := (s.port p).cfg.macAddr
      if mac = 0 then s.count .replyDrop p 1
      else if !portUp (s.port p) then s.count .txDownDrop p 1
      else
        let x := f (sqfFrame s q ing dmac mac body)
        ({ s with relNo := s.relNo + 1 }.updPort p (fun y => { y with replyQ := y.replyQ ++ [{ x with relNo := s.relNo }] })).updReq r (fun y => { y with framesOut := y.framesOut + 1 })

/-- A reply frame of some records; `idx` are their query indices. -/
def queueRecords (s : State) (r : Nat) (q : Request) (recs : List (Nat × QRec)) : State :=
  queueReply s r q (fun b => { bytes := b, kind := .reply r, gate := if q.spec then none else some r,
                               recs := recs.map Prod.fst })
    (replyHeader q 2 recs.length ++ recs.flatMap (fun p => recordBytes q p.2))

/-- Bytes of a reply frame around its records, FCS included. -/
def replyOverhead (q : Request) : Nat := 14 + (if q.tag.isSome then 4 else 0) + (if q.v6 then 40 else 20) + 8 + 16 + 4 + 4

/-- All records of a request as frames (R58, R567): as many whole records per frame as MAX_FRAME of the egress port takes. -/
def queueWhole (s : State) (r : Nat) (q : Request) : State :=
  let recs := (q.recs ++ (if q.missing then [missingRec] else [])).mapIdx (fun i x => (i, x))
  match q.src with
  | .host _ _ _ => s
  | .port ing =>
    let max_ := match replyRoute s q ing with | some (p, _) => (s.port p).cfg.maxFrame | none => 9216
    let per := (max_ - replyOverhead q) / (recordBytes q missingRec).length
    (chunks (max per 1) recs.length recs).foldl (fun s c => queueRecords s r q c) s

/-- A host request's answer (R71, R451). -/
def queueHost (s : State) (r : Nat) (q : Request) : State :=
  match q.src with
  | .port _ => s
  | .host fn ring tag =>
    let recs := q.recs ++ (if q.missing then [missingRec] else [])
    let b := recs.flatMap (recordBytes q)
    let big := decide (((s.fn fn).ring (7 + ring)).stride * 64 < b.length)
    let d := if big then replyDesc 2 0 0 tag q.flowId q.seq q.model
      else replyDesc 0 recs.length b.length tag q.flowId q.seq q.model
    queueHostReply s fn ring ⟨d, if big then [] else b, some r⟩

/-! Order and reply build (R47, R50, R69). -/

/-- All records of a request are built. -/
def recsBuilt (q : Request) : Bool := q.recs.all QRec.built && (!q.missing || q.missingBuilt)

/-- A request is answered as far as the order of its flow goes: every reply built, the verdict known, no RETRACT copy to
come (R47, R63). -/
def Request.answered (q : Request) : Bool := q.allBuilt && q.verdict.isSome && q.retractAt.isNone

/-- The request's replies may be built now, as far as its flow's order goes (R46, R47, R49, R50, R63). -/
def mayBuild (s : State) (r : Nat) (q : Request) : Bool :=
  match q.order with
  | .late => true
  | .copy => false
  | .free => s.reqs.all (fun p => decide (r ≤ p.1) || p.2.order != .free || p.2.handle.isSome || !p.2.sameFlow q ||
      p.2.answered)
  | .lost => s.reqs.all (fun p => p.1 == r || p.2.order != .lost || !p.2.sameFlow q ||
      decide (0 < diff32 p.2.seq q.seq) || (p.2.seq == q.seq && decide (r ≤ p.1)) || p.2.answered)
  | .seq =>
    match q.handle with
    | none => true
    | some h =>
      match Tbl.find? s.flows h with
      | none => true
      | some f =>
        (q.passed || q.noHold || decide (seqDiff f q.seq ≤ 0)) && (f.moving.isNone || f.moving != q.evalBlock) &&
          (flowReqs s h).all (fun p => p.1 == r || p.2.order != .seq || decide (0 < diff32 p.2.seq q.seq) ||
            (p.2.seq == q.seq && decide (r ≤ p.1)) || p.2.answered) &&
          s.reqs.all (fun p => decide (r ≤ p.1) || p.2.order != .lost || !p.2.sameFlow q || p.2.answered)

/-- A record is built: with SPLIT its frame is queued; the last record queues the reply frames or the host reply. -/
def recordBuilt (s : State) (r qi : Nat) (rec : QRec) : State :=
  match s.req r with
  | none => s
  | some q =>
    let s := if q.split then queueRecords s r q [(qi, rec)] else s
    if !recsBuilt q then s
    else
      let s := s.updReq r (fun x => { x with allBuilt := true })
      let s := match q.src with
        | .host _ _ _ => queueHost s r q
        | .port _ => if q.split then s else queueWhole s r q
      let s := match s.req r with
        | some q => if q.framesOut = 0 then s.freeHold r else s
        | none => s
      retire s r

/-- REPLY_BUILD (R26, R47, R50, R56, R58, R69, R242, R277, R457): in query order; the record that stands for missing queries comes
last. A thread whose context is read with bad parity is replayed instead. -/
def execReplyBuild (req : Nat) (read : RecordRead) (s : State) : Res :=
  let qi := read.qi
  .next (match s.req req with
    | none => s
    | some q =>
      if q.allBuilt || q.verdict == some false || !q.released || !mayBuild s req q ||
          !(q.recs.take qi).all QRec.built then s
      else if qi = q.recs.length then
        if q.missing && !q.missingBuilt then
          recordBuilt (s.updReq req (fun x => { x with missingBuilt := true })) req qi missingRec
        else s
      else
        match q.recs[qi]? with
        | none => s
        | some rec =>
          if !rec.ready || rec.built then s
          else if read.parity && rec.thread.isSome then
            replayThread (s.updRec req qi (fun x => { x with ready := false, scores := [] })) (rec.thread.getD 0)
          else
            let late := !rec.early && rec.status != 0x31 && (match rec.thread with
              | some t => (match Tbl.find? s.threads t with | some x => decide (x.tDeadline < s.cycle) | none => false)
              | none => false)
            let rec' := if late then { rec with status := 0x11, scores := [], built := true } else { rec with built := true }
            let s := if late then s.count .admitLate q.model 1 else s
            let s := match rec.thread with | some t => dropThread s t | none => s
            recordBuilt (s.updRec req qi (fun _ => { rec' with thread := none })) req qi rec')

/-- REPLY_POSITION_RELEASE (R242): the home block releases the flow's next reply position to the evaluating block. -/
def execReplyPositionRelease (req : Nat) (s : State) : Res :=
  .next (match s.req req with
    | some q => if mayBuild s req q then s.updReq req (fun x => { x with released := true }) else s
    | none => s)

/-! The commit verdict (R48, R59 to R64). -/

/-- A copy of a request whose number NEXT_SEQ has passed is late: every query 0x11, the admitted ones counted in ADMIT_LATE
(R47, R48, R270). -/
def makeLate (s : State) (r : Nat) : State :=
  let s := match s.req r with
    | some q => s.count .admitLate q.model (q.recs.filter (fun x => x.thread.isSome)).length
    | none => s
  (cancelThreads s r).updReq r (fun q =>
    { q with order := .late, recs := q.recs.map (fun x =>
        { x with status := 0x11, early := true, ready := true, thread := none, scores := [] }) })

/-- The copies of a flow that no earlier verdict holds back any more are classified (R48). -/
def sortCopies (h : Nat) : Nat → State → State
  | 0, s => s
  | n + 1, s =>
    match (flowReqs s h).find? (fun p => p.2.order == .copy && orderOf s h p.1 p.2.seq != .copy) with
    | none => s
    | some (r, q) =>
      let ahead := match Tbl.find? s.flows h with | some f => decide (0 < seqDiff f q.seq) | none => false
      let s := if orderOf s h r q.seq == .late then makeLate s r
        else s.updReq r (fun x => { x with order := .seq, heldGap := x.heldGap || (ahead && !x.noHold) })
      sortCopies h n (settleFlow s h)

/-- The flow of a request after its verdict. -/
def settleVerdict (s : State) (q : Request) : State :=
  match q.handle with
  | some h => sortCopies h s.reqs.length (settleFlow s h)
  | none => s

/-- Withdraws the frames of a request that no byte has left of; a frame in transmission is marked to end stomped. -/
def withdrawFrames (s : State) (r : Nat) : State :=
  let keep := fun (f : TxFrame) => f.kind != .reply r
  let gone := s.ports.foldl (fun a p => a + (p.2.replyQ.filter (fun f => !keep f)).length) 0
  ({ s with ports := Tbl.mapVals s.ports (fun _ x =>
      { x with replyQ := x.replyQ.filter keep,
               cur := x.cur.map (fun (c : TxFrame × Nat) => if keep c.1 then c else ({ c.1 with bad := true }, c.2)) }) }).updReq r
    (fun q => { q with framesOut := q.framesOut - gone })

/-- The RETRACT frame of the queries whose reply frames have ended (R62). -/
def queueRetract (s : State) (r : Nat) (q : Request) : State :=
  let l := q.recs.filter QRec.ended ++ (if q.missingEnded then [missingRec] else [])
  queueReply s r q (fun b => { bytes := b, kind := .retract r })
    (replyHeader q 3 l.length ++ l.flatMap (fun x => beBytes 2 x.qid ++ beBytes 1 0x40 ++ zeros 1))

/-- The verdict of a request is bad (R60, R61, R289): its threads are cancelled, its hold frees, replies not begun are not
sent, and queries whose frames ended are withdrawn by RETRACT. -/
def badVerdict (s : State) (r : Nat) : State :=
  let s := withdrawFrames (cancelThreads s r) r
  let s := s.updReq r (fun q => { q with verdict := some false, allBuilt := true, granules := 0, content := [] })
  match s.req r with
  | none => s
  | some q =>
    let s := if q.spec && (q.recs.any QRec.ended || q.missingEnded) then
        queueRetract (s.updReq r (fun x => { x with retractAt := some (s.now + 1000000) })) r q
      else s
    settleVerdict (retire s r) q

/-- COMMIT_VERDICT (R48, R59 to R64). `intact`: the frame was not truncated by a link fault. -/
def execCommitVerdict (req : Nat) (intact : Bool) (s : State) : Res :=
  .next (match s.req req with
    | none => s
    | some q =>
      if q.verdict.isSome then s
      else if q.checksGood && intact then
        let s := s.updReq req (fun x => { x with verdict := some true })
        retire (settleVerdict s q) req
      else badVerdict s req)

/-- RETRACT_SECOND_COPY (R63): 1 µs after the first. -/
def execRetractSecondCopy (req : Nat) (s : State) : Res :=
  .next (match s.req req with
    | none => s
    | some q =>
      match q.retractAt with
      | some t =>
        if t ≤ s.now then
          retire (queueRetract (s.updReq req (fun x => { x with retractAt := none })) req q) req
        else s
      | none => s)

/-- GAP_WAIT_EXPIRY (R47, R49): NEXT_SEQ moves to the lowest number held ahead of the gap. -/
def execGapWaitExpiry (flow : Nat) (s : State) : Res :=
  onObj s (okFlow flow)
    (match Tbl.find? s.flows flow with
     | none => s
     | some f =>
       if f.gapEnd = 0 || s.cycle < f.gapEnd then s
       else
         match (flowReqs s flow).filter (fun p => heldAhead f p.2) with
         | [] => s
         | p :: t =>
           let d := t.foldl (fun a x => min a (seqDiff f x.2.seq)) (seqDiff f p.2.seq)
           sortCopies flow s.reqs.length (settleFlow (s.updFlow flow (fun x =>
             { x with nextSeq := wrap 32 ((x.nextSeq : Int) + d), gapEnd := 0 })) flow))

/-- FLOW_AGE_EXPIRY (R396): an entry without a query in flight that has been idle for FLOW_AGE is freed. -/
def execFlowAgeExpiry (flow : Nat) (s : State) : Res :=
  onObj s (okFlow flow)
    (match Tbl.find? s.flows flow with
     | none => s
     | some f =>
       if flowInflight s flow = 0 ∧ f.removing = none ∧ f.lastUse + s.dev.flowAge * 1250000000 ≤ s.cycle then
         dropFlow s flow
       else s)

end Sys2Proof.Machine
end

