-- ==== Sys2Proof/Machine/ModelOps.lean ====
section
/-! DEFINITION. Shared operations of placement over models: what a layout takes on a block and whether it is legal, loading and
freeing the versions of a model, moving work between blocks, stakes, flows that lose their state (R21 to R23, R105, R124,
R127, R239 to R252, R257, R290, R562, R565). -/

namespace Sys2Proof.Machine

/-! What slices take (R127, R251). -/

/-- The slices a block holds: model, image, slice; a slice of a replica that two versions share counts once. -/
def slicesOn (s : State) (b : Nat) : List (Nat × Bytes × Slice) :=
  ((s.models.flatMap (fun p => p.2.vers.flatMap (fun v => v.2.replicas.flatMap (fun r =>
    (r.2.slices.filter (fun x => x.dev.isNone && x.block == b)).map (fun x => (p.1, r.1, v.2.image, x)))))).eraseDups).map
      (fun q => (q.1, q.2.2))

/-- The fields of a bank entry its check covers, in the order the bank stores them, little-endian (R109, log 128). -/
def entryFields (e : BankEntry) : Bytes := leBytes 32 e.value ++ leBytes 32 e.care ++ leBytes 2 (e.group + b2n e.valid * 1024)
/-- The CRC-32C check of a bank entry (R109). -/
def entryCheck (e : BankEntry) : Nat := (crc32c (entryFields e)).toNat
/-- A valid entry with its check. -/
def ruleEntry (value care group : Nat) : BankEntry :=
  let e : BankEntry := { value := value, care := care, group := group, valid := true }
  { e with check := entryCheck e }
/-- An entry no rule fills, with its check. -/
def emptyEntry : BankEntry :=
  let e : BankEntry := { value := 0, care := 0, group := 0, valid := false }
  { e with check := entryCheck e }
/-- Stored bits of an entry change: VALUE from bit 0, CARE from 256, GROUP from 512, VALID 522, the check from 523. -/
def flipEntry (e : BankEntry) (m : Nat) : BankEntry :=
  { e with value := e.value ^^^ (m % 2 ^ 256), care := e.care ^^^ (m / 2 ^ 256 % 2 ^ 256),
           group := e.group ^^^ (m / 2 ^ 512 % 1024), valid := e.valid != bit m 522, check := e.check ^^^ (m / 2 ^ 523 % 2 ^ 32) }
/-- The stored check fits the stored fields (R109, R282). -/
def entryGood (e : BankEntry) : Bool := entryCheck e == e.check

/-- Bank entries of a slice's trees: key and entry (R108, R109). -/
def sliceEntries (img : Bytes) (x : Slice) : List (Nat × BankEntry) :=
  x.trees.flatMap (fun p =>
    let d := treeDir img p.tree
    (upTo d.rcount).flatMap (fun i =>
      let (v, c) := treeRule img d i
      let key := fun (bank : Nat) => (x.block * 64 + bank) * 1024 + p.first + i
      let lo : Nat × BankEntry := (key p.bank, ruleEntry (v % 2 ^ 256) (c % 2 ^ 256) p.group)
      if d.gang then [lo, (key (p.bank + 1), ruleEntry (v / 2 ^ 256) (c / 2 ^ 256) p.group)] else [lo]))

/-- Runs of bank entries a slice takes: bank, first entry, entries, group tag. -/
def sliceRuns (img : Bytes) (x : Slice) : List (Nat × Nat × Nat × Nat) :=
  x.trees.flatMap (fun p =>
    let d := treeDir img p.tree
    let r := (p.bank, p.first, d.rcount, p.group)
    if d.gang then [r, (p.bank + 1, p.first, d.rcount, p.group)] else [r])

/-- No two runs of one bank share an entry or a group tag. -/
def runsDisjoint : List (Nat × Nat × Nat × Nat) → Bool
  | [] => true
  | (b, f, n, g) :: t =>
    t.all (fun (b', f', n', g') => b != b' || (g != g' && (decide (f + n ≤ f') || decide (f' + n' ≤ f)))) && runsDisjoint t

/-- Weight bytes of the part of a layer that lies on a block: whole tiles of its columns (R142, R148, R470). -/
def partBytes (img : Bytes) (p : LayerPl) : Nat :=
  let l := layerAt img p.layer
  if l.lkind = 1 then tilesOf l.wfmt l.k p.cols * tileBytes l.wfmt else l.wlen

/-- The parts of a layer cover its columns once: in order each begins, on a tile of 64, where the one before ends. -/
def partsCover (img : Bytes) (i : Nat) (ps : List LayerPl) : Bool :=
  let l := sortBy LayerPl.first ps
  l.foldl (fun a p => if p.first = a && decide (0 < p.cols) && p.first % 64 == 0 then a + p.cols else 2 ^ 32) 0 == layerCols img i

/-- VSE programs a slice needs: the hook, or the LAYER programs of its layers (R251). -/
def sliceProgs (img : Bytes) (x : Slice) : List ProgHdr :=
  if imgKind img = 0 then ((hookProg img).map (progHdr img)).toList
  else ((x.layers.map (fun l => (layerAt img l.layer).prog)).filter (· ≠ 0xFFFF)).eraseDups.map (progHdr img)

/-- The lowest row of R251 that the work on a block exceeds, if any (R564). -/
def blockShort (s : State) (b : Nat) : Option Nat :=
  let l := slicesOn s b
  let sum := fun (f : Nat × Bytes × Slice → Nat) => l.foldl (fun a x => a + f x) 0
  let runs := l.flatMap (fun x => sliceRuns x.2.1 x.2.2)
  firstBad [
    (2, decide (sum (fun x => x.2.2.trees.length) ≤ 4096)),
    (3, runs.all (fun (k, f, n, g) => decide (k < 64) && decide (f + n ≤ 1024) && decide (g < 1024) &&
          !(s.block b).retiredBanks.contains k) && runsDisjoint runs),
    (4, l.all (fun x => decide (x.2.2.comps.length ≤ 4096)) && decide (sum (fun x => x.2.2.comps.length) ≤ 65536)),
    (5, decide (sum (fun x => x.2.2.trees.foldl (fun a p =>
          let d := treeDir x.2.1 p.tree
          a + d.rcount * (if d.vec then imgNout x.2.1 else 1)) 0) ≤ 524288)),
    (6, decide (sum (fun x => nedges (prepSec x.2.1)) ≤ 65536)),
    (7, decide (sum (fun x => x.2.2.layers.foldl (fun a p => a + partBytes x.2.1 p) 0) ≤ 2097152)),
    (8, decide (sum (fun x => (sliceProgs x.2.1 x.2.2).foldl (fun a h => a + h.ninstr) 0) ≤ 16384) &&
        decide (sum (fun x => (sliceProgs x.2.1 x.2.2).foldl (fun a h => a + h.ldm) 0) ≤ 262144))]

/-- The comparators a slice gives one feature on one lane are one run: contiguous (R106). -/
def runsContiguous (img : Bytes) (x : Slice) : Bool :=
  x.comps.all (fun c =>
    let l := (x.comps.filter (fun d => thrPrep img d.pred == thrPrep img c.pred && d.bit / 256 == c.bit / 256)).map CompPl.bit
    l.foldl max 0 - l.foldl min 4096 + 1 == l.length)

/-- A slice of a tree model has each of its predicates on one comparator (R105), each feature's comparators on a lane in one
run (R106), and each ganged tree on an even bank and the odd one after it (R108). -/
def sliceComps (img : Bytes) (x : Slice) : Bool :=
  let ps := x.comps.map CompPl.pred
  let bs := x.comps.map CompPl.bit
  ps.eraseDups.length == ps.length && bs.eraseDups.length == bs.length && bs.all (fun b => decide (b < 4096)) &&
    x.trees.all (fun p => (treePreds img (treeDir img p.tree)).all (fun q => ps.contains q) &&
      (!(treeDir img p.tree).gang || p.bank % 2 == 0)) && runsContiguous img x

/-- Columns of a layer may lie on another device: a dense layer whose products are FP32 (R231 carries FP32 values; log 15). -/
def guestLayer (l : Layer) : Bool := l.lkind == 1 && l.wfmt != 6

/-- A layout is one that R24, R28, R105 and R239 allow, whatever room it takes. Columns of a neural layer may lie on other devices,
others of that layer here (log 15). -/
def replicaShape (img : Bytes) (bulk : Bool) (r : Replica) : Bool :=
  let own := r.slices.filter (fun x => x.dev.isNone)
  let bs := own.map Slice.block
  let tree := imgKind img == 0
  !r.slices.isEmpty && !r.draining && bs.all (fun b => decide (b < 64)) && bs.eraseDups.length == bs.length &&
    (bulk || (own.length == r.slices.length && (bs.all (fun b => b / 32 == 0) || bs.all (fun b => b / 32 == 1)))) &&
    (if tree then
      (upTo (ntrees img)).all (fun k =>
        (r.slices.foldl (fun a x => a + (x.trees.filter (fun p => p.tree == k)).length) 0) == 1) &&
      r.slices.all (fun x => sliceComps img x && x.layers.isEmpty && x.trees.all (fun p => decide (p.tree < ntrees img) &&
        (x.dev.isNone || treeTrigger img p.tree != .hookEnd)))
    else
      (upTo (nlayer img)).all (fun i => partsCover img i (r.slices.flatMap (fun x => x.layers.filter (fun p => p.layer == i)))) &&
      (upTo (nlayer img)).all (fun i => own.any (fun x => x.layers.any (fun p => p.layer == i))) &&
      r.slices.all (fun x => x.trees.isEmpty && x.comps.isEmpty &&
        (x.layers.map LayerPl.layer).eraseDups.length == x.layers.length && x.layers.all (fun p => decide (p.layer < nlayer img) &&
          (x.dev.isNone || guestLayer (layerAt img p.layer)))))

/-- The lowest row of R251 in which a layout exceeds what R124 and R562 allow a replica, if any (R564). -/
def replicaShort (img : Bytes) (bulk : Bool) (r : Replica) : Option Nat :=
  if imgKind img ≠ 0 then none
  else firstBad [
    (2, bulk || r.slices.all (fun x => decide (x.trees.foldl (fun a p => a + ruleUnits (treeDir img p.tree)) 0 ≤ 256))),
    (3, r.slices.all (fun x => decide (bankLoad img x ≤ imgBankCyc img) && (bulk || decide (bankLoad img x ≤ 4)))),
    (4, r.slices.all (fun x => decide (laneCycles img x ≤ imgLaneCyc img)))]

/-- A replica's layout keeps R24, R28, R105, R124, R239 and R562. -/
def replicaOk (img : Bytes) (bulk : Bool) (r : Replica) : Bool := replicaShape img bulk r && (replicaShort img bulk r).isNone

/-- Compute die of a layout: that of its first slice. -/
def Replica.die (r : Replica) : Nat := (r.slices.headD { block := 0 }).block / 32

/-- Successive replicas of a latency model alternate between the compute dies (R239). -/
def alternates : List Replica → Bool
  | a :: b :: t => a.die != b.die && alternates (b :: t)
  | _ => true

/-! Versions of a model (R21, R23). -/

/-- Every entry a version's local slices fill. -/
def verEntries (v : MVer) : List (Nat × BankEntry) :=
  v.replicas.flatMap (fun r => (r.2.slices.filter (fun x => x.dev.isNone)).flatMap (sliceEntries v.image))

/-- The rules of some slices are written to their banks. -/
def State.writeEntries (s : State) (l : List (Nat × BankEntry)) : State :=
  { s with banks := l.foldl (fun (t : Tbl BankEntry) (p : Nat × BankEntry) => Tbl.put t p.1 p.2) s.banks }

/-- Entries that no version of the models uses any more are freed. -/
def State.freeEntries (s : State) (l : List (Nat × BankEntry)) : State :=
  let used := s.models.flatMap (fun p => p.2.vers.flatMap (fun v => (verEntries v.2).map Prod.fst))
  { s with banks := List.filter (fun (p : Nat × BankEntry) => !(l.any (fun q => q.1 == p.1)) || used.contains p.1) s.banks }

/-- Regions that no version of the models names any more are freed with their grants (R223). -/
def State.freeRegions (s : State) (l : List Nat) : State :=
  let used := s.models.flatMap (fun p => p.2.vers.flatMap (fun v => v.2.regions))
  { s with regions := List.filter (fun (p : Nat × Region) => !l.contains p.1 || used.contains p.1) s.regions }

/-- A version leaves a model: its storage is freed as far as no other version shares it. -/
def dropVersion (s : State) (m v : Nat) : State :=
  match Tbl.find? (s.model m).vers v with
  | none => s
  | some x => ((s.updModel m (fun y => { y with vers := Tbl.del y.vers v })).freeEntries (verEntries x)).freeRegions x.regions

/-- Threads of a model on a version. -/
def threadsOf (s : State) (m v : Nat) : Bool := s.threads.any (fun p => p.2.model == m && p.2.ver == v)

/-- Versions whose last thread has retired are freed (R23), and replicas that drained are gone. -/
def sweepVersions (s : State) (m : Nat) : State :=
  let x := s.model m
  let dead := (x.vers.map Prod.fst).filter (fun v => v != x.ver && (match x.shadow with | some (w, _) => v != w | none => true) &&
    !threadsOf s m v)
  let s := dead.foldl (fun s v => dropVersion s m v) s
  let cur := s.curVer m
  let gone := cur.replicas.filter (fun r => r.2.draining && !(s.threads.any (fun p => p.2.model == m && p.2.ver == x.ver &&
    p.2.replica == r.1)))
  if gone.isEmpty then s
  else
    (s.updModel m (fun y => { y with vers := Tbl.modify y.vers y.ver (fun v =>
      { v with replicas := List.filter (fun (r : Nat × Replica) => !(gone.any (fun g => g.1 == r.1))) v.replicas }) })).freeEntries
      (gone.flatMap (fun r => (r.2.slices.filter (fun z => z.dev.isNone)).flatMap (sliceEntries cur.image)))

/-- Every model is swept. -/
def sweepAll (s : State) : State := (s.models.map Prod.fst).foldl sweepVersions s

/-- Next version number of a model. -/
def Model.nextVer (x : Model) : Nat := x.vers.foldl (fun a v => max a (v.1 + 1)) (x.ver + 1)

/-! Moving slices (R245, R298). -/

/-- A slice that lay on one block lies on another. -/
def Slice.move (src dst : Nat) (x : Slice) : Slice := if x.dev.isNone && x.block == src then { x with block := dst } else x
/-- A version's slices moved. -/
def MVer.move (src dst : Nat) (v : MVer) : MVer :=
  { v with replicas := Tbl.mapVals v.replicas (fun _ r => { r with slices := r.slices.map (Slice.move src dst) }) }
/-- A version has a slice on a block. -/
def MVer.on (b : Nat) (v : MVer) : Bool := v.replicas.any (fun r => r.2.slices.any (fun x => x.dev.isNone && x.block == b))

/-- A planned move of a model's work (R245): a new version, the old one's image with the slices moved, takes new threads. -/
def shiftModel (s : State) (src dst m : Nat) : State :=
  let x := s.model m
  let v := s.curVer m
  if !v.on src then s
  else
    let w := v.move src dst
    let n := x.nextVer
    sweepVersions ((s.updModel m (fun y => { y with vers := Tbl.put y.vers n w, ver := n })).writeEntries (verEntries w)) m

/-- A move that failure forces (R298): every version's slices move, and what they fill on the old block is gone. -/
def remapModel (s : State) (src dst m : Nat) : State :=
  let old := (s.model m).vers.flatMap (fun v => if v.2.on src then verEntries v.2 else [])
  let s := s.updModel m (fun y => { y with vers := Tbl.mapVals y.vers (fun _ v => v.move src dst) })
  let new := (s.model m).vers.flatMap (fun v => if v.2.on dst then verEntries v.2 else [])
  (s.writeEntries new).freeEntries old

/-- Threads that run on slices of a block, oldest first. -/
def threadsUsing (s : State) (b : Nat) : List (Nat × Thread) :=
  sortBy (fun (p : Nat × Thread) => p.2.tArrive) (List.filter (fun (p : Nat × Thread) => p.1 / 4096 == b ||
    (match replicaOf s p.2 with | some r => r.slices.any (fun x => x.dev.isNone && x.block == b) | none => false)) s.threads)

/-- A thread takes a slot of another block (R298); the query is answered 0x30 where none is free. -/
def rehome (s : State) (tid dst : Nat) : State × Nat :=
  match Tbl.find? s.threads tid, Tbl.freeKey s.threads (dst * 4096) 4096 with
  | some t, some n =>
    let s := s.dropCtxOf tid
    let s := { s with threads := Tbl.put (Tbl.del s.threads tid) n t }
    ((s.updRec t.req t.qi (fun r => { r with thread := some n })).updReq t.req (fun q => { q with evalBlock := some dst }), n)
  | _, _ => (s.threadFault tid, tid)

/-- Threads whose evaluation is not over are replayed in the order given, those of a failed block on another one (R290,
R298 step 5). -/
def replayOn (s : State) (src dst : Nat) (l : List (Nat × Thread)) : State :=
  l.foldl (fun s p =>
    let (s, n) := if p.1 / 4096 = src then rehome s p.1 dst else (s, p.1)
    match Tbl.find? s.threads n with
    | some t => if t.done then s else replayThread s n
    | none => s) s

/-! Fold work (R243, R246, R298). -/

/-- A group's next step boundary on this device: the first step with no block in flight. -/
def Group.nextStep (g : Group) : Nat :=
  match (g.blocks.map Prod.fst).getLast? with
  | some p => g.stepAt p + 1
  | none => if g.blockAt g.oldest = 0 then g.stepAt g.oldest else g.stepAt g.oldest + 1

/-- From the next step boundary a group accumulates on another block (R246). -/
def shiftGroup (s : State) (src dst gn : Nat) : State :=
  s.updGroup gn (fun g =>
    let l := (match g.nextAcc with | some (_, l) => l | none => g.accBlocks).map (fun b => if b = src then dst else b)
    let e := g.nextStep
    if e ≤ g.stepAt g.oldest && g.blocks.isEmpty then { g with accBlocks := l, nextAcc := none } else { g with nextAcc := some (e, l) })

/-- A group's share and open blocks leave a failed block at once; open blocks are rebuilt from held inputs (R298). -/
def remapGroup (s : State) (src gn : Nat) (dest : Nat → List Nat) (acc : Nat → Nat) : State :=
  let s := s.updGroup gn (fun g =>
    { g with accBlocks := g.accBlocks.flatMap (fun b => if b = src then dest b else [b]),
             nextAcc := g.nextAcc.map (fun x => (x.1, x.2.flatMap (fun b => if b = src then dest b else [b]))) })
  match Tbl.find? s.groups gn with
  | none => s
  | some g =>
    spillPressure ((g.blocks.filter (fun p => p.2.acc == src)).foldl (fun s p =>
      let s := s.updFB gn p.1 (fun f => { f with acc := acc p.1, slots := if acc p.1 / 32 = src / 32 then f.slots else [], lastFail := none })
      if p.2.pending then rebuildBlock s gn p.1 else s) s) (src / 32)

/-- Element rate of a group at its full input reservations, in adds per cycle times 42,020: frames of 4,202 B (R243). -/
def groupRate (g : Group) : Nat := (g.res.foldl (fun a p => a + p.2.2) 0) * fmtCap g.inFmt
/-- NACC (R243). -/
def naccOf (g : Group) : Nat := max 1 (ceilDiv (groupRate g) 6050880)
/-- The shares on a block stay within 144 adds per cycle (R243): the shares in units of 1/6,050,880 of 144. -/
def shareOk (s : State) (b : Nat) : Bool :=
  decide ((List.filter (fun (p : Nat × Group) => (match p.2.nextAcc with | some (_, l) => l | none => p.2.accBlocks).contains b)
    s.groups).foldl (fun a p => a + ceilDiv (groupRate p.2) (naccOf p.2)) 0 ≤ 6050880)

/-! Stakes (R248 to R250). -/

/-- Key of a stake. -/
def stakeKey (group : Bool) (n : Nat) : Nat := b2n group * 4096 + n
/-- A stake allows a block of this device. -/
def stakeAllows (s : State) (group : Bool) (n b : Nat) : Bool :=
  match Tbl.find? s.place.stakes (stakeKey group n) with
  | none => true
  | some k => (k.devices == 0 || bit k.devices s.boot.boardPos) && (k.blocks == 0 || bit k.blocks b)
/-- Staked work would lie outside its set on a block. -/
def breaksStake (s : State) (ms gs : List Nat) (b : Nat) : Bool :=
  ms.any (fun m => !stakeAllows s false m b) || gs.any (fun g => !stakeAllows s true g b)

/-- The context enters MODEL_FAULT (R280, R281, R299): cause 0 poison, 1 stack lost, 2 image copy lost. -/
def modelFault (s : State) (m cause : Nat) : State :=
  (s.updModel m (fun x => { x with st := 4 })).integ { fcode := 0x0113, sev := 1, obj := objCode 1 m, detail := cause }

end Sys2Proof.Machine
end

