-- ==== Sys2Proof/Machine/Fold.lean ====
section
/-! DEFINITION. The rows of fold (chapter 06): contributions, the check stage, results, acknowledgements, notices, digests. -/

namespace Sys2Proof.Machine

/-! Recognising a fold frame of a type (R173 to R177). -/

/-- The fold frame a received frame holds, with its TYPE; none for any other frame. -/
def foldFrame (s : State) (port : Nat) (frame : Bytes) : Option (Ip × FoldIn) :=
  if !rxAlive s port || frame.length < 64 then none
  else
    match foldIp s port frame (parsePkt s.dev.tpid frame) with
    | some ip => some (ip, ⟨port, ip.src, udpPayload frame ip⟩)
    | none => none

/-- VERSION, TYPE and the UDP length are legal (R176, R177). -/
def foldLegal (frame : Bytes) (ip : Ip) (x : FoldIn) : Bool :=
  byteAt x.p 0 / 16 == 1 && foldLen (fTy x.p) != 0 && udpLen frame ip == 8 + foldLen (fTy x.p) &&
    x.p.length == foldLen (fTy x.p)

/-- The frame's verdict: MAC, lengths, and a non-zero UDP checksum (R175). -/
def foldGood (s : State) (port : Nat) (frame : Bytes) (ip : Ip) : Bool :=
  macGood s port frame && lengthsOk frame ip && (udpCsum frame ip == 0 || udpSumOk frame ip)

/-! Reception within a group's reservation, and above it (R265). -/

/-- A group's reservation in the receive direction of a port, in Gb/s (R207). -/
def foldRate (s : State) (gn p : Nat) : Nat := match Tbl.find? s.groups gn with | some g => (Tbl.getD g.res p (0, 0)).2 | none => 0
/-- Receive tokens a group has spent on a port and not yet got back. -/
def foldSpent (s : State) (gn p : Nat) : Nat :=
  match Tbl.find? s.foldTok (p * 4096 + gn) with
  | some (v, t) => v - (s.now - t) * foldRate s gn p
  | none => 0
/-- A frame of a group on a port lies within the group's RES, and none of its frames waits there (R265, log 134). A frame that
names no group here is not held. -/
def withinRes (s : State) (gn p : Nat) : Bool :=
  !Tbl.has s.groups gn ||
    (decide (0 < foldRate s gn p) && decide (foldSpent s gn p < groupBucket) && !s.foldIn.any (fun w => w.port == p && w.group == gn))
/-- A frame of `n` bytes spends its group's receive tokens, with preamble and gap. -/
def spendRes (s : State) (gn p n : Nat) : State :=
  if Tbl.has s.groups gn then
    { s with foldTok := Tbl.put s.foldTok (p * 4096 + gn) (foldSpent s gn p + (n + 20) * 8000, s.now) }
  else s
/-- A fold frame above RES waits in its group's TC, which may pause its senders; without per-priority pause a frame beyond the
class's share, the cells of its XOFF_TH, is dropped without notice (R265, log 134). -/
def bufferFold (s : State) (gn p n : Nat) (poisoned : Bool) (x : FoldIn) : State :=
  let c := groupTc s gn
  let y := s.port p
  let k := ceilDiv n 256
  if !(y.cfg.fcMode == 2 && lossless y c) && decide (y.cfg.xoffTh.getD c 1024 < foldCells s p c + k) then s
  else pauseUpdate { s with foldIn := s.foldIn ++ [⟨p, gn, k, poisoned, x⟩] } p

/-- A row of one TYPE: what it does with a frame of that type that the port takes, at once where it lies within its group's
RES. -/
def foldRow (ty port : Nat) (frame : Bytes) (ok : Bytes → Bool) (poisoned : Bool) (k : State → FoldIn → State) (s : State) : State :=
  match foldFrame s port frame with
  | none => s
  | some (ip, x) =>
    if !foldLegal frame ip x || fTy x.p != ty || !ok x.p then s
    else if rxBlocked s port || (s.port port).st == .opened then s.count .rxBlocked port 1
    else if !foldGood s port frame ip then s
    else if withinRes s (fGroup x.p) port then k (spendRes s (fGroup x.p) port frame.length) x
    else bufferFold s (fGroup x.p) port frame.length poisoned x

/-- The group a frame names, in its generation (R213, R216, R275); any generation where `anyGen`. -/
def withGroup (s : State) (x : FoldIn) (anyGen : Bool) (k : Group → State) : State :=
  let gn := fGroup x.p
  match Tbl.find? s.groups gn with
  | none => s.count .foldStale gn 1
  | some g =>
    if s.place.lost.any (fun l => l.obj == .group gn) then s.count .foldStale gn 1
    else if g.st = 3 then s
    else if g.gen ≠ fGen x.p && !anyGen then s.count .foldStale gn 1
    else k g

/-- The frame came on a member's port from its address (R216). -/
def fromMember (m : Member) (x : FoldIn) : Bool := m.port == x.port && (decide (65536 ≤ x.port) || m.addr == x.src)
/-- The frame came from the parent. -/
def fromParent (g : Group) (x : FoldIn) : Bool :=
  !g.root && g.parentPort == x.port && (decide (65536 ≤ x.port) || g.parentAddr == x.src)

/-! Contributions (R180, R183, R191 to R194, R199, R204, R206, R208, R211, R212, R216). -/

/-- Sends the held RESULT of a block to one member, with REPLAY (R204); one that does not verify fails the group (R202). -/
def sendHeldResult (s : State) (gn m : Nat) (g : Group) (f : FBlock) (p : Bytes) : State :=
  if f.badResult p then heldFails s gn (f.acc / 32) f.resultBad
  else
    match Tbl.find? g.members m with
    | some x => (sendMember s gn g x (withMarks true (bit (byteAt p 1) 3) p)).count .foldReplay gn 1
    | none => s

/-- A block no longer takes contributions: what R204 answers a duplicate with. -/
def answerDuplicate (s : State) (gn pos m : Nat) (g : Group) (f : FBlock) : State :=
  match f.result with
  | some p => sendHeldResult s gn m g f p
  | none =>
    let due := match f.askedAt with | some t => decide (t + 100000000 ≤ s.now) | none => true
    if g.root || !due then s
    else
      noticeUp (s.updFB gn pos (fun y => { y with askedAt := some s.now })) gn g 2 0 (g.stepAt pos) (g.blockAt pos) 0

/-- Takes a good contribution into its block (R191 to R193); its cells of the held store may be poisoned (R277). -/
def takeContrib (s : State) (gn pos m : Nat) (x : FoldIn) (poisoned : Bool) : State :=
  let s := match s.fblock gn pos with | none => openBlock s gn pos | some _ => s
  let s := if poisoned then poisonCell s gn (match s.fblock gn pos with | some f => f.acc / 32 | none => 0) else s
  let h : Held := { member := m, sub := fSub x.p, payload := x.p, added := false, damaged := poisoned }
  let s := s.updFB gn pos (fun f => { f with held := f.held ++ [h] })
  tryComplete (addWaiting s gn pos) gn pos

/-- A CONTRIB (`child` false) or PARTIAL frame. A BLOCK beyond the step, and SUB of a CONTRIB other than 0, are MALFORMED
(log 139). -/
def handleContrib (child poisoned : Bool) (s : State) (x : FoldIn) : State :=
  withGroup s x false (fun g =>
    let gn := fGroup x.p
    let m := fMember x.p
    let b := fBlock x.p
    let step := fStep x.p
    let pos := step * g.nblk + b
    match Tbl.find? g.members m with
    | none => s.count .foldAlien gn 1
    | some mem =>
      if mem.child != child || !fromMember mem x then s.count .foldAlien gn 1
      else
        let n := if child then min 1024 (g.ecount b - 1024 * fSub x.p) else g.ecount b
        let fmt := if child then 1 else g.inFmt
        let body := x.p.drop 32
        let vals := (foldElems (fFmt x.p) body (min (fEcount x.p) (fmtCap (fFmt x.p)))).map Prod.fst
        if !tbcOk x.p then notice (s.count .foldTbcFail gn 1) gn g m 1 0 step b (fSub x.p)
        else if g.nblk ≤ b || fFmt x.p != fmt || fEcount x.p != n || (!child && fSub x.p != 0) || n == 0 then
          notice (s.count .foldMalformed gn 1) gn g m 4 0 step b (fSub x.p)
        else if bmaxOf vals != fBmax x.p then notice (s.count .foldTbcFail gn 1) gn g m 1 0 step b (fSub x.p)
        else if !mem.activeAt step then s.count .foldAlien gn 1
        else if g.st = 2 ∧ g.holdStep ≤ step then
          let due := match mem.holdAt with | some t => decide (t + 1000000000 ≤ s.now) | none => true
          if due then
            notice (s.updGroup gn (fun y => { y with members := Tbl.modify y.members m (fun z => { z with holdAt := some s.now }) }))
              gn g m 7 0 g.holdStep 0 0
          else s
        else if pos < g.oldest then s.count .foldStale gn 1
        else if g.oldest + g.window ≤ pos then notice (s.count .foldWindow gn 1) gn g m 3 0 step b 0
        else
          match Tbl.find? g.blocks pos with
          | some f =>
            if f.st == .committed then s.count .foldStale gn 1
            else if f.st != .sent then
              if f.held.any (fun h => h.member == m && h.sub == fSub x.p) then s.count .foldDup gn 1
              else if f.st == .gathering then takeContrib s gn pos m x poisoned
              else s.count .foldDup gn 1
            else answerDuplicate s gn pos m g f
          | none =>
            let pfc := decide (mem.port < 65536) && (s.port mem.port).cfg.fcMode == 2 && lossless (s.port mem.port) g.tc
            let pressed := g.blocks.any (fun q => q.2.spilled && s.place.spillPress.contains (q.2.acc / 32))
            if pressed && !pfc then notice (s.count .foldWindow gn 1) gn g m 3 0 step b 0
            else takeContrib s gn pos m x poisoned)

/-- CONTRIB (R180, R277). -/
def execContrib (port : Nat) (frame : Bytes) (poisoned : Bool) (s : State) : Res :=
  onObj s (okPort port) (foldRow 1 port frame (fun _ => true) poisoned (handleContrib false poisoned) s)

/-- PARTIAL (R194, R277). -/
def execPartialFrame (port : Nat) (frame : Bytes) (poisoned : Bool) (s : State) : Res :=
  onObj s (okPort port) (foldRow 2 port frame (fun _ => true) poisoned (handleContrib true poisoned) s)

/-- SPILL_RESTORE (R192): the spilled block with the fewest contributions missing returns when its slots and side entries
are free; held contributions that were never added are added. A poisoned image in HBM is rebuilt from the held inputs (R280),
and a poisoned held input fails the group (R202). -/
def execSpillRestore (die : Nat) (poisoned : Bool) (s : State) : Res :=
  onObj s (decide (die < 2))
    (let l := (dieBlocks s die).filter (fun x => x.2.2.spilled)
     let miss : Nat × Nat × FBlock → Nat := fun x => match Tbl.find? s.groups x.1 with | some g => missingOf g x.2.1 x.2.2 | none => 0
     match sortBy miss l with
     | [] => s
     | (gn, pos, f) :: _ =>
       let n := match Tbl.find? s.groups gn with | some g => fmtSlots g.inFmt | none => 0
       let w := wideCount f.elems
       if slotsFree s die < n || sideFree s die < w then s
       else
         let l := takeSlots s die n
         let t := takeSide s die w [] f.elems
         let s := s.updFB gn pos (fun x => { x with spilled := false, slots := l, elems := t })
         let s := if poisoned then consumePoison s gn 2 4 (spillStack s f) else s
         if f.held.any (fun h => (h.damaged || !tbcOk h.payload) && (poisoned || !h.added)) then
           heldFails s gn die (f.held.any (fun h => h.damaged && (poisoned || !h.added)))
         else if poisoned then rebuildBlock (spillPressure s die) gn pos
         else tryComplete (addWaiting (spillPressure s die) gn pos) gn pos)

/-! The check stage (R196 to R202, R205). -/

/-- No block of the group on this device that completed earlier still waits for its first verdict (R205). -/
def firstToLeave (g : Group) (pos : Nat) (f : FBlock) : Bool :=
  f.left || g.blocks.all (fun q => q.1 == pos || q.2.st != .emitting || q.2.left || decide (f.opened ≤ q.2.opened))

/-- Sends the frames of a block: RESULT to every member, PARTIAL to the parent. -/
def emitFrames (s : State) (gn pos : Nat) (g : Group) (l : List Bytes) : State :=
  l.foldl (fun s p => if g.root then sendResult s gn g (g.stepAt pos) [] p else sendParent s gn g p) s

/-- A block has passed its check, with RANGE set or not: its frames leave with a good TBC, and a RESULT is held (R196, R200 to
R202); its cells may be `poisoned`. -/
def emitGood (s : State) (gn pos : Nat) (g : Group) (f : FBlock) (l : List FV) (range : Bool) (nonfinite : Nat) (poisoned : Bool) :
    State :=
  let fs := (blockFrames gn g pos l).map (fun b => withMarks f.left range (withTbc true b))
  let s := if f.left then s.count .foldReplay gn fs.length else s
  let s := if g.root && nonfinite != 0 then s.count .foldNonfinite gn nonfinite else s
  let s := emitFrames s gn pos g fs
  let bad := poisoned && g.root
  let s := if bad then poisonCell s gn (f.acc / 32) else s
  let s := s.updGroup gn (fun x =>
    { x with newest := some (match x.newest with | some p => max p pos | none => pos),
             blocks := Tbl.modify x.blocks pos (fun y =>
               { y with st := .sent, left := true, result := if g.root then fs.head? else y.result, resultBad := bad, elems := [],
                        slots := [], lastFail := none }) })
  tryCommit (releaseReady s gn) gn pos

/-- A block has failed its check: its frames end with a stomped TBC, and the block is rebuilt and emitted again with REPLAY
(R200). -/
def emitBad (s : State) (gn pos : Nat) (g : Group) (f : FBlock) (l : List FV) (fail : Option (Bool × List Nat)) : State :=
  let fs := (blockFrames gn g pos l).map (fun b => withMarks f.left false (withTbc false b))
  let s := (s.count .foldCheckFail gn 1).count .stumpTx 0 fs.length
  let s := if f.left then s.count .foldReplay gn fs.length else s
  let s := emitFrames s gn pos g fs
  rebuildBlock (s.updFB gn pos (fun y => { y with left := true, lastFail := fail })) gn pos

/-- What the check stage finds in each frame of a block (R198, R199): `bad` lists elements whose entries were read with bad
parity. -/
def checkEnds (gn pos : Nat) (g : Group) (f : FBlock) (bad : List Nat) : List CheckEnd :=
  let l := blockValues g pos f
  let fin := l.map (fun v => match v with | .fin .. => true | _ => false)
  let bm := f.held.map (fun h => fBmax h.payload)
  (blockFrames gn g pos l).mapIdx (fun i b =>
    let n := if g.root then l.length else min 1024 (l.length - 1024 * i)
    let r := checkBlock (if g.root then g.outFmt else 1) (b.drop 32) n bm g.expLo g.expHi (fin.drop (1024 * i))
      (bad.filter (fun k => g.root || (decide (1024 * i ≤ k) && decide (k < 1024 * i + 1024))))
    { r with range := r.range.map (· + (if g.root then 0 else 1024 * i)) })

/-- An exception of the fold check program (R166, R167): counted and reported for its group; the block fails its check. The
program of this firmware is number 0xFFFF, at address 0, on VSE 0 (log 133). -/
def checkException (s : State) (gn : Nat) (f : FBlock) (code : Nat) : State :=
  s.integ { fcode := 0x0123, sev := 1, unitKind := 3, unit := f.acc * 4, obj := objCode 2 gn, detail := code * 2 ^ 24 + 0xFFFF }

/-- FOLD_CHECK_VERDICT (R167, R198, R200, R201): the check stage's answer for an emitting block. A block waits while its
group is DEGRADED (R213) or its accumulating block has failed (R297). -/
def execFoldCheckVerdict (group pos : Nat) (run : CheckRun) (s : State) : Res :=
  onObj s (okCtx group && okExc run.exc)
    (match Tbl.find? s.groups group, s.fblock group pos with
     | some g, some f =>
       if f.st != .emitting || g.st == 3 || g.st == 1 || (s.block f.acc).fenced || !firstToLeave g pos f then s
       else
         let s := match run.exc with | some c => checkException s group f c | none => s
         let l := blockValues g pos f
         let ends := checkEnds group pos g f run.bad
         let range := ends.flatMap CheckEnd.range
         let fault := ends.any CheckEnd.fault || run.exc.isSome
         let nf := ends.foldl (fun a e => a + e.nonfinite) 0
         if range.isEmpty && !fault then emitGood s group pos g f l false nf run.poisoned
         else
           match f.lastFail with
           | none => emitBad s group pos g f l (some (!fault, range))
           | some (r0, e0) =>
             if r0 && !fault && e0 == range then
               let s := (s.count .foldCheckFail group 1).count .foldRange group 1
               let s := s.general [g.owner] 0x0312 0 (objCode 2 group) 0 (g.stepAt pos) (g.blockAt pos)
               emitGood s group pos g f l true nf run.poisoned
             else failBlock (emitBad s group pos g f l none) f.acc 1
     | _, _ => s)

/-! Results and acknowledgements (R183, R184, R203, R204, R216). -/

/-- A RESULT from the parent is relayed to the members as received; a good one is kept, in cells that may be poisoned (R183,
R202). -/
def handleResult (poisoned : Bool) (s : State) (x : FoldIn) : State :=
  withGroup s x false (fun g =>
    let gn := fGroup x.p
    let pos := fStep x.p * g.nblk + fBlock x.p
    if !fromParent g x then s.count .foldAlien gn 1
    else if g.nblk ≤ fBlock x.p || pos < g.oldest then s.count .foldStale gn 1
    else
      match Tbl.find? g.blocks pos with
      | none => s.count .foldStale gn 1
      | some f =>
        if f.st != .sent then s.count .foldStale gn 1
        else
          let good := tbcOk x.p
          let skip := if f.result.isSome then f.acks else []
          let s := sendResult s gn g (fStep x.p) skip x.p
          let n := ((g.expected (fStep x.p)).filter (fun m => !skip.contains m.1)).length
          let s := if fReplay x.p then s.count .foldReplay gn n else s
          if !good then s.count .foldTbcFail gn 1
          else if f.result.isSome then tryCommit s gn pos
          else
            let s := if poisoned then poisonCell s gn (f.acc / 32) else s
            tryCommit (s.updFB gn pos (fun y => { y with result := some x.p, resultBad := poisoned })) gn pos)

/-- FOLD_RESULT (R183, R202, R277). -/
def execFoldResult (port : Nat) (rx : ResultRx) (s : State) : Res :=
  onObj s (okPort port) (foldRow 3 port rx.frame (fun _ => true) rx.poisoned (handleResult rx.poisoned) s)

/-- One named block of an ACK. -/
def ackBlock (gn m : Nat) (s : State) (pos : Nat) : State :=
  match Tbl.find? s.groups gn with
  | none => s
  | some g =>
    if pos < g.oldest then s
    else
      match Tbl.find? g.blocks pos with
      | none => s.count .foldBadack gn 1
      | some f =>
        if f.st == .committed then s
        else if f.result.isNone then s.count .foldBadack gn 1
        else tryCommit (s.updFB gn pos (fun y => { y with acks := if y.acks.contains m then y.acks else m :: y.acks })) gn pos

/-- An ACK from a member. One that names no block, or blocks beyond the step, counts as bad (log 139). -/
def handleAck (s : State) (x : FoldIn) : State :=
  withGroup s x false (fun g =>
    let gn := fGroup x.p
    match Tbl.find? g.members (fMember x.p) with
    | none => s.count .foldAlien gn 1
    | some mem =>
      if !fromMember mem x then s.count .foldAlien gn 1
      else if !tbcOk x.p then s.count .foldTbcFail gn 1
      else if fEcount x.p = 0 || g.nblk < fBlock x.p + fEcount x.p then s.count .foldBadack gn 1
      else
        (upTo (fEcount x.p)).foldl (fun s i => ackBlock gn (fMember x.p) s (fStep x.p * g.nblk + fBlock x.p + i)) s)

/-- FOLD_ACK (R184). -/
def execFoldAck (port : Nat) (frame : Bytes) (s : State) : Res :=
  onObj s (okPort port) (foldRow 4 port frame (fun _ => true) false handleAck s)

/-! Notices (R185, R200, R204, R206, R211 to R215). -/

/-- The code of a NOTICE. -/
def fCode (p : Bytes) : Nat := fArg p / 2 ^ 24

/-- A NOTICE of a group from a neighbour that may send it: the parent, or a child. -/
def withNotice (s : State) (x : FoldIn) (up down anyGen : Bool) (k : Group → State) : State :=
  withGroup s x anyGen (fun g =>
    let gn := fGroup x.p
    let kid := down && (match Tbl.find? g.members (fMember x.p) with | some m => m.child && fromMember m x | none => false)
    let kidAny := down && g.members.any (fun m => m.2.child && fromMember m.2 x)
    if !((up && fromParent g x) || kid || kidAny) then s.count .foldAlien gn 1
    else if !tbcOk x.p then s.count .foldTbcFail gn 1
    else k g)

/-- Sends the PARTIAL sub-frames of a sent block again with REPLAY (R200), those `want` names. -/
def replayPartial (s : State) (gn pos : Nat) (g : Group) (f : FBlock) (want : Nat → Bool) : State :=
  if f.badHeld then heldFails s gn (f.acc / 32) (f.held.any (fun h => h.damaged))
  else
    let t := (f.held.filter (fun h => !h.damaged)).foldl (fun t h =>
      let child := match Tbl.find? g.members h.member with | some m => m.child | none => false
      let (off, l) := heldValues g (g.blockAt pos) h child
      addFrame t off (l.map Prod.fst)) []
    let fs := (blockFrames gn g pos (blockValues g pos { f with elems := t })).mapIdx (fun i b => (i, b))
    (fs.filter (fun p => want p.1)).foldl (fun s p =>
      (sendParent s gn g (withMarks true false (withTbc true p.2))).count .foldReplay gn 1) s

/-- RESEND from the parent: the sub-frame is sent again. -/
def handleResend (s : State) (x : FoldIn) : State :=
  withNotice s x true false false (fun g =>
    let gn := fGroup x.p
    let pos := fStep x.p * g.nblk + fBlock x.p
    match Tbl.find? g.blocks pos with
    | some f => if f.st == .sent then replayPartial s gn pos g f (fun i => i == fSub x.p) else s
    | none => s)

/-- RESEND_RESULT from a child: the held RESULT is sent to it. -/
def handleResendResult (s : State) (x : FoldIn) : State :=
  withNotice s x false true false (fun g =>
    let gn := fGroup x.p
    match Tbl.find? g.blocks (fStep x.p * g.nblk + fBlock x.p) with
    | some f => (match f.result with | some p => sendHeldResult s gn (fMember x.p) g f p | none => s)
    | none => s)

/-- WINDOW from the parent: the block's PARTIAL was dropped and is sent again (log 23). -/
def handleWindow (s : State) (x : FoldIn) : State :=
  withNotice s x true false false (fun g =>
    let gn := fGroup x.p
    let pos := fStep x.p * g.nblk + fBlock x.p
    match Tbl.find? g.blocks pos with
    | some f => if f.st == .sent && f.result.isNone then replayPartial s gn pos g f (fun _ => true) else s
    | none => s)

/-- EXPEL from the parent. -/
def handleExpel (s : State) (x : FoldIn) : State :=
  withNotice s x true false false (fun _ => expelReplica s (fGroup x.p) (fArg x.p % 65536) (fStep x.p))

/-- HOLD from the parent. -/
def handleHold (s : State) (x : FoldIn) : State :=
  withNotice s x true false false (fun _ => holdGroup s (fGroup x.p) (fStep x.p) 0)

/-- Ends a HOLD at a step (R212): members and children are told. A group that has meanwhile lost a tree neighbour is DEGRADED
at once (R213). -/
def releaseHold (s : State) (gn e : Nat) : State :=
  match Tbl.find? s.groups gn with
  | none => s
  | some g =>
    if g.st = 2 then
      let s := noticeAll (setGroupState s gn 0 5 e) gn g false 8 0 e
      if g.missing.isEmpty then s else retryPaths (setGroupState s gn 1 2 (g.stepAt g.oldest)) gn
    else s

/-- RELEASED from the parent. -/
def handleReleased (s : State) (x : FoldIn) : State :=
  withNotice s x true false false (fun _ => releaseHold s (fGroup x.p) (fStep x.p))

/-- DELETED from a tree neighbour: HOLD (R215). -/
def handleDeleted (s : State) (x : FoldIn) : State :=
  withNotice s x true true false (fun g => holdGroup s (fGroup x.p) g.effective 3)

/-- FAILED from a tree neighbour: the group fails here too (R202). -/
def handleFailed (s : State) (x : FoldIn) : State :=
  withNotice s x true true false (fun _ => failGroup s (fGroup x.p))

/-- The blocks of a group that starts a step again (R214): those of that step and of earlier ones are discarded; blocks of later
steps that have committed here stay so. -/
def Group.restarted (g : Group) (step : Nat) : Tbl FBlock :=
  let first := (step + 1) * g.nblk
  (upTo (g.oldest - first)).map (fun i => (first + i, { st := .committed })) ++
    g.blocks.filter (fun p => decide (first ≤ p.1) && decide (g.oldest ≤ p.1))

/-- A group starts again under a new GEN at its oldest open step (R214): members and children are told. -/
def restartGroup (s : State) (gn gen step : Nat) : State :=
  match Tbl.find? s.groups gn with
  | none => s
  | some g =>
    let g' : Group := { g with gen := gen, oldest := step * g.nblk, missing := [], blocks := g.restarted step }
    let s := s.updGroup gn (fun _ => g')
    let s := if g.st = 1 then setGroupState s gn 0 g.cause step else s
    spillPressure (spillPressure (noticeAll s gn g' false 0x0B 0 step) 0) 1

/-- RESTART from the parent (R214). -/
def handleRestart (s : State) (x : FoldIn) : State :=
  withNotice s x true false true (fun _ => restartGroup s (fGroup x.p) (fGen x.p) (fStep x.p))

/-- A row of one NOTICE code. -/
def noticeRow (code port : Nat) (frame : Bytes) (k : State → FoldIn → State) (s : State) : Res :=
  onObj s (okPort port) (foldRow 6 port frame (fun p => fCode p == code) false k s)

/-- NOTICE_RESEND (R200). -/
def execNoticeResend (port : Nat) (frame : Bytes) (s : State) : Res := noticeRow 1 port frame handleResend s
/-- NOTICE_RESEND_RESULT (R204). -/
def execNoticeResendResult (port : Nat) (frame : Bytes) (s : State) : Res := noticeRow 2 port frame handleResendResult s
/-- NOTICE_WINDOW (R206). -/
def execNoticeWindow (port : Nat) (frame : Bytes) (s : State) : Res := noticeRow 3 port frame handleWindow s
/-- NOTICE_EXPEL (R211). -/
def execNoticeExpel (port : Nat) (frame : Bytes) (s : State) : Res := noticeRow 5 port frame handleExpel s
/-- NOTICE_HOLD (R212). -/
def execNoticeHold (port : Nat) (frame : Bytes) (s : State) : Res := noticeRow 7 port frame handleHold s
/-- NOTICE_RELEASED (R212). -/
def execNoticeReleased (port : Nat) (frame : Bytes) (s : State) : Res := noticeRow 8 port frame handleReleased s
/-- NOTICE_DELETED (R215). -/
def execNoticeDeleted (port : Nat) (frame : Bytes) (s : State) : Res := noticeRow 9 port frame handleDeleted s
/-- NOTICE_FAILED (R202). -/
def execNoticeFailed (port : Nat) (frame : Bytes) (s : State) : Res := noticeRow 0x0A port frame handleFailed s
/-- NOTICE_RESTART (R214). -/
def execNoticeRestart (port : Nat) (frame : Bytes) (s : State) : Res := noticeRow 0x0B port frame handleRestart s

/-- A NOTICE whose code asks nothing of a device: MALFORMED and EXPELLED go to endpoints; any other code is illegal, dropped
and counted (R183, R185). -/
def handleIllegalNotice (s : State) (x : FoldIn) : State :=
  if !tbcOk x.p then s.count .foldTbcFail (fGroup x.p) 1
  else if fCode x.p = 4 ∨ fCode x.p = 6 then s
  else s.count .foldMalformed (fGroup x.p) 1

/-- NOTICE_ILLEGAL (R183, R185). -/
def execNoticeIllegal (port : Nat) (frame : Bytes) (s : State) : Res :=
  onObj s (okPort port)
    (foldRow 6 port frame (fun p => fCode p == 0 || fCode p == 4 || fCode p == 6 || decide (0x0B < fCode p)) false handleIllegalNotice s)

/-- FOLD_TYPE_ILLEGAL (R176, R177): VERSION, TYPE or length is not legal; dropped and counted (log 23). -/
def execFoldTypeIllegal (port : Nat) (frame : Bytes) (s : State) : Res :=
  onObj s (okPort port)
    (match foldFrame s port frame with
     | none => s
     | some (ip, x) =>
       if foldLegal frame ip x then s
       else if rxBlocked s port || (s.port port).st == .opened then s.count .rxBlocked port 1
       else s.count .foldMalformed (fGroup x.p) 1)

/-! The referee (R186, R209, R210). -/

/-- The root decides a step (R210). -/
def refereeDecide (s : State) (gn step : Nat) : State :=
  match Tbl.find? s.groups gn with
  | none => s
  | some g =>
    match Tbl.find? g.digests step with
    | none => s
    | some (d, _) =>
      let e := g.effective
      let s := s.updGroup gn (fun x => { x with digests := Tbl.del x.digests step, decided := Tbl.put x.decided step (d.map Prod.fst) })
      let vals := (d.map Prod.snd).eraseDups
      let major := vals.find? (fun v => decide (g.nreplica < 2 * (d.filter (fun p => p.2 == v)).length))
      match major with
      | none => holdGroup s gn e 0
      | some v =>
        let out := (upTo g.nreplica).filter (fun r => Tbl.find? d r != some v)
        if g.st = 2 ∧ g.holdStep = e then s.updGroup gn (fun x => { x with waitExpel := x.waitExpel ++ out })
        else out.foldl (fun s r => expelReplica s gn r e) s

/-- A DIGEST from a member, or relayed by a child. One for a step or replica that has no digest is stale (log 139). -/
def handleDigest (s : State) (x : FoldIn) : State :=
  withGroup s x false (fun g =>
    let gn := fGroup x.p
    let r := fArg x.p % 65536
    let step := fStep x.p
    if !g.members.any (fun m => fromMember m.2 x) then s.count .foldAlien gn 1
    else if !tbcOk x.p then s.count .foldTbcFail gn 1
    else if fEcount x.p ≠ g.digestLen then s.count .foldMalformed gn 1
    else if !g.root then sendParent s gn g x.p
    else if g.k = 0 || step < g.k || step % g.k != 0 || g.nreplica ≤ r then s.count .foldStale gn 1
    else if Tbl.has g.decided step then
      if (Tbl.getD g.decided step []).contains r then s.count .foldDup gn 1
      else (s.updGroup gn (fun y => { y with decided := Tbl.modify y.decided step (r :: ·) })).count .foldStale gn 1
    else
      let (d, t) := (Tbl.find? g.digests step).getD ([], s.now)
      if Tbl.has d r then s.count .foldDup gn 1
      else
        let d := Tbl.put d r (slice x.p 32 g.digestLen)
        let s := s.updGroup gn (fun y => { y with digests := Tbl.put y.digests step (d, t) })
        if d.length = g.nreplica then refereeDecide s gn step else s)

/-- DIGEST (R209). -/
def execDigest (port : Nat) (frame : Bytes) (s : State) : Res :=
  onObj s (okPort port) (foldRow 5 port frame (fun _ => true) false handleDigest s)

/-- DIGEST_WAIT_EXPIRY (R209). -/
def execDigestWaitExpiry (group step : Nat) (s : State) : Res :=
  onObj s (okCtx group)
    (match Tbl.find? s.groups group with
     | some g =>
       match Tbl.find? g.digests step with
       | some (_, t) => if t + g.digestWait * 1000000000 ≤ s.now then refereeDecide s group step else s
       | none => s
     | none => s)

/-- NO_OTHER_PATH_EXPIRY (R254): 100 ms without another path to a missing tree neighbour. -/
def execNoOtherPathExpiry (group : Nat) (s : State) : Res :=
  onObj s (okCtx group)
    (match Tbl.find? s.groups group with
     | some g =>
       if g.st = 1 ∧ g.missing.any (fun p => decide (p.2 + 100000000000 ≤ s.now) && (otherPath s p.1).isNone) = true then
         holdGroup s group g.effective 2
       else s
     | none => s)

/-- TREE_REBUILD_DONE (R214): the device takes the new GEN, and its new parent if it has one (port, address, UDP port, member
number). In a HOLD for want of another path the group starts again when the host releases it (R254). -/
def execTreeRebuildDone (group gen : Nat) (parent : Option (Nat × Nat × Nat × Nat)) (s : State) : Res :=
  onObj s (okCtx group && decide (gen < 65536))
    (match Tbl.find? s.groups group with
     | some g =>
       if g.st = 3 then s
       else
         let s := s.updGroup group (fun x => match parent with
           | some (p, a, u, m) => { x with root := false, parentPort := p, parentAddr := a, parentUdp := u, pmember := m }
           | none => x)
         if g.st = 2 ∧ g.cause = 2 then s.updGroup group (fun x => { x with gen := gen, missing := [] })
         else restartGroup s group gen (g.stepAt g.oldest)
     | none => s)

/-- What the device does with a fold frame that a board link brings (R230), or that has waited (R265): by TYPE and code. -/
def foldHandle (poisoned : Bool) (s : State) (x : FoldIn) : State :=
  if byteAt x.p 0 / 16 ≠ 1 || foldLen (fTy x.p) ≠ x.p.length then s.count .foldMalformed (fGroup x.p) 1
  else
    match fTy x.p with
    | 1 => handleContrib false poisoned s x
    | 2 => handleContrib true poisoned s x
    | 3 => handleResult poisoned s x
    | 4 => handleAck s x
    | 5 => handleDigest s x
    | 6 =>
      match fCode x.p with
      | 1 => handleResend s x
      | 2 => handleResendResult s x
      | 3 => handleWindow s x
      | 5 => handleExpel s x
      | 7 => handleHold s x
      | 8 => handleReleased s x
      | 9 => handleDeleted s x
      | 0x0A => handleFailed s x
      | 0x0B => handleRestart s x
      | _ => handleIllegalNotice s x
    | _ => s

/-- The oldest fold frame above RES that waits on a port is handled (R265, log 134). -/
def drainPort (s : State) (p : Nat) : State :=
  match s.foldIn.find? (fun w => w.port == p) with
  | none => s
  | some w => foldHandle w.poisoned (pauseUpdate { s with foldIn := s.foldIn.erase w } p) w.x

/-- What a CCLK cycle gives the fold frames that wait: one of each port. -/
def drainFold (s : State) : State := ((s.foldIn.map FoldWait.port).eraseDups).foldl drainPort s

end Sys2Proof.Machine
end

