-- ==== Sys2Proof/Machine/Lanes.lean ====
section
/-! DEFINITION. Board links and lanes (chapter 13): training, retraining, the deep state, lane tests and their registers. -/

namespace Sys2Proof.Machine

/-! Masks and widths (R404, R405). -/

/-- The far end's lane mask in this end's numbering. -/
def mirror (rev : Bool) (m : Nat) : Nat :=
  if rev then (upTo 8).foldl (fun a k => a + b2n (bit m k) * 2 ^ (7 - k)) 0 else m
/-- The lane has seen a violation in the last 4 µs (R404). -/
def BlLane.noisy (now : Nat) (y : BlLane) : Bool :=
  match y.violAt with
  | some t => decide (now < t + 4000000)
  | none => false
/-- GOOD (R404): the lanes trained, but those with a violation in the last 4 µs. -/
def Link.goodAt (now : Nat) (l : Link) : Nat :=
  l.lanes.foldl (fun m p => if p.2.noisy now then m &&& (255 - 2 ^ p.1) else m) l.good
/-- Violations of a lane are counted (R399). -/
def countViol (now : Nat) (y : BlLane) (n : Nat) : BlLane :=
  if n = 0 then y else { y with viol := sat32 (y.viol + n), violAt := some now }
/-- A (R405). -/
def Link.common (now : Nat) (l : Link) : Nat := l.goodAt now &&& mirror l.reversed l.farGood
/-- The width code the lanes allow: 3 ×8 to 0 ×1, none below MIN_WIDTH. -/
def Link.choose (now : Nat) (l : Link) : Option Nat :=
  let n := popcount 8 (l.common now)
  [3, 2, 1, 0].find? (fun w => decide (2 ^ w ≤ n) && decide (l.minWidth ≤ w))
/-- The w lowest-numbered lanes of A. -/
def lowLanes (m w : Nat) : Nat := (((upTo 8).filter (fun k => bit m k)).take w).foldl (fun a k => a + 2 ^ k) 0

/-! Training sets (R403). -/

/-- The set a lane sends; FILL as at the start of training (R411). -/
def tsBytes (s : State) (l lane : Nat) (ts2 deep : Bool) : Bytes :=
  let k := s.link l
  let w := if ts2 then (k.choose s.now).getD 0 else 0
  let b := beBytes 1 (if ts2 then 2 else 1) ++ beBytes 1 (l * 16 + s.boot.boardPos) ++ beBytes 1 lane ++ beBytes 1 (k.goodAt s.now) ++
    beBytes 1 w ++ beBytes 1 (b2n k.warm + b2n deep * 2 + b2n k.seen * 4) ++ (prbs15Bytes 8 (0x7F00 + lane)).2
  [0xBC#8] ++ b ++ [crc8 b]

/-- Coefficients that stop adapting hold (R410, R416). -/
def Coeffs.hold (cycle : Nat) : Coeffs → Coeffs
  | .adapting => .held cycle
  | c => c

/-- BL_LANE_EQ of a lane (R409, R424): cold-start values, or what the adaptation has come to and the eye behind it. -/
def laneEqOf (s : State) (l k : Nat) : Nat :=
  let word := fun c => (Config.laneEq (l * 8 + k) c).toNat
  let taps := fun w => w % 2 ^ 48 / 65536 * 65536 + w % 16
  match (Tbl.getD (s.link l).lanes k {}).coeffs with
  | .cold => 8
  | .adapting => word s.cycle / 2 ^ 48 * 2 ^ 48 + taps (word s.cycle)
  | .held c => word s.cycle / 2 ^ 48 * 2 ^ 48 + taps (word c)

/-- Symbols that belong to no /I/ set end the freeze of every lane (R410). -/
def thaw (s : State) (l : Nat) : State :=
  s.updLink l (fun x => { x with lanes := Tbl.mapVals x.lanes (fun _ y =>
    if y.frozen then { y with frozen := false, coeffs := .adapting } else y) })

/-- The lanes' CDR and adaptation are off; their coefficients hold (R416, R418). -/
def holdCoeffs (s : State) (l : Nat) : State :=
  s.updLink l (fun x => { x with lanes := Tbl.mapVals x.lanes (fun _ y => { y with coeffs := y.coeffs.hold s.cycle }) })

/-- Sends a training set on every lane. -/
def sendTs (s : State) (l : Nat) (ts2 deep : Bool) : State :=
  (upTo 8).foldl (fun s k => s.emit (.train l ts2 (tsBytes s l k ts2 deep))) s

/-- A received set is taken (R403). -/
def tsOk (b : Bytes) : Bool :=
  b.length == 16 && byteAt b 0 == 0xBC && (byteAt b 1 == 1 || byteAt b 1 == 2) && byteAt b 2 / 16 % 8 != 7 &&
    b.drop 15 == [crc8 (slice b 1 14)]

/-- Starts training (R406), cold or from kept coefficients (R417). -/
def startTraining (s : State) (l : Nat) (warm : Bool) : State :=
  let s := s.updLink l (fun x =>
    { x with st := if warm then .exiting else .training, trainStart := s.now, good := 0, activeMask := 0, farValid := false,
             farGood := 0, goodSince := s.now, sendTs2 := false, agree := 0, seen := false, farSeen := false, idleUntil := none, warm := warm,
             deepSince := none, deepSent := false, deepRcvd := false, actionRetrain := false, lostLane := none, resume := false,
             txSeq := 0, rxSeq := 0, lanes := Tbl.mapVals x.lanes (fun _ y =>
               { y with tsCount := 0, frozen := false, coeffs := if warm then y.coeffs else .cold }) })
  sendTs s l false false

/-- Threads that await a QMSG over a link. -/
def qmsgWaiters (s : State) (l : Nat) : List Nat :=
  (List.filter (fun (p : Nat × Thread) => !p.2.done &&
    (match replicaOf s p.2 with
     | some r => r.slices.any (fun x => match x.dev with
         | some d => routeOf s d == some l &&
             (if x.layers.isEmpty then !p.2.remoteGot.contains (d * 64 + x.block)
              else (p.2.phase == .array || p.2.phase == .batch) && x.layers.any (fun q => q.layer == p.2.layer &&
                (upTo q.cols).any (fun i => !Tbl.has p.2.colRow (q.first + i))))
         | none => false)
     | none => false)) s.threads).map Prod.fst

/-- A link resets (R236, R254, R414): its requests complete with LINK, threads that await a QMSG on it are evaluated again over
another route or answered 0x30 (R231), and it trains warm. -/
def resetLink (s : State) (l : Nat) : State :=
  let ws := qmsgWaiters s l
  let s := startTraining ((dropLink s l).count .blReset l 1) l true
  neighbourGone (ws.foldl replayThread s) (65536 + l)

/-! The deep state (R416, R417). -/

/-- Entry as far as it can go: TS2 with DEEP once the replay buffer is empty and no completion is owed; DEEP once both ends
have sent it. -/
def deepTry (s : State) (l : Nat) : State :=
  let k := s.link l
  if k.st != .active || k.deepSince.isNone || !k.replay.isEmpty || k.owed != 0 then s
  else
    let s := if k.deepSent then s else sendTs (s.updLink l (fun x => { x with deepSent := true })) l true true
    if k.deepRcvd then
      ((holdCoeffs s l).updLink l (fun x => { x with st := .deep, deepSince := none, deepSent := false, deepRcvd := false, deepRetry := none }))
        |>.count .blDeepEntry l 1
    else s

/-- This end asks to enter the deep state. -/
def askDeep (s : State) (l : Nat) : State :=
  let k := s.link l
  if k.st = .active ∧ k.deepSince = none then deepTry (s.updLink l (fun x => { x with deepSince := some s.now })) l else s

/-- A deep handshake is given up (R416, R431). -/
def refuseDeep (s : State) (l : Nat) : State :=
  (s.updLink l (fun x =>
    { x with deepSince := none, deepSent := false, deepRcvd := false, deepRefused := true,
             deepRetry := some (s.now + 100000000000) })).count .blDeepRefused l 1

/-- A reset that follows a lane loss posts BL_LANE_LOST with DETAIL 0 (R414). -/
def resetLost (s : State) (l : Nat) : State :=
  let k := s.link l
  let s := match k.lostLane with
    | some n => s.integ { fcode := 0x0153, sev := 2, unitKind := 6, unit := l * 8 + n, detail := 0 }
    | none => s
  resetLink s l

/-- A retrain starts (R413), or restarts with a new GOOD (R431). -/
def startRetrain (s : State) (l : Nat) : State :=
  let s := if (s.link l).st = .active ∧ (s.link l).deepSince.isSome = true then refuseDeep s l else s
  let s := s.updLink l (fun x =>
    { x with st := .retrain, retrainStart := s.now, sendTs2 := true, agree := 0, seen := false, farSeen := false })
  sendTs s l true false

/-- The link enters ACTIVE (R406, R413): from a retrain its SEQ stay, its first packet is an ACK, and it waits for the far
end's; a deep request that came during it proceeds (R431). -/
def enterActive (s : State) (l : Nat) : State :=
  let k := s.link l
  match k.choose s.now with
  | none => s
  | some w =>
    let re := k.st == .retrain
    let s := s.updLink l (fun x =>
      { x with st := .active, width := w, activeMask := lowLanes (x.common s.now) (2 ^ w), sendTs2 := false, agree := 0, seen := false,
               farSeen := false, deepSince := x.deepSince.map (fun _ => s.now), resume := re, idleSince := s.now, lostLane := none, actionRetrain := false, warm := false })
    if re then
      let s := match k.lostLane with
        | some n => (s.count .blDegrade l 1).integ { fcode := 0x0153, sev := 2, unitKind := 6, unit := l * 8 + n, detail := 2 ^ w }
        | none => s
      let s := if k.actionRetrain then s.count .blRetrain l 1 else s
      deepTry (sendAck s l false) l
    else
      let s := if k.deep then s.updLink l (fun x => { x with deepRetry := some (s.now + 100000000000) }) else s
      neighbourBack (pumpLink l (s.link l).waiting.length s) (65536 + l)

/-- The deep state or its handshake is wanted: DEEP set, or S2 entered (R416). -/
def wantsDeep (s : State) (l : Nat) : Bool := (s.link l).deep || s.power.st == 2

/-! Rows of training (R404 to R415). -/

/-- The link's lanes send and receive training sets. -/
def trains (k : Link) : Bool := k.st == .training || k.st == .exiting || k.st == .retrain

/-- The lane and link after a valid set on a lane (R404, R407): what it teaches, and the lane good after 64 of them. -/
def learnTs (s : State) (l lane : Nat) (b : Bytes) : State :=
  let k := s.link l
  let y := Tbl.getD k.lanes lane {}
  let n := min (y.tsCount + 1) 64
  let from_ := byteAt b 3 % 8
  let rev := if k.good = 0 then from_ != lane else k.reversed
  let wired := from_ == (if rev then 7 - lane else lane)
  let good := if 64 ≤ n ∧ wired = true ∧ y.noisy s.now = false then k.good ||| 2 ^ lane else k.good
  let pos := byteAt b 2 % 8
  let mis := pos == s.boot.boardPos
  let s := if mis && !k.miswire then s.count .blMiswire l 1 else s
  s.updLink l (fun x =>
    { x with lanes := Tbl.put x.lanes lane { y with tsCount := n, aligned := true, cdrLock := true, frozen := false, coeffs := .adapting },
             reversed := if good = 0 then x.reversed else rev, good := good,
             goodSince := if good = x.good then x.goodSince else s.now,
             farGood := byteAt b 4, farPos := pos, farLink := byteAt b 2 / 16 % 8, farValid := !mis, met := x.met || !mis, miswire := x.miswire || mis })

/-- A TS2 at an end that sends TS2: agreement on A, which was `old` before it, SEEN, and ACTIVE once 16 TS2 (80 ns) have been sent
with SEEN and one received (R406 steps 3 and 4; log 25). -/
def agreeTs2 (s : State) (l old : Nat) (b : Bytes) : State :=
  let k := s.link l
  let a := k.common s.now
  let ok := k.sendTs2 && mirror k.reversed (byteAt b 4) &&& k.goodAt s.now == a && k.choose s.now == some (byteAt b 5 % 4) && k.farValid
  if !ok then s.updLink l (fun x => { x with agree := 0 })
  else
    let n := if a = old then min (k.agree + 1) 8 else 1
    let seen := k.seen || decide (8 ≤ n)
    let s := s.updLink l (fun x =>
      { x with agree := n, seen := seen, farSeen := x.farSeen || bit (byteAt b 6) 2, seenAt := if k.seen then x.seenAt else s.now })
    if seen && !k.seen then sendTs s l true false
    else if (s.link l).farSeen && k.seen && decide (k.seenAt + 80000 ≤ s.now) then enterActive s l
    else s

/-- The board links do not train: the device is in reset (R551), FENCED (R301) or in S3 or S4 (R510), or their reference
clock has stopped (R559). -/
def linksHeld (s : State) : Bool :=
  !s.boot.released || s.power.fenced || decide (3 ≤ s.power.st) || s.power.stalledClk.contains 6

/-- TRAINING_SET (R403 to R407, R413, R415): a set received on a lane; one that is not valid ends the run of 64 (R404). -/
def execTrainingSet (link lane : Nat) (set : Bytes) (s : State) : Res :=
  onObj s (okLink link && decide (lane < 8))
    (let k := s.link link
     if linksHeld s || k.st == .disabled || k.st == .deep || k.idleUntil.isSome then s
     else if !tsOk set then
       s.updLink link (fun x => { x with lanes := Tbl.put x.lanes lane { Tbl.getD x.lanes lane {} with tsCount := 0 } })
     else
       let ts2 := byteAt set 1 == 2
       let old := k.common s.now
       let s := learnTs s link lane set
       if k.st = .active then
         if ts2 && !bit (byteAt set 6) 1 && bit k.activeMask lane then agreeTs2 (startRetrain s link) link old set else s
       else if ts2 then agreeTs2 s link old set else s)

/-- TRAIN_GOOD_STABLE (R406 step 2, R417): GOOD is non-zero and has not changed for 16 µs, 2 µs when warm. -/
def execTrainGoodStable (link : Nat) (s : State) : Res :=
  onObj s (okLink link)
    (let k := s.link link
     if (k.st == .training || k.st == .exiting) && k.goodAt s.now != 0 && !k.sendTs2 && k.idleUntil.isNone && (k.choose s.now).isSome && k.farValid &&
         decide (k.goodSince + (if k.warm then 2000000 else 16000000) ≤ s.now) then
       sendTs (s.updLink link (fun x => { x with sendTs2 := true })) link true false
     else s)

/-- TRAIN_TIMEOUT (R406): not ACTIVE 2 ms after the start; electrical idle for 1 ms. -/
def execTrainTimeout (link : Nat) (s : State) : Res :=
  onObj s (okLink link)
    (let k := s.link link
     if linksHeld s = false ∧ k.st = .training ∧ k.idleUntil = none ∧ k.trainStart + 2000000000 ≤ s.now then
       (s.updLink link (fun x => { x with idleUntil := some (s.now + 1000000000), good := 0, sendTs2 := false })).count
         .blTrainFail link 1
     else s)

/-- TRAIN_IDLE_END (R406): training starts again. -/
def execTrainIdleEnd (link : Nat) (s : State) : Res :=
  onObj s (okLink link)
    (match (s.link link).idleUntil with
     | some t => if t ≤ s.now then startTraining s link false else s
     | none => s)

/-- A lane of a link is lost (R412 to R414, R431): a link that uses it retrains on what is left, or resets. -/
def laneLost (s : State) (link lane : Nat) : State :=
  let k := s.link link
  let s := s.updLink link (fun x =>
    let y := Tbl.getD x.lanes lane {}
    let y' := { y with tsCount := 0, cdrLock := false, aligned := false, lost := y.lost || x.st == .active || x.st == .retrain }
    { x with good := x.good &&& (255 - 2 ^ lane), goodSince := s.now, lanes := Tbl.put x.lanes lane y' })
  if k.st = .active ∨ k.st = .retrain then
    if !bit k.activeMask lane then s
    else
      let s := s.updLink link (fun x => { x with lostLane := some lane })
      if ((s.link link).choose s.now).isNone || (s.link link).goodAt s.now &&& k.activeMask == 0 then resetLost s link
      else startRetrain s link
  else s

/-- LANE_LOST (R399, R412 to R414, R431), with the code violations counted up to the loss. -/
def execLaneLost (link lane viol : Nat) (s : State) : Res :=
  onObj s (okLink link && decide (lane < 8))
    (let y := Tbl.getD (s.link link).lanes lane {}
     laneLost (s.updLink link (fun x => { x with lanes := Tbl.put x.lanes lane (countViol s.now y viol) })) link lane)

/-- RETRAIN_TIMEOUT (R414): no width within 1 ms. -/
def execRetrainTimeout (link : Nat) (s : State) : Res :=
  onObj s (okLink link)
    (let k := s.link link
     if k.st = .retrain ∧ k.retrainStart + 1000000000 ≤ s.now then resetLost s link else s)

/-- LANE_FREEZE (R410): the lane has received 2,048 symbols of /I/ sets in a row. -/
def execLaneFreeze (link lane : Nat) (s : State) : Res :=
  onObj s (okLink link && decide (lane < 8))
    (if (s.link link).st = .active then
       s.updLink link (fun x =>
         let y := Tbl.getD x.lanes lane {}
         { x with lanes := Tbl.put x.lanes lane { y with frozen := true, coeffs := y.coeffs.hold s.cycle } })
     else s)

/-- EXERCISE_SEQUENCE (R411): 8 µs of nothing but /I/ sets, or since the start of the previous sequence. `errs`, by lane:
bytes that differed in the far end's sequence of the same 8 µs, during which the lanes adapt. -/
def execExerciseSequence (link : Nat) (errs : List Nat) (s : State) : Res :=
  onObj s (okLink link)
    (let k := s.link link
     if k.st = .active ∧ k.idleSince + 8000000 ≤ s.now then
       (((thaw s link).laneCounts link errs (fun y n => { y with exErr := sat32 (y.exErr + n) })).updLink link (fun x =>
         { x with exUntil := s.now + 80625, idleSince := s.now })).emit (.exercise link
           (((upTo 8).filter (fun i => bit k.activeMask i)).map (fun i => (i, (prbs15Bytes 256 (0x7F00 + i)).2))))
     else s)

/-! Rows of the deep state (R416, R417). -/

/-- DEEP_ENTRY (R416): a TS2 with DEEP set arrives; during a retrain it waits for its end (R431). -/
def execDeepEntry (link : Nat) (set : Bytes) (s : State) : Res :=
  onObj s (okLink link)
    (let k := s.link link
     if !tsOk set || byteAt set 1 != 2 || !bit (byteAt set 6) 1 || (k.st != .active && k.st != .retrain) then s
     else
       deepTry (s.updLink link (fun x => { x with deepRcvd := true, deepSince := some (x.deepSince.getD s.now) })) link)

/-- DEEP_REFUSED (R416): the ends do not agree within 1 ms. -/
def execDeepRefused (link : Nat) (s : State) : Res :=
  onObj s (okLink link)
    (match (s.link link).deepSince with
     | some t =>
       if t + 1000000000 ≤ s.now ∧ (s.link link).st = .active then
         let s := refuseDeep s link
         pumpLink link (s.link link).waiting.length s
       else s
     | none => s)

/-- DEEP_RETRY (R416): every 100 ms while the deep state is wanted. -/
def execDeepRetry (link : Nat) (s : State) : Res :=
  onObj s (okLink link)
    (match (s.link link).deepRetry with
     | some t =>
       if t ≤ s.now then
         let s := s.updLink link (fun x => { x with deepRetry := none })
         if wantsDeep s link then askDeep s link else s
       else s
     | none => s)

/-- DEEP_EXIT (R417): DEEP cleared, S0 or S1, a packet queued, or the far end leaves electrical idle; warm training. -/
def execDeepExit (link : Nat) (s : State) : Res :=
  onObj s (okLink link) (if (s.link link).st = .deep then startTraining s link true else s)

/-- WARM_TRAIN_TIMEOUT (R417): not ACTIVE within 100 µs; cold training. -/
def execWarmTrainTimeout (link : Nat) (s : State) : Res :=
  onObj s (okLink link)
    (let k := s.link link
     if k.st = .exiting ∧ k.trainStart + 100000000 ≤ s.now then (startTraining s link false).count .blWarmFail link 1 else s)

/-! Link settings (R418). -/

/-- ENABLE to 0 (R236, R418). -/
def disableLink (s : State) (l : Nat) : State :=
  let ws := qmsgWaiters s l
  let s := (holdCoeffs (dropLink s l) l).updLink l (fun x =>
    { x with enable := false, st := .disabled, good := 0, activeMask := 0, farValid := false, idleUntil := none,
             deepSince := none, deepSent := false, deepRcvd := false, deepRetry := none })
  neighbourGone (ws.foldl replayThread s) (65536 + l)

/-- ENABLE to 1 (R406, R420): every lane returns to NORMAL and the link trains. -/
def enableLink (s : State) (l : Nat) : State :=
  startTraining (s.updLink l (fun x =>
    { x with enable := true, lanes := Tbl.mapVals x.lanes (fun _ y => { y with test := 0, prbsSync := false }) })) l false

/-- The settings of a link command, with its action (R418). -/
def configLink (s : State) (l : Nat) (enable deep : Bool) (minWidth action : Nat) : State :=
  let k := s.link l
  let s := s.updLink l (fun x => { x with minWidth := minWidth, deep := deep })
  let s := if k.enable && !enable then disableLink s l else if !k.enable && enable then enableLink s l else s
  let s := if !deep && k.deep then
      let s := s.updLink l (fun x => { x with deepSince := none, deepSent := false, deepRcvd := false, deepRetry := none })
      if (s.link l).st = .deep ∧ s.power.st ≠ 2 then startTraining s l true else pumpLink l (s.link l).waiting.length s
    else if deep && !k.deep then askDeep s l else s
  if action = 1 ∧ (s.link l).st = .active then
    startRetrain (s.updLink l (fun x => { x with actionRetrain := true })) l
  else if action = 2 ∧ (s.link l).enable = true then resetLink s l
  else s

/-! Lane tests and their registers (R419 to R428). -/

/-- A board-link lane. -/
def State.blLane (s : State) (l k : Nat) : BlLane := Tbl.getD (s.link l).lanes k {}
/-- Changes a board-link lane. -/
def State.updBlLane (s : State) (l k : Nat) (f : BlLane → BlLane) : State :=
  s.updLink l (fun x => { x with lanes := Tbl.put x.lanes k (f (Tbl.getD x.lanes k {})) })
/-- A tile lane. -/
def State.tileLane (s : State) (t k : Nat) : TileLane := Tbl.getD s.tileLanes (t * 64 + k) {}
/-- Changes a tile lane. -/
def State.updTileLane (s : State) (t k : Nat) (f : TileLane → TileLane) : State :=
  { s with tileLanes := Tbl.put s.tileLanes (t * 64 + k) (f (s.tileLane t k)) }

/-- Sync and counts of a PRBS checker after `bits` checked bits with `errors` errors (R419): (sync, bits, errors). -/
def prbsCheck (sync : Bool) (b e bits errors : Nat) : Bool × Nat × Nat :=
  if sync then (!(decide (64 < errors) && decide (bits ≤ 1024)), min (b + bits) (2 ^ 48 - 1), min (e + errors) (2 ^ 32 - 1))
  else (decide (128 ≤ bits) && errors == 0, b, e)

/-- PRBS_SYNC (R419, R427): the checker of a lane in a PRBS or near-loop mode has seen a run of bits. -/
def execPrbsSync (lane : LaneRef) (bits errors : Nat) (s : State) : Res :=
  onObj s (okLane lane)
    (match lane with
     | .board l k =>
       let y := s.blLane l k
       if y.test = 1 ∨ y.test = 2 then
         let r := prbsCheck y.prbsSync y.prbsBits y.prbsErr bits errors
         s.updBlLane l k (fun x => { x with prbsSync := r.1, prbsBits := r.2.1, prbsErr := r.2.2 })
       else s
     | .tile t k =>
       let y := s.tileLane t k
       if y.test ≠ 0 then
         let r := prbsCheck y.prbsSync y.prbsBits y.prbsErr bits errors
         s.updTileLane t k (fun x => { x with prbsSync := r.1, prbsBits := r.2.1, prbsErr := r.2.2 })
       else s)

/-- A write of CNT_CLR by a PF (R422, R425, R428). -/
def cntClear (s : State) (fn : Nat) (lane : LaneRef) (value : Nat) : State :=
  if fn % 64 ≠ 0 || !s.live || !bit value 0 then s
  else
    match lane with
    | .board l k => s.updBlLane l k (fun x => { x with exErr := 0, viol := 0, prbsBits := 0, prbsErr := 0 })
    | .tile t k => s.updTileLane t k (fun x => { x with prbsBits := 0, prbsErr := 0, fecSym := 0 })

/-- CNT_CLR (R422, R425, R428). -/
def execCntClr (fn : Nat) (lane : LaneRef) (value : Nat) (s : State) : Res :=
  onObj s (okFn fn && okLane lane) (cntClear s fn lane value)

/-- A write of INJECT by a PF: one bit inverted, in PRBS mode only (R422, R428). -/
def injectBit (s : State) (fn : Nat) (lane : LaneRef) (value : Nat) : State :=
  if fn % 64 ≠ 0 || !s.live || !bit value 0 then s
  else
    match lane with
    | .board l k => if (s.blLane l k).test = 1 then s.updBlLane l k (fun x => { x with inject := true }) else s
    | .tile t k => if (s.tileLane t k).test ≠ 0 then s.updTileLane t k (fun x => { x with inject := true }) else s

/-- INJECT (R422, R428): one bit inverted, in PRBS mode only. -/
def execInject (fn : Nat) (lane : LaneRef) (value : Nat) (s : State) : Res :=
  onObj s (okFn fn && okLane lane) (injectBit s fn lane value)

/-- The port that owns a tile lane: the sub-port whose lanes it is among (R426). -/
def laneOwner (s : State) (t k : Nat) : Nat :=
  let p := (8 * t + k / 8) * 8
  p + k % 8 / (8 / 2 ^ portMode s p)

/-- A write of TEST by a PF (R420, R422, R427, R428). -/
def testMode (s : State) (fn : Nat) (lane : LaneRef) (value : Nat) : State :=
  if fn % 64 ≠ 0 || !s.live then s
  else
    match lane with
    | .board l k =>
      let v := value % 8
      if v = 0 then s.updBlLane l k (fun x => { x with test := 0, prbsSync := false })
      else if 4 ≤ v ∨ (s.link l).enable = true then s.updBlLane l k (fun x => { x with testDenied := true })
      else s.updBlLane l k (fun x => { x with test := v, prbsSync := false })
    | .tile t k =>
      let v := value % 4
      if v = 0 then s.updTileLane t k (fun x => { x with test := 0, prbsSync := false })
      else if v = 3 ∨ (s.port (laneOwner s t k)).st ≠ .disabled then s.updTileLane t k (fun x => { x with testDenied := true })
      else s.updTileLane t k (fun x => { x with test := v, prbsSync := false })

/-- TEST_MODE_WRITE (R420, R422, R427, R428). -/
def execTestModeWrite (fn : Nat) (lane : LaneRef) (value : Nat) (s : State) : Res :=
  onObj s (okFn fn && okLane lane) (testMode s fn lane value)

/-- BL_LANE_CNT of a lane (R425). -/
def blLaneCnt (y : BlLane) : Nat := y.exErr * 2 ^ 128 + y.viol * 2 ^ 96 + y.prbsBits * 2 ^ 32 + y.prbsErr

/-- BL_LANE_CNT_LATCH (R425): the read of the first word latches all six for the reader and returns it. -/
def execBlLaneCntLatch (fn link lane : Nat) (s : State) : Res :=
  onObj s (okFn fn && okLink link && decide (lane < 8))
    (if fn % 64 ≠ 0 || !s.live then s.emit (.bar fn (zeros 4))
     else
       let v := blLaneCnt (s.blLane link lane)
       (s.updFn fn (fun x => { x with laneLatch := Tbl.put x.laneLatch (link * 8 + lane) v })).emit (.bar fn (leBytes 4 v)))

/-- The counts of a tile lane at 0x08 to 0x1C (R428). -/
def tileLaneCnt (y : TileLane) : Nat := y.fecSym * 2 ^ 96 + y.prbsBits * 2 ^ 32 + y.prbsErr

/-- TILE_LANE_CNT_LATCH (R428). -/
def execTileLaneCntLatch (fn tile lane : Nat) (s : State) : Res :=
  onObj s (okFn fn && decide (tile < 16) && decide (lane < 64))
    (if fn % 64 ≠ 0 || !s.live then s.emit (.bar fn (zeros 4))
     else
       let v := tileLaneCnt (s.tileLane tile lane)
       (s.updFn fn (fun x => { x with laneLatch := Tbl.put x.laneLatch (1024 + tile * 64 + lane) v })).emit (.bar fn (leBytes 4 v)))

/-- LASER_IN of a tile is measured anew: LASER_LOW is set below 40 mW and clears above 45 mW (R428, R554). -/
def laserLowFlag (s : State) (tile mw : Nat) : State :=
  { s with laserIn := Tbl.put s.laserIn tile mw,
           laserLow := if mw < 40 then (if s.laserLow.contains tile then s.laserLow else tile :: s.laserLow)
                       else if 45 < mw then s.laserLow.filter (· ≠ tile) else s.laserLow }

/-- The tile has too little light for its ports: LASER_LOW stands, or the power measured last is below 40 mW (R428, R507). -/
def dark (s : State) (tile : Nat) : Bool :=
  s.laserLow.contains tile || (match Tbl.find? s.laserIn tile with | some mw => decide (mw < 40) | none => false)

end Sys2Proof.Machine
end

