-- ==== Sys2Proof/Machine/Ports.lean ====
section
/-! DEFINITION. Ports: MAC counters, MAC Control frames, link state, discovery, management ports (chapter 11, R187, R253,
R254). -/

namespace Sys2Proof.Machine

/-! Link state and discovery (R253, R254, R358, R359). -/

/-- A port changes state; every PF is told (R448). -/
def setPortState (s : State) (p : Nat) (st : PortSt) : State :=
  let old := (s.port p).st
  if old = st then s
  else (s.updPort p (fun x => { x with st := st })).general pfs 0x0320 0 0 (portField p) st.code old.code

/-- The HELLO heard on a port matches its plan entry. -/
def helloMatch (x : Plan) (n : Neigh) : Bool :=
  n.helloSys == x.systemId && n.helloPort == x.peerPort &&
    (if x.expect = 2 then n.helloRole == 1 && n.helloDev == x.device else n.helloRole == 2)

/-- The LLDP advertisement heard on a port matches its plan entry. -/
def lldpMatch (x : Plan) (n : Neigh) : Bool := n.chassis == x.cid && (x.pid.isEmpty || n.portId == x.pid)

/-- How a port that is up faces its neighbour (R253): 0 present, 1 missing, 2 unplanned, 3 not named by the plan. -/
def neighStatus (s : State) (p : Nat) : Nat :=
  let n := Tbl.getD s.neigh p {}
  let h := decide (s.now < n.helloUntil)
  let l := decide (s.now < n.lldpUntil)
  match Tbl.find? s.plans p with
  | none => 3
  | some x =>
    if x.expect = 0 then (if h || l then 2 else 0)
    else
      let lldp := !x.cid.isEmpty && l
      if (h && !helloMatch x n) || (lldp && !lldpMatch x n) then 2
      else if h || lldp then 0 else 1

/-- Port state that a neighbour status asks for (R254, R359). -/
def stateFor (s : State) (p status : Nat) : PortSt :=
  match status with
  | 0 => .forwarding
  | 2 => (match Tbl.find? s.plans p with | some x => if x.policy = 1 then .opened else .blocking | none => .blocking)
  | _ => .blocking

/-- NEIGHBOUR event (R448): 0 present, 1 missing, 2 unplanned, 3 returned. -/
def neighbourEvent (s : State) (p cause : Nat) : State :=
  let n := Tbl.getD s.neigh p {}
  ({ s with neigh := Tbl.put s.neigh p { n with lastCause := some cause } }).general pfs 0x0321 cause 0 (portField p) 0 0

/-- Acts on what discovery knows of a port (R254). -/
def applyDiscovery (s : State) (p : Nat) : State :=
  if !portUp (s.port p) then s
  else
    let st := neighStatus s p
    let last := (Tbl.getD s.neigh p {}).lastCause
    let was := last == some 0 || last == some 3
    let s := setPortState s p (stateFor s p st)
    match st with
    | 0 => if was then s else neighbourBack (neighbourEvent s p (if last = some 1 then 3 else 0)) p
    | 1 => if was then neighbourGone (neighbourEvent s p 1) p else s
    | 2 =>
      if last = some 2 then s
      else
        let s := neighbourEvent s p 2
        if was then neighbourGone s p else s
    | _ => s

/-- Optical lanes of a port or sub-port, as keys of the tile-lane table. -/
def lanesOfPort (s : State) (p : Nat) : List Nat :=
  let n := 8 / 2 ^ portMode s p
  (upTo n).map (fun i => p / 64 * 64 + p / 8 % 8 * 8 + (p % 8 * n + i) % 8)

/-- LINK_HOLD_EXPIRY (R358, R359): the conditions have held for LINK_HOLD without a break; the port comes up, or a received
remote fault is over. -/
def execLinkHoldExpiry (port : Nat) (s : State) : Res :=
  onObj s (okPort port)
    (let x := s.port port
     if !portExists s port || !x.cfg.enable || s.power.fenced || 1 < s.power.st ||
         s.place.lost.any (fun l => l.obj == .port port) || dark s (port / 64) || s.now < x.physSince + x.cfg.linkHold * 1000000000 then s
     else if portUp x then s.updPort port (fun y => { y with remoteFault := false })
     else
       let s := { s with tileLanes := (lanesOfPort s port).foldl (fun t k =>
         Tbl.put t k { Tbl.getD t k {} with signal := true, lock := true }) s.tileLanes }
       applyDiscovery (setPortState (s.updPort port (fun y => { y with remoteFault := false })) port .blocking) port)

/-- A port goes down (R358): its queues are dropped, its pause timers cleared, its neighbour is missing. -/
def portDown (s : State) (p : Nat) (nx : PortSt) : State :=
  let x := s.port p
  let up := portUp x
  let s := (upTo 9).foldl (fun s c => settlePaused s p c) s
  let queued := x.replyQ ++ (x.groupQ.flatMap Prod.snd) ++ (x.classQ.flatMap Prod.snd) ++ x.pauseQ ++
    (match x.cur with | some (f, _) => [f] | none => [])
  let s := s.updPort p (fun y =>
    { y with replyQ := [], groupQ := [], classQ := [], pauseQ := [], cur := none, pfc := [], pause := {},
             xoff := [], physSince := s.now, remoteFault := false, deficit := [] })
  let s := setPortState (if up && nx == .down then s.count .linkDown p 1 else s) p nx
  let s := if queued.isEmpty then s else s.count .txDownDrop p queued.length
  let s := queued.foldl (fun s f => match f.kind with
    | .reply r => replyLeft s r f.recs false
    | .retract r => retire (s.updReq r (fun q => { q with framesOut := q.framesOut - 1 })) r
    | _ => s) s
  let s := (queued.filterMap TxFrame.ingress).foldl (fun s i => pauseUpdate s i.1) s
  let n := Tbl.getD s.neigh p {}
  let was := n.lastCause == some 0 || n.lastCause == some 3
  let s := { s with neigh := Tbl.put s.neigh p { n with helloUntil := 0, lldpUntil := 0 } }
  if was then neighbourGone (neighbourEvent s p 1) p else s

/-- LINK_DOWN (R33, R297, R358). `cause` [1:0]: 0 loss of signal or lock of lane [4:2], 1 loss of alignment, 2 local fault,
3 remote fault received, on which the port only stops sending frames. -/
def execLinkDown (port cause : Nat) (s : State) : Res :=
  onObj s (okPort port && decide (cause < 32))
    (let x := s.port port
     if !portExists s port || !x.cfg.enable then s
     else if cause % 4 = 3 then
       if portUp x then s.updPort port (fun y => { y with remoteFault := true, physSince := s.now }) else s
     else
       let k := port / 64 * 64 + port / 8 % 8 * 8 + cause / 4
       let s := if cause % 4 = 0 then
           (({ s with tileLanes := Tbl.put s.tileLanes k { Tbl.getD s.tileLanes k {} with signal := false, lock := false,
                                                                                          losSeen := true } }).integ
             { fcode := 0x0152, sev := 2, unitKind := 5, unit := port / 8 * 8 + cause / 4 })
         else s
       if portUp x then portDown s port .down else s.updPort port (fun y => { y with physSince := s.now }))

/-- LASER_LOW (R428, R554): while the tile is dark every port of it is down; when light returns LINK_HOLD begins. -/
def execLaserLow (tile milliwatt : Nat) (s : State) : Res :=
  onObj s (decide (tile < 16))
    (let was := dark s tile
     let s := laserLowFlag s tile milliwatt
     if dark s tile then
       ((s.ports.filter (fun q => q.1 / 64 == tile && portUp q.2)).map Prod.fst).foldl (fun s p => portDown s p .down) s
     else if was then
       { s with ports := s.ports.map (fun q =>
         (q.1, if q.1 / 64 == tile && !portUp q.2 then { q.2 with physSince := s.now } else q.2)) }
     else s)

/-! The receive MAC and MAC Control (R355, R361 to R364). -/

/-- Counters of one received frame (R355). -/
def countRx (s : State) (obj max_ : Nat) (f : Bytes) : State :=
  if f.length < 64 then s.count .rxRunt obj 1
  else if max_ < f.length then s.count .rxOversize obj 1
  else if !fcsOk f then s.count .rxFcs obj 1
  else s.count .rxOk obj 1

/-- The frame is a MAC Control frame with an opcode, for this port (R361). -/
def macControl (s : State) (p : Nat) (f : Bytes) : Option Nat :=
  if be f 12 2 = 0x8808 ∧ macGood s p f = true then
    some (if be f 0 6 = 0x0180C2000001 ∨ be f 0 6 = (s.port p).cfg.macAddr then be f 14 2 else 0)
  else none

/-- MAC_FRAME_RX (R355, R363, R375, R395, R428, R429): counters of a received frame, of the FEC codewords that brought it and
of the symbols corrected in them, by lane of the port. -/
def execMacFrameRx (port : Nat) (frame : Bytes) (codewords : Nat × Nat × Nat) (syms : List Nat) (s : State) : Res :=
  onObj s (okPort port)
    (if !portExists s port || s.power.fenced || !portUp (s.port port) || 1 < s.power.st then s
     else
       let ys := ((lanesOfPort s port).zip syms).foldl (fun (t : Tbl TileLane) (p : Nat × Nat) =>
         let y := Tbl.getD t p.1 {}
         if p.2 = 0 then t else Tbl.put t p.1 { y with fecSym := sat32 (y.fecSym + p.2) }) s.tileLanes
       let s := { s with tileLanes := ys }
       let s := ((s.count .fecCw port codewords.1).count .fecCwCorr port codewords.2.1).count .fecCwUncorr port codewords.2.2
       let s := countRx s port (s.port port).cfg.maxFrame frame
       match macControl s port frame with
       | some op => if op = 1 ∨ op = 0x0101 then s else s.count .rxFcIgnored port 1
       | none => s)

/-- Loads a pause timer: it takes effect 12 cycles from now (R362). -/
def PauseTimer.load (x : PauseTimer) (now quanta quantum : Nat) : PauseTimer :=
  { x with loads := x.loads ++ [(now + 9600, now + 9600 + quanta * quantum)] }

/-- The port takes MAC Control frames now. -/
def ctlAlive (s : State) (p : Nat) : Bool := portExists s p && !s.power.fenced && portUp (s.port p) && decide (s.power.st ≤ 1)

/-- PAUSE (R361 to R363). -/
def execPause (port : Nat) (frame : Bytes) (s : State) : Res :=
  onObj s (okPort port)
    (if !ctlAlive s port || macControl s port frame ≠ some 1 then s
     else if (s.port port).cfg.fcMode ≠ 1 then s.count .rxFcIgnored port 1
     else
       let s := (settlePaused s port 8).count .rxPause port 1
       s.updPort port (fun x => { x with pause := x.pause.load s.now (be frame 16 2) (quantumPs s port) }))

/-- PFC (R363, R364). -/
def execPfc (port : Nat) (frame : Bytes) (s : State) : Res :=
  onObj s (okPort port)
    (if !ctlAlive s port || macControl s port frame ≠ some 0x0101 then s
     else if (s.port port).cfg.fcMode ≠ 2 then s.count .rxFcIgnored port 1
     else
       (upTo 8).foldl (fun s c =>
         if bit (be frame 16 2) c && bit (s.port port).cfg.pfcClasses c then
           let s := (settlePaused s port c).count .rxPfc port 1 c
           s.updPort port (fun x =>
             { x with pfc := Tbl.put x.pfc c ((Tbl.getD x.pfc c {}).load s.now (be frame (18 + 2 * c) 2) (quantumPs s port)) })
         else s) s)

/-- PAUSE_TIMER_EXPIRY (R362, R364): a timer has reached zero; class 8 is the port's. -/
def execPauseTimerExpiry (port cls : Nat) (s : State) : Res :=
  onObj s (okPort port && decide (cls < 9))
    (let x := s.port port
     if cls = 8 then
       if x.pause.spent s.now then (settlePaused s port 8).updPort port (fun y => { y with pause := { y.pause with loads := [] } })
       else s
     else
       match Tbl.find? x.pfc cls with
       | some t => if t.spent s.now then (settlePaused s port cls).updPort port (fun y => { y with pfc := Tbl.del y.pfc cls }) else s
       | none => s)

/-! Management ports (R369, R371). -/

/-- MGMT_FRAME_RX (R355, R369, R371, R453): outside S3 and S4 a good frame goes to the owner's receive ring; PAUSE is obeyed
where configured; frames that arrive during the exit from S3 are dropped. -/
def execMgmtFrameRx (mg : Nat) (frame : Bytes) (s : State) : Res :=
  onObj s (okMgmt mg)
    (let obj := 65536 + mg
     let exiting := match s.power.transit with | .exit _ => true | _ => false
     if s.power.st = 3 then (if exiting then s.count .wakeDrop obj 1 else s)
     else if s.power.st = 4 || !s.live then s
     else
       let s := countRx s obj 9216 frame
       let m := Tbl.getD s.mgmts mg {}
       if frame.length < 64 || 9216 < frame.length || !fcsOk frame then s
       else if be frame 12 2 = 0x8808 then
         let s := settleMgmt s mg
         let m := Tbl.getD s.mgmts mg {}
         if m.fcPause && be frame 14 2 == 1 && be frame 0 6 == 0x0180C2000001 then
           let s := s.count .rxPause obj 1
           { s with mgmts := Tbl.put s.mgmts mg { m with pause := m.pause.load s.now (be frame 16 2) 20480 } }
         else s.count .rxFcIgnored obj 1
       else
         match m.owner with
         | some h => deliverRx s (64 * h) 0 (32768 + mg) s.tu.views (frame.take (frame.length - 4))
         | none => s)

/-! HELLO and LLDP (R187, R373, R374). -/

/-- Where a discovery frame may be processed: the port is up, in S0 or S1. -/
def discoverAlive (s : State) (p : Nat) : Bool := rxAlive s p

/-- HELLO (R174, R187, R253). -/
def execHello (port : Nat) (frame : Bytes) (s : State) : Res :=
  onObj s (okPort port)
    (match foldFrame s port frame with
     | none => s
     | some (ip, x) =>
       if !foldLegal frame ip x || fTy x.p != 7 || !helloIp s port frame ip || !(s.port port).cfg.foldEn || !foldGood s port frame ip then s
       else if !tbcOk x.p then s.count .foldTbcFail 0 1
       else
         let b := x.p.drop 32
         let role := byteAt b 8 / 16
         if role = 0 || 2 < role then s
         else
           let n := Tbl.getD s.neigh port {}
           let n := { n with helloSys := be b 0 8, helloRole := role, helloDev := byteAt b 9, helloPort := be b 10 2 &&& 0x7F07,
                             helloUntil := s.now + 3 * be b 12 2 * 1000000000 }
           applyDiscovery { s with neigh := Tbl.put s.neigh port n } port)

/-- FORMATS of a HELLO: every code of R178. -/
def helloFormats : Nat := 2 + 4 + 8 + 16 + 0x10000 + 0x20000 + 0x40000 + 0x80000 + 0x100000

/-- UDP payload of the HELLO a port sends. -/
def helloPayload (s : State) (p : Nat) : Bytes :=
  withTbc true (({ ty := 7, group := 0, step := s.place.helloSeq % 2 ^ 32 : FHdr }).bytes ++
    beBytes 8 s.dev.systemId ++ beBytes 1 0x10 ++ beBytes 1 s.boot.boardPos ++ beBytes 2 (p / 8 * 256 + p % 8) ++
    beBytes 2 s.dev.helloPeriod ++ zeros 2 ++ beBytes 4 helloFormats ++ zeros 12)

/-- Queues a HELLO of one IP family on a port. -/
def sendHello (s : State) (p : Nat) (v6 : Bool) : State :=
  match ownFold s v6 with
  | none => s
  | some (own, up) =>
    let dst := if v6 then 0xff02 * 2 ^ 112 + 1 else mapped4 0xFFFFFFFF
    let d := udpDgram v6 own dst up up (helloPayload s p)
    let f : TxFrame :=
      { bytes := ethHdr (if v6 then 0x333300000001 else 0xFFFFFFFFFFFF) (s.port p).cfg.macAddr none (ipEtype v6) ++
          ipHdr v6 own dst 0 1 d.length ++ d, kind := .hello }
    s.updPort p (fun x => { x with replyQ := x.replyQ ++ [f] })

/-- HELLO_TX (R187, R374): every HELLO_PERIOD, on each port that is up with FOLD_EN and a MAC address. -/
def execHelloTx (s : State) : Res :=
  .next (
    let due := match s.place.helloAt with | some t => decide (t + s.dev.helloPeriod * 1000000000 ≤ s.now) | none => true
    if !s.live || 1 < s.power.st || !due then s
    else
      let ps := (List.filter (fun (q : Nat × Port) => portExists s q.1 && portUp q.2 && q.2.cfg.foldEn && q.2.cfg.macAddr != 0)
        s.ports).map Prod.fst
      let s := ps.foldl (fun s p => sendHello (sendHello s p false) p true) s
      { s with place := { s.place with helloAt := some s.now, helloSeq := s.place.helloSeq + 1 } })

/-- The first TLV of a type in an LLDP frame body. -/
def lldpTlv (ty : Nat) : Nat → Bytes → Option Bytes
  | 0, _ => none
  | n + 1, b =>
    if b.length < 2 then none
    else
      let h := be b 0 2
      let len := h % 512
      if h / 512 = 0 || b.length < 2 + len then none
      else if h / 512 = ty then some (slice b 2 len)
      else lldpTlv ty n (b.drop (2 + len))

/-- LLDP (R373): identifiers are compared without their subtype byte (log 24). -/
def execLldp (port : Nat) (frame : Bytes) (s : State) : Res :=
  onObj s (okPort port)
    (let k := parsePkt s.dev.tpid frame
     if !discoverAlive s port || !macGood s port frame || !isLldp k then s
     else
       let f := frame.take (frame.length - 4)
       let b := f.drop k.l3
       let s := match Tbl.find? s.plans port with
         | some x => deliverRx s x.fn 1 (portField port) (ingressViews s port) f
         | none => s
       match lldpTlv 1 b.length b, lldpTlv 2 b.length b, lldpTlv 3 b.length b with
       | some c, some i, some t =>
         let n := Tbl.getD s.neigh port {}
         let n := { n with chassis := c.drop 1, portId := i.drop 1, lldpUntil := s.now + be t 0 2 * second }
         applyDiscovery { s with neigh := Tbl.put s.neigh port n } port
       | _, _, _ => s.count .lldpBad port 1)

/-- NEIGHBOUR_MISSING (R253, R254): a lifetime has run out; what the plan asks of the port is applied. -/
def execNeighbourMissing (port : Nat) (s : State) : Res :=
  onObj s (okPort port) (applyDiscovery s port)

/-! Frames that end early (R287, R289, R297). -/

/-- The RESULT or PARTIAL of a block of this device that a fold frame holds is sent again with REPLAY, to where the frame was
going. -/
def foldAgain (s : State) (gn : Nat) (frame : Bytes) : State :=
  let k := parsePkt s.dev.tpid frame
  match k.ip, Tbl.find? s.groups gn with
  | some ip, some g =>
    let p := udpPayload frame ip
    let pos := fStep p * g.nblk + fBlock p
    match Tbl.find? g.blocks pos with
    | some f =>
      if f.st != .sent then s
      else if fTy p = 2 ∧ g.root = false then replayPartial s gn pos g f (fun i => i == fSub p)
      else if fTy p = 3 ∧ g.root = true then
        match f.result with
        | some r =>
          ((g.expected (g.stepAt pos)).filter (fun m => m.2.addr == ip.dst && m.2.udp == udpDst frame ip)).foldl
            (fun s m => sendHeldResult s gn m.1 g f r) s
        | none => s
      else s
    | none => s
  | _, _ => s

/-- STREAM_STOP_TIMEOUT (R287, R289): the frame ends after `sent` bytes, padded to 8, with an inverted FCS; a reply or
RETRACT is built again whole in its place, a fold block's RESULT or PARTIAL is sent again with REPLAY (R297). -/
def execStreamStopTimeout (port sent : Nat) (s : State) : Res :=
  onObj s (okPort port)
    (match (s.port port).cur with
     | none => s
     | some (f, _) =>
       let b := padMul 8 (f.bytes.take sent)
       let s := s.updPort port (fun x => { x with cur := none })
       let s := (s.emit (.frame port (withFcs false b))).count .stumpTx 0 1
       let again := match f.kind with | .reply _ => true | .retract _ => true | _ => false
       let s := if again then s.updPort port (fun x => { x with replyQ := f :: x.replyQ }) else s
       let s := match f.kind with | .fold gn => foldAgain s gn f.bytes | _ => s
       match f.ingress with
       | some (i, _) => pauseUpdate s i
       | none => s)

end Sys2Proof.Machine
end

