-- ==== Sys2Proof/Machine/Integrity.lean ====
section
/-! DEFINITION. Integrity (chapter 09): hardened words, memory errors, restores, bank scrubs, the in-field test, core and
service-processor failures, clocks, the loss of a stack, fencing, coalesced events (R33, R273 to R308). -/

namespace Sys2Proof.Machine

/-! Hardened words (R273 to R276). -/

/-- The object a hardened word belongs to exists. -/
def hardOk : HardKind → Bool
  | .model c => okCtx c
  | .group g => okCtx g
  | .route t _ => decide (t < 7)
  | .port p => okPort p
  | .region r => decide (r < 4096)
  | .sequencer b => okBlock b
  | .reg f _ => okFn f

/-- What a loss does at once, beside the standing action of its object (R275). -/
def lostAction (s : State) : HardKind → State
  | .port p => if portUp (s.port p) then portDown s p .down else s
  | .sequencer b => failBlock s b 3
  | .reg _ o => if o = 0x3004 then s.updTu (fun t => { t with toutUntil := [] }) else s
  | _ => s

/-- The word of a register is in its write vote (R274). -/
def inVote (s : State) : HardKind → Bool
  | .reg f o => s.votes.any (fun v => v.fn == f && v.off == o)
  | _ => false

/-- HARD_SCRUB (R273 to R275): the three copies of a word of an object as read. The majority stands; a copy that disagrees is
written back; without any two equal copies the word is lost. A word in its vote is skipped. -/
def execHardScrub (word : HardWord) (a b c : Nat) (s : State) : Res :=
  let obj := word.obj
  onObj s (hardOk obj)
    (if a = b ∧ b = c then s
     else if s.place.lost.any (fun l => l.obj == obj && l.word == word.word) || inVote s obj then s
     else if a = b ∨ b = c ∨ a = c then
       (s.count .hardCorrected 0 1).integ { fcode := 0x0101, sev := 0, unitKind := 10, obj := obj.object, detail := 1 }
     else
       let s := (s.count .hardLost 0 1).integ { fcode := 0x0102, sev := 1, unitKind := 10, obj := obj.object, detail := obj.code }
       let l : Lost := { obj := obj, at_ := s.now, word := word.word }
       lostAction { s with place := { s.place with lost := s.place.lost ++ [l] } } obj)

/-- HARD_RESTORED (R275, R276): a lost word comes back from the master copy (0), from the journal (1), or neither can be read (2),
when the object keeps its action until the command that set it is issued again. A port retrains with its last word. -/
def execHardRestored (word : HardWord) (source : Nat) (s : State) : Res :=
  let obj := word.obj
  onObj s (hardOk obj && decide (source < 3))
    (let this := fun (l : Lost) => l.obj == obj && l.word == word.word
     match s.place.lost.find? this with
     | none => s
     | some l =>
       if source = 2 then
         if l.unrecoverable then s
         else
           ({ s with place := { s.place with lost := s.place.lost.map (fun (x : Lost) =>
               if this x then { x with unrecoverable := true } else x) } }).integ
             { fcode := 0x0104, sev := 1, unitKind := 10, obj := obj.object, detail := obj.code }
       else
         let s := ({ s with place := { s.place with lost := s.place.lost.filter (fun (x : Lost) => !this x) } }).integ
           { fcode := 0x0103, sev := 0, unitKind := 10, obj := obj.object, detail := source }
         match obj with
         | .port p => if s.place.lost.any (fun x => x.obj == obj) then s else s.updPort p (fun x => { x with physSince := s.now })
         | _ => s)

/-! HBM and resident data (R278 to R281). -/

/-- HBM_SCRUB (R278, R279, R297): a corrected error is written back; an uncorrectable one poisons the granule. -/
def execHbmScrub (granule : Nat) (uncorrectable : Bool) (s : State) : Res :=
  onObj s (decide (granule < hbmSize / 64))
    (let a := granule * 64
     let k := stackOf a
     if !bit s.place.stackLive k then s
     else if !uncorrectable then
       (s.count .eccCorrected 0 1).integ { fcode := 0x0110, sev := 0, unitKind := 4, unit := k, addr := a, detail := 1 }
     else poisonGranule s granule)

/-- How the copy of an image section stands (R280, R281): 0 good, 1 poisoned, 2 lost with its stack or no longer as its TBC
says. -/
def copyState (s : State) (v : MVer) (x : Sec) : Nat :=
  let a := v.copyAt + x.off
  if !bit s.place.stackLive (stackOf a) then 2
  else if s.poisoned a x.len then 1
  else if Memory.read s.hbm a x.len == slice v.image x.off x.len then 0
  else 2

/-- DATA_RESTORED (R280, R281): damaged resident data of a context on a block, of the section type `sec`, is rewritten from the
image copy; the threads `hit` would have read it first and are answered 0x30. The read of the copy finds the granules `bad`
uncorrectable (R279). -/
def execDataRestored (ctx sec block : Nat) (hit bad : List Nat) (s : State) : Res :=
  onObj s (okCtx ctx && okBlock block)
    (let vs := ((s.model ctx).vers.map Prod.snd).filter (MVer.on block)
     let xs := vs.flatMap (fun v => ((secTable v.image).filter (fun x => x.ty == sec)).map (fun x => (v, x)))
     if xs.isEmpty ||
         !hit.all (fun t => (threadsUsing s block).any (fun p => p.1 == t && p.2.model == ctx && !p.2.done)) then s
     else
       let s := hit.foldl (fun s t => s.threadFault t) s
       let s := foundBad s (xs.map (fun x => (x.1.copyAt + x.2.off, x.2.len))) bad
       let obj := objCode 1 ctx
       match (xs.map (fun x => copyState s x.1 x.2)).foldl max 0 with
       | 0 => (s.count .dataRestored 0 1).integ { fcode := 0x0114, sev := 0, unitKind := 1, unit := block, obj := obj, detail := sec }
       | 1 => modelFault ((s.count .poisonConsumed 0 1).integ
             { fcode := 0x0112, sev := 1, unitKind := 4, unit := stackOf (((xs.find? (fun x => copyState s x.1 x.2 == 1)).map
               (fun x => x.1.copyAt + x.2.off)).getD 0), obj := obj, detail := 3 }) ctx 0
       | _ => modelFault s ctx 2)

/-! Leaf rule scrub (R282, R283). -/

/-- Cycles in 24 hours. -/
def dayCycles : Nat := 86400 * 1250000000
/-- An entry is restored from the image copy. -/
def restoreEntry (s : State) (block bank entry : Nat) : State :=
  let s := { s with banks := Tbl.modify s.banks ((block * 64 + bank) * 1024 + entry) (fun e => { e with restored := some s.cycle }) }
  (s.count .ruleScrubFix 0 1).integ { fcode := 0x0120, sev := 0, unitKind := 2, unit := block * 64 + bank, detail := entry }

/-- The entry a bank stores at a place: what rules wrote there, or an empty one. -/
def storedEntry (s : State) (block bank entry : Nat) : BankEntry :=
  Tbl.getD s.banks ((block * 64 + bank) * 1024 + entry) emptyEntry

/-- RULE_SCRUB (R109, R282): the bank computes the CRC-32C check of one entry as it now stands, with the stored bits `flip`
changed since they were written; an entry whose check fails is restored. -/
def execRuleScrub (block bank entry : Nat) (flip : Nat) (s : State) : Res :=
  onObj s (okBlock block && decide (bank < 64) && decide (entry < 1024))
    (if entryGood (flipEntry (storedEntry s block bank entry) flip) || (s.block block).retired ||
        (s.block block).retiredBanks.contains bank then s
     else restoreEntry s block bank entry)

/-- A bank is retired; its lookups wait until its rules have moved (R283, R135). -/
def retireBank (s : State) (block bank : Nat) : State :=
  let s := (s.count .bankRetired 0 1).integ { fcode := 0x0141, sev := 2, unitKind := 2, unit := block * 64 + bank }
  let s := s.updBlock block (fun x => { x with retiredBanks := bank :: x.retiredBanks })
  if (slicesOn s block).any (fun x => (sliceRuns x.2.1 x.2.2).any (fun r => r.1 == bank)) then
    let f : BankFault := { Tbl.getD s.place.bankFaults (block * 64 + bank) ⟨0, 0, s.cycle, true, []⟩ with relocating := true, more := [] }
    { s with place := { s.place with bankFaults := Tbl.put s.place.bankFaults (block * 64 + bank) f } }
  else { s with place := { s.place with bankFaults := Tbl.del s.place.bankFaults (block * 64 + bank) } }

/-- The scrub of a bank's faulting group is over; the next faulting group's begins, if there is one (R283). -/
def nextFault (s : State) (block bank : Nat) (f : BankFault) : State :=
  { s with place := { s.place with bankFaults :=
      match f.more with
      | [] => Tbl.del s.place.bankFaults (block * 64 + bank)
      | (g, c) :: l => Tbl.put s.place.bankFaults (block * 64 + bank) { group := g, ctx := c, since := s.cycle, more := l } } }

/-- FAULT_SCRUB_DONE (R283): the scrub of the faulting group found one failed entry, or none. -/
def execFaultScrubDone (block bank : Nat) (failed : Option Nat) (s : State) : Res :=
  onObj s (okBlock block && decide (bank < 64) && (match failed with | some e => decide (e < 1024) | none => true))
    (match Tbl.find? s.place.bankFaults (block * 64 + bank) with
     | none => s
     | some f =>
       if f.relocating then s
       else
         match failed with
         | none => retireBank s block bank
         | some e =>
           match Tbl.find? s.banks ((block * 64 + bank) * 1024 + e) with
           | none => s
           | some x =>
             if x.group ≠ f.group then s
             else if (match x.restored with | some t => decide (s.cycle < t + dayCycles) | none => false) then retireBank s block bank
             else nextFault (restoreEntry s block bank e) block bank f)

/-- A replica with a tree on a bank. -/
def repOnBank (img : Bytes) (block bank : Nat) (r : Replica) : Bool :=
  r.slices.any (fun x => x.dev.isNone && x.block == block && (sliceRuns img x).any (fun q => q.1 == bank))

/-- Threads of a replica whose trees moved: a lookup waits until its predicates are valid where the tree now lies. -/
def requeue (s : State) (m v r : Nat) : State :=
  (List.filter (fun (p : Nat × Thread) => p.2.model == m && p.2.ver == v && p.2.replica == r && !p.2.done) s.threads).foldl (fun s p =>
    let t := { p.2 with queued := [] }
    let img := (s.verOf t).image
    match replicaOf s t with
    | some x => s.updThread p.1 (fun _ => { t with queued := (x.slices.filter (fun y => y.dev.isNone)).flatMap (newlyReady img t) })
    | none => s) s

/-- The state with the new layouts `reps` (model, version, replica, layout) in force and their rules written. -/
def relocated (s : State) (reps : List (Nat × Nat × Nat × Replica)) : State :=
  let old := reps.flatMap (fun (m, v, _, _) => verEntries (Tbl.getD (s.model m).vers v {}))
  let s' := reps.foldl (fun s (m, v, r, n) =>
    s.updModel m (fun x => { x with vers := Tbl.modify x.vers v (fun y => { y with replicas := Tbl.put y.replicas r n }) })) s
  (s'.writeEntries (reps.flatMap (fun (m, v, _, _) => verEntries (Tbl.getD (s'.model m).vers v {})))).freeEntries old

/-- The lowest first entry at which `n` entries of a bank are free among runs. -/
def freeRun (runs : List (Nat × Nat × Nat × Nat)) (bank n : Nat) : Option Nat :=
  let l := runs.filter (fun r => r.1 == bank)
  (0 :: l.map (fun r => r.2.1 + r.2.2.1)).find? (fun f =>
    decide (f + n ≤ 1024) && l.all (fun r => decide (f + n ≤ r.2.1) || decide (r.2.1 + r.2.2.1 ≤ f)))

/-- Runs placed one by one in the first bank in service, other than the retired one, that has room; none when one finds no room. -/
def packRuns (banks : List Nat) : List (Nat × Bool) → List (Nat × Nat × Nat × Nat) → Bool
  | [], _ => true
  | (n, gang) :: t, runs =>
    let one := fun (k : Nat) =>
      if gang then
        if k % 2 = 0 && banks.contains (k + 1) then
          match freeRun (runs ++ (runs.filter (fun r => r.1 == k + 1)).map (fun r => (k, r.2))) k n with
          | some f => some [(k, f, n, 0), (k + 1, f, n, 0)]
          | none => none
        else none
      else (freeRun runs k n).map (fun f => [(k, f, n, 0)])
    match banks.findSome? one with
    | some l => packRuns banks t (l ++ runs)
    | none => false

/-- The block's other banks have room for the retired bank's rules, found first fit (R283, log 130). -/
def blockHasRoom (s : State) (block bank : Nat) : Bool :=
  let l := slicesOn s block
  let onBank := fun (img : Bytes) (p : TreePl) => (treeBanks img p).contains bank
  let stay := l.flatMap (fun x => sliceRuns x.2.1 { x.2.2 with trees := x.2.2.trees.filter (fun p => !onBank x.2.1 p) })
  let go := l.flatMap (fun x => (x.2.2.trees.filter (onBank x.2.1)).map (fun p =>
    ((treeDir x.2.1 p.tree).rcount, (treeDir x.2.1 p.tree).gang)))
  packRuns ((upTo 64).filter (fun k => k != bank && !(s.block block).retiredBanks.contains k)) go stay

/-- A layout keeps every slice on its block with the trees it had. -/
def sameBlocks (r n : Replica) : Bool :=
  n.slices.map (fun x => (x.dev, x.block)) == r.slices.map (fun x => (x.dev, x.block)) &&
    n.slices.all (fun x => r.slices.any (fun y => y.dev == x.dev && y.block == x.block &&
      x.trees.all (fun p => y.trees.any (fun q => q.tree == p.tree))))

/-- The layouts cover every replica with rules on the bank, keep off it, off retired blocks and off standby blocks, move work to
another block only when the block has no room, and fit (R283). -/
def mayRelocate (s : State) (block bank : Nat) (reps : List (Nat × Nat × Nat × Replica)) : Bool :=
  s.models.all (fun p => p.2.vers.all (fun v => v.2.replicas.all (fun r =>
    !repOnBank v.2.image block bank r.2 || reps.any (fun q => q.1 == p.1 && q.2.1 == v.1 && q.2.2.1 == r.1)))) &&
  reps.all (fun (m, v, r, n) =>
    match Tbl.find? (s.model m).vers v with
    | some x => Tbl.has x.replicas r && replicaOk x.image x.args.bulk n && !repOnBank x.image block bank n &&
        n.slices.all (fun y => y.dev.isSome || !((s.block y.block).retired || (s.block y.block).standby)) &&
        (sameBlocks (Tbl.getD x.replicas r {}) n || !blockHasRoom s block bank)
    | none => false) &&
  (reps.flatMap (fun (_, _, _, n) => n.slices.map Slice.block)).all (fun b => (blockShort (relocated s reps) b).isNone)

/-- BANK_RELOCATED (R283): the rules of a retired bank lie elsewhere; `reps` gives the new layout of each replica (model,
version, replica) that had rules there. The bank's lookups issue again. -/
def execBankRelocated (block bank : Nat) (reps : List (Nat × Nat × Nat × Replica)) (s : State) : Res :=
  onObj s (okBlock block && decide (bank < 64))
    (match Tbl.find? s.place.bankFaults (block * 64 + bank) with
     | none => s
     | some f =>
       if !f.relocating || !mayRelocate s block bank reps then s
       else
         let t := relocated s reps
         reps.foldl (fun s (m, v, r, _) => requeue s m v r)
           { t with place := { t.place with bankFaults := Tbl.del t.place.bankFaults (block * 64 + bank) } })

/-! In-field test (R291 to R296). -/

/-- A block's schedule: its next due time (R292). -/
def nextDue (s : State) (b : Nat) : Nat :=
  let int := s.place.testInterval * second
  match Tbl.find? s.place.lastTest b with
  | some t => t + int
  | none => s.boot.startedAt + int * b / 64
/-- Another block of the die is under test. -/
def dieTesting (s : State) (b : Nat) : Bool :=
  (upTo 64).any (fun c => c != b && c / 32 == b / 32 && (s.block c).testing)
/-- The block is part of a migration. -/
def migrating (s : State) (b : Nat) : Bool := s.place.migs.any (fun p => p.2.src == b || p.2.dst == b)
/-- A block's due test may start now: no work, no other test on its die, no migration, no firmware activation (R492). -/
def testReady (s : State) (b : Nat) : Bool :=
  s.power.st == 0 && s.boot.activating.isNone && (s.block b).testDue.isSome && !holdsWork s b && !dieTesting s b && !migrating s b

/-- A due test starts, or waits (R292, R293, R303, R515). -/
def beginTest (s : State) (b : Nat) : State :=
  if testReady s b then s.updBlock b (fun x => { x with fenced := true, testing := true, deferEnd := none })
  else if (s.block b).deferEnd.isSome then s
  else (s.updBlock b (fun x => { x with deferEnd := some (s.now + s.place.testDefer * 1000000000) })).count .testDeferred 0 1

/-- TEST_DUE (R292, R293): the block's test falls due by its schedule or was made due, or a waiting one may start. -/
def execTestDue (block : Nat) (s : State) : Res :=
  onObj s (okBlock block)
    (let x := s.block block
     if !s.live || x.retired || x.failed || x.testing || 3 ≤ s.power.st then s
     else if x.testDue.isSome then beginTest s block
     else if s.now < nextDue s block then s
     else
       let t := nextDue s block
       let s := { s with place := { s.place with lastTest := Tbl.put s.place.lastTest block t } }
       beginTest (s.updBlock block (fun y => { y with testDue := some s.now })) block)

/-! Moves of work (R245 to R247, R251). -/

/-- Models and groups a migration moves. -/
def migModels (s : State) (g : Mig) : List Nat :=
  match g.what with
  | .model m => [m]
  | .group _ => []
  | _ => modelsOn s g.src
def migGroups (s : State) (g : Mig) : List Nat :=
  match g.what with
  | .group n => [n]
  | .model _ => []
  | _ => groupsOn s g.src

/-- The state in which what a migration moves takes new work on its target. -/
def migSteered (s : State) (g : Mig) : State :=
  (migGroups s g).foldl (fun s n => shiftGroup s g.src g.dst n) ((migModels s g).foldl (fun s m => shiftModel s g.src g.dst m) s)

/-- The state in which every move that still loads has switched: what capacity is counted on. -/
def afterMoves (s : State) : State :=
  (List.filter (fun (p : Nat × Mig) => !p.2.switched && !p.2.lost) s.place.migs).foldl (fun s p => migSteered s p.2) s

/-- The lowest code in which a block falls short once the moves that still load have switched, if any (R243, R251). -/
def roomShort (s : State) (b : Nat) : Option Nat :=
  match blockShort s b with
  | some c => some c
  | none => if shareOk s b then none else some 10

/-- The lowest code that keeps a migration off its target, if any (R243, R249, R251). -/
def moveShort (s : State) (g : Mig) : Option Nat :=
  if !inService s g.dst || (s.block g.dst).standby then some 19 else roomShort (migSteered (afterMoves s) g) g.dst

/-- Every stake allows what a migration moves on its target (R245 step 1). -/
def moveStaked (s : State) (g : Mig) : Bool := !breaksStake s (migModels s g) (migGroups s g) g.dst

/-- What a block holds. -/
def workOn (s : State) (b : Nat) : List ObjRef := (modelsOn s b).map .model ++ (groupsOn s b).map .group

/-- A model or fold group lies on a block. -/
def liesOn (s : State) (b : Nat) : ObjRef → Bool
  | .model m => (modelsOn s b).contains m
  | .group g => (groupsOn s b).contains g
  | _ => false

/-- A stake keeps a model or fold group off a block. -/
def stakedOff (s : State) (b : Nat) : ObjRef → Bool
  | .model m => !stakeAllows s false m b
  | .group g => !stakeAllows s true g b
  | _ => false

/-- Starts a migration (R245): the target leaves standby, the source takes no new work. -/
def startMig (s : State) (cause src dst : Nat) (what : ObjRef) : State :=
  let g : Mig := { cause := cause, src := src, dst := dst, what := what, startedAt := s.now }
  let s := { s with place := { s.place with migs := Tbl.put s.place.migs s.place.nextMig g, nextMig := s.place.nextMig + 1 } }
  s.updBlock dst (fun x => { x with standby := false })

/-- Standby blocks that can take over. -/
def standbys (s : State) : List Nat := standbyOn s 0 ++ standbyOn s 1

/-- Blocks a block's work may move to for its test (R250, R293, R295, R303): standby blocks, even outside a stake; else free
blocks; at the third due time after two skips any capacity. -/
def testTargets (s : State) (block : Nat) : List Nat :=
  let g := fun (b : Nat) => ({ cause := 1, src := block, dst := b } : Mig)
  let room := fun (b : Nat) => b != block && (roomShort (migSteered (afterMoves s) (g b)) b).isNone
  let sbs := (standbys s).filter (fun b => !(s.block b).testing && !(s.block b).fenced && room b)
  if !sbs.isEmpty then sbs
  else
    let ok := fun (b : Nat) => room b && moveStaked s (g b)
    let fr := (upTo 64).filter (fun b => freeBlock s b && ok b)
    if fr.isEmpty && decide (2 ≤ Tbl.getD s.place.skips block 0) then
      (upTo 64).filter (fun b => inService s b && !(s.block b).standby && ok b)
    else fr

/-- TEST_DEFER_EXPIRY (R293, R295, R303): the work moves to a standby block, or to a free block where none stands by; with
no block the test is skipped. -/
def execTestDeferExpiry (block : Nat) (target : Option Nat) (s : State) : Res :=
  onObj s (okBlock block && (match target with | some t => okBlock t | none => true))
    (let x := s.block block
     match x.deferEnd with
     | none => s
     | some e =>
       if (s.now < e && decide (Tbl.getD s.place.skips block 0 < 2)) || s.power.st ≠ 0 || s.boot.activating.isSome || migrating s block || !holdsWork s block then s
       else
         match target with
         | some t =>
           if !(testTargets s block).contains t then s
           else
             let sb := (s.block t).standby
             let w := workOn s block
             let s := if breaksStake s (modelsOn s block) (groupsOn s block) t then s.count .stakeTemp 0 1 else s
             (startMig s 1 block t .none).updBlock block (fun y => { y with deferEnd := none, testMove := some (t, sb), testWork := w })
         | none =>
           if !(testTargets s block).isEmpty then s
           else
             let n := Tbl.getD s.place.skips block 0 + 1
             let s := (s.count .testSkip 0 1).integ { fcode := 0x0132, sev := 1, unitKind := 1, unit := block, detail := n }
             abandonTest { s with place := { s.place with skips := Tbl.put s.place.skips block n } } block)

/-- Result of one kernel of R291: 1 pass, 2 transient, 3 permanent; the bank or VSE a permanent one is confined to. -/
structure KernelEnd where
  kernel : Nat
  code : Nat
  unit : Option Nat := none
  deriving DecidableEq, Repr, Inhabited

/-- Reads a run of kernels from its attempts (kernel, outcome): 0 pass, 1 fail, 2 + n fail confined to bank n (tree) or VSE n.
A failed attempt is repeated once; a permanent failure that is not confined ends the run (R291, R294). -/
def readRun : List (Nat × Nat) → Nat → Option (List KernelEnd)
  | [], k => if k = 8 then some [] else none
  | (q, 0) :: t, k => if q = k then (readRun t (k + 1)).map ({ kernel := k, code := 1 } :: ·) else none
  | [(_, _ + 1)], _ => none
  | (q, o + 1) :: (r, p) :: t, k =>
    if q ≠ k ∨ r ≠ k then none
    else
      match p with
      | 0 => (readRun t (k + 1)).map ({ kernel := k, code := 2 } :: ·)
      | 1 => if t.isEmpty then some [{ kernel := k, code := 3 }] else none
      | u + 2 =>
        if o ≠ p - 1 then none
        else if k = 3 ∧ u < 64 ∨ k = 5 ∧ u < 4 then (readRun t (k + 1)).map ({ kernel := k, code := 3, unit := some u } :: ·)
        else none

/-- A VSE is retired (R297): the runs bound to it are replayed from their held inputs on the others (R168); a second one lost in
a block retires the block. -/
def retireVse (s : State) (b u cause : Nat) : State :=
  if (s.block b).retiredVses.contains u || (s.block b).retired then s
  else
    let s := (s.count .vseRetired 0 1).integ { fcode := 0x0142, sev := 2, unitKind := 3, unit := b * 4 + u }
    let s := s.updBlock b (fun x => { x with retiredVses := u :: x.retiredVses })
    if 2 ≤ (s.block b).retiredVses.length then failBlock (s.updBlock b (fun x => { x with testing := false })) b cause
    else
      let runs := List.filter (fun (p : Nat × VCtx) => p.1 / 64 == b * 4 + u) s.vctx
      (runs.map (fun p => p.2.thread)).foldl replayThread s

/-- What one kernel's end does (R283, R294, R297). -/
def kernelEnd (b : Nat) (s : State) (e : KernelEnd) : State :=
  match e.code with
  | 2 => (s.count .testTransient 0 1).integ { fcode := 0x0130, sev := 0, unitKind := 1, unit := b, detail := e.kernel }
  | 3 =>
    let s := s.integ { fcode := 0x0131, sev := 2, unitKind := 1, unit := b, detail := e.kernel }
    match e.kernel, e.unit with
    | 3, some u => retireBank (s.count .testPermanent 0 1) b u
    | 5, some u => retireVse (s.count .testPermanent 0 1) b u 0
    | _, _ => failBlock s b 0
  | _ => s

/-- RESULT0 of TEST_RUN (R455). -/
def testResult (l : List KernelEnd) : Nat := l.foldl (fun a e => a + e.code * 4 ^ (e.kernel - 1)) 0

/-- Work that went to a free block for a test comes back, as far as it still lies there and the tested block takes it: a move for
rebalancing, at most one in 10 s from one block (R247, R296). -/
def returnWork (s : State) (b : Nat) : State :=
  let x := s.block b
  match x.testMove with
  | some (t, false) =>
    let last := (s.block t).lastMove
    let l := x.testWork.filter (liesOn s t)
    if !inService s b || x.testDue.isSome || migrating s b || migrating s t then s
    else if l.isEmpty then s.updBlock b (fun y => { y with testMove := none, testWork := [] })
    else if (match last with | some u => decide (s.now < u + 10 * second) | none => false) then s
    else
      let ok := l.filter (fun o => !stakedOff s b o && (moveShort s { cause := 0, src := t, dst := b, what := o }).isNone)
      if ok.isEmpty then s
      else
        let s := ok.foldl (fun s o => if (moveShort s { cause := 0, src := t, dst := b, what := o }).isNone then startMig s 0 t b o else s) s
        (s.updBlock t (fun y => { y with lastMove := some s.now })).updBlock b (fun y => { y with testMove := none, testWork := [] })
  | _ => s

/-- BLOCK_TEST (R291, R293, R294, R296): the kernels of a drained block run. After a test that the block survives it takes
the standby role of the block its work went to, or its work returns. -/
def execBlockTest (block : Nat) (results : List (Nat × Nat)) (s : State) : Res :=
  onObj s (okBlock block)
    (let x := s.block block
     if !(x.testing || testReady s block) || x.retired then s
     else
       match readRun results 1 with
       | none => s
       | some l =>
         let s := s.updBlock block (fun y => { y with testing := true })
         let cmd := x.testCmd
         let s := s.updBlock block (fun y => { y with testCmd := none, testDue := none, deferEnd := none })
         let s := l.foldl (kernelEnd block) s
         let s := if l.all (fun e => e.code == 1) then s.count .testPass 0 1 else s
         let s := { s with place := { s.place with skips := Tbl.del s.place.skips block } }
         let s := match cmd with | some n => s.finish n stOk 0 (testResult l) | none => s
         if (s.block block).retired then s
         else
           let s := s.updBlock block (fun y => { y with testing := false, fenced := false, draining := false })
           match x.testMove with
           | some (t, true) =>
             let s := s.updBlock block (fun y => { y with testMove := none, testWork := [] })
             let l := x.testWork.filter (fun o => liesOn s t o && stakedOff s t o && !stakedOff s block o)
             if l.isEmpty then s.updBlock block (fun y => { y with standby := true })
             else l.foldl (fun s o => startMig s 1 t block o) s
           | some (_, false) => returnWork s block
           | none => s)

/-! Failures (R297 to R300). -/

/-- BLOCK_FAILURE (R297, R298). Repeated parity errors of one VSE cost that VSE only. -/
def execBlockFailure (block : Nat) (fault : BlockFault) (s : State) : Res :=
  onObj s (okBlock block && decide (fault.cause < 4) && (match fault.vse with | some u => fault.cause == 3 && decide (u < 4) | none => true))
    (match fault.vse with
     | some u => retireVse s block u fault.cause
     | none => failBlock s block fault.cause)

/-- SEQUENCER_HEARTBEAT_MISS (R297): 10 µs without a heartbeat. -/
def execSequencerHeartbeatMiss (block : Nat) (s : State) : Res := onObj s (okBlock block) (failBlock s block 2)

/-- Queries that a model on a lost replica had in flight are answered 0x30, or replayed on another replica (R565). -/
def loseReplicas (s : State) (b m : Nat) : State :=
  let x := s.model m
  let v := s.curVer m
  let keep := List.filter (fun (r : Nat × Replica) => !r.2.slices.any (fun y => y.dev.isNone && y.block == b)) v.replicas
  let lostT := (threadsUsing s b).filter (fun p => p.2.model == m)
  let onB := fun (r : Nat × Replica) => r.2.slices.any (fun z => z.dev.isNone && z.block == b)
  let spare := fun (w : Nat) =>
    let l := List.filter (fun (r : Nat × Replica) => !onB r) (Tbl.getD x.vers w {}).replicas
    match List.filter (fun (r : Nat × Replica) => !r.2.draining) l with | a :: _ => some (w, a) | [] => (l.head?).map (fun a => (w, a))
  let old := x.vers.flatMap (fun w => if w.2.on b then verEntries w.2 else [])
  let s := s.updModel m (fun y => { y with vers := Tbl.mapVals y.vers (fun _ w =>
    { w with replicas := List.filter (fun (r : Nat × Replica) => !r.2.slices.any (fun z => z.dev.isNone && z.block == b)) w.replicas }) })
  let s := s.freeEntries old
  let s := lostT.foldl (fun (s : State) (p : Nat × Thread) =>
    match (match spare p.2.ver with | some q => some q | none => spare x.ver) with
    | none => s.threadFault p.1
    | some (w, k, r) =>
      let dst := ((r.slices.filter (fun (z : Slice) => z.dev.isNone)).map Slice.block).headD 0
      let s := s.updThread p.1 (fun t => { t with ver := w, replica := k })
      let (s, n) := rehome s p.1 dst
      match Tbl.find? s.threads n with
      | some t => if t.done then s else replayThread s n
      | none => s) s
  let keep := List.filter (fun (r : Nat × Replica) => !r.2.draining) keep
  let want := max 1 (ceilDiv (v.args.rate * imgSvc v.image) 1000000000)
  s.general [x.owner] 0x0303 0 (objCode 1 m) 0 keep.length want

/-- Flows homed on a block find a new home: at once on another block, or at their next frame (R298, R565). -/
def moveHomes (s : State) (b : Nat) (dst : Option Nat) : State :=
  { s with flows := Tbl.mapVals s.flows (fun _ f =>
      let f := if f.home = some b then { f with home := dst } else f
      if f.moving = some b then { f with moving := none } else f) }

/-- The remap of a failed block is over once nothing waits for it. -/
def endRemap (s : State) (b : Nat) : State :=
  if (modelsOn s b).isEmpty && (groupsOn s b).isEmpty then
    topUpStandby 9 ((moveHomes s b none).updBlock b (fun x => { x with failed := false }))
  else s

/-- No block can take the rest of a failed block's work (R565). -/
def spreadWork (s : State) (b : Nat) : State :=
  let s := (modelsOn s b).foldl (fun s m => loseReplicas s b m) s
  let s := (groupsOn s b).foldl (fun s g =>
    let rest := match Tbl.find? s.groups g with | some x => x.accBlocks.filter (· ≠ b) | none => []
    let any := ((upTo 64).filter (inService s)).headD 0
    let l := if rest.isEmpty then [any] else rest
    remapGroup s b g (fun _ => if rest.isEmpty then [any] else []) (fun pos => l.getD (pos % max l.length 1) any)) s
  endRemap s b

/-- Standby blocks that can take a failed block's work. -/
def sparesNow (s : State) : List Nat := (standbys s).filter (fun b => inService s b)
/-- The work of a failed block left a migration that had switched to this target. -/
def swapsTo (s : State) (block target : Nat) : Bool :=
  s.place.migs.any (fun p => p.2.switched && p.2.src == block && p.2.dst == target)
/-- Models and fold groups of a failed block that move to a target: all to a standby block, else what fits. -/
def steerModels (s : State) (block target : Nat) : List Nat :=
  (modelsOn s block).filter (fun m => (sparesNow s).contains target || swapsTo s block target ||
    (blockShort (remapModel s block target m) target).isNone)
def steerGroups (s : State) (block target : Nat) : List Nat :=
  (groupsOn s block).filter (fun g => (sparesNow s).contains target || swapsTo s block target ||
    shareOk (remapGroup s block g (fun _ => [target]) (fun _ => target)) target)
/-- Everything in the list finds room, each piece on the first block in service that has some, one after the other (R252). -/
def restFits (block : Nat) : List ObjRef → State → Bool
  | [], _ => true
  | .model m :: l, s =>
    match (upTo 64).find? (fun b => inService s b && (blockShort (remapModel s block b m) b).isNone) with
    | some b => restFits block l (remapModel s block b m)
    | none => false
  | .group g :: l, s =>
    match (upTo 64).find? (fun b => inService s b && shareOk (remapGroup s block g (fun _ => [b]) (fun _ => b)) b) with
    | some b => restFits block l (remapGroup s block g (fun _ => [b]) (fun _ => b))
    | none => false
  | _ :: l, s => restFits block l s
/-- The blocks that remain can take all of a failed block's work (R565). -/
def allFits (s : State) (block : Nat) : Bool := restFits block (workOn s block) s
/-- The state with the models and fold groups of a failed block that `target` takes on it. -/
def steeredTo (s : State) (block target : Nat) : State :=
  (steerGroups s block target).foldl (fun s g => remapGroup s block g (fun _ => [target]) (fun _ => target))
    ((steerModels s block target).foldl (fun s m => remapModel s block target m) s)
/-- The target may take work of the failed block: a standby block of the same die goes first, then one of the other die,
then any block with room (R298). -/
def maySteer (s : State) (block target : Nat) : Bool :=
  target != block && inService s target &&
    (swapsTo s block target || (sparesNow s).isEmpty || ((sparesNow s).contains target &&
      (((sparesNow s).filter (fun b => b / 32 == block / 32)).isEmpty || target / 32 == block / 32))) &&
    !((steerModels s block target).isEmpty && (steerGroups s block target).isEmpty) &&
    (!(sparesNow s).isEmpty || swapsTo s block target || !allFits s block || allFits (steeredTo s block target) block)
/-- No block can take anything that is left on a failed block (R565). -/
def noneFits (s : State) (block : Nat) : Bool :=
  (sparesNow s).isEmpty && (upTo 64).all (fun b => !inService s b ||
    ((modelsOn s block).all (fun m => (blockShort (remapModel s block b m) b).isSome) &&
     (groupsOn s block).all (fun g => !shareOk (remapGroup s block g (fun _ => [b]) (fun _ => b)) b)))

/-- BLOCK_REMAP_STEER (R250, R298, R565): the images are on `target` and the work that fits there moves; the failed block
itself as target says that no block can take what is left. Where the blocks that remain cannot take all of it, no
BLOCK_REMAPPED is raised. -/
def execBlockRemapSteer (block target : Nat) (s : State) : Res :=
  onObj s (okBlock block && okBlock target)
    (if !(s.block block).failed then s
     else if target = block then (if noneFits s block then spreadWork s block else s)
     else if !maySteer s block target then s
     else
       let ms := steerModels s block target
       let gs := steerGroups s block target
       let broke := breaksStake s ms gs target
       let all := !(sparesNow s).isEmpty || swapsTo s block target || allFits s block
       let ts := (threadsUsing s block).filter (fun p => ms.contains p.2.model)
       let s := s.updBlock target (fun x => { x with standby := false })
       let s := ms.foldl (fun s m => remapModel s block target m) s
       let s := moveHomes s block (some target)
       let s := replayOn s block target ts
       let s := gs.foldl (fun s g => remapGroup s block g (fun _ => [target]) (fun _ => target)) s
       let s := { s with place := { s.place with migs := List.filter (fun (p : Nat × Mig) => p.2.src != block) s.place.migs } }
       let s := if all then s.integ { fcode := 0x0143, sev := 0, unitKind := 1, unit := block, detail := target } else s
       let s := if broke then s.general pfs 0x0302 0 0 block block target else s
       endRemap s block)

/-- Core that runs a service row of R490 (rows by core pair), and core of a service by default. -/
def serviceCore (s : State) (svc : Nat) : Nat := Tbl.getD s.boot.cores svc svc
/-- Services a core runs: the fourteen cores of R490 with a service each. -/
def coreLoad (s : State) (core : Nat) : Nat := ((upTo 14).filter (fun v => serviceCore s v == core)).length

/-- CORE_RESTART (R297, R300): the services of a failed core start again on the least-loaded core that remains. -/
def execCoreRestart (core takeover : Nat) (s : State) : Res :=
  onObj s (decide (core < 16) && decide (takeover < 16))
    (let live := (upTo 16).filter (fun c => c != core && !s.boot.deadCores.contains c)
     if !s.live || s.boot.deadCores.contains core || !live.contains takeover ||
         live.any (fun c => decide (coreLoad s c < coreLoad s takeover)) then s
     else
       let mv := (upTo 14).filter (fun v => serviceCore s v == core)
       let b := { s.boot with deadCores := core :: s.boot.deadCores,
                              cores := mv.foldl (fun (t : Tbl Nat) v => Tbl.put t v takeover) s.boot.cores,
                              spCore := Tbl.mapVals s.boot.spCore (fun _ c => if c = core then takeover else c) }
       ({ s with boot := b }).integ { fcode := 0x0154, sev := 2, unitKind := 7, unit := core, detail := takeover })

/-- SP_FAILOVER (R297): a core drives the register nodes of a die whose service processor failed. -/
def execSpFailover (sp core : Nat) (s : State) : Res :=
  onObj s (decide (sp < 20) && decide (core < 16))
    (if !s.live || s.boot.deadCores.contains core || Tbl.has s.boot.spCore sp then s
     else
       ({ s with boot := { s.boot with spCore := Tbl.put s.boot.spCore sp core } }).integ
         { fcode := 0x0155, sev := 2, unitKind := 8, unit := sp, detail := core })

/-- A stack is lost (R299): its quarter of the flow tracker, its regions and its spilled blocks. -/
def loseStack (s : State) (k cause : Nat) : State :=
  if !bit s.place.stackLive k then s
  else
    let spilled := (dieBlocks s 0 ++ dieBlocks s 1).filter (fun x => x.2.2.spilled && spillStack s x.2.2 == k)
    let s := { s with place := { s.place with stackLive := s.place.stackLive - 2 ^ k } }
    let s := s.integ { fcode := 0x0150, sev := 2, unitKind := 4, unit := k, detail := cause }
    let s := ((s.flows.map Prod.fst).filter (fun h => h / 16 % 4 == k)).foldl loseFlow s
    let hurt := List.filter (fun (p : Nat × Region) => p.2.dev == s.boot.boardPos && stackOf p.2.base == k) s.regions
    let ms := (s.models.map Prod.fst).filter (fun m =>
      (s.model m).vers.any (fun v => v.2.regions.any (fun r => hurt.any (fun p => p.1 == r))))
    let s := { s with regions := List.filter (fun (p : Nat × Region) => !(hurt.any (fun q => q.1 == p.1))) s.regions,
                      hbm := List.filter (fun (c : Host.Cell) => stackOf c.1 != k) s.hbm,
                      poison := s.poison.filter (fun g => stackOf (g * 64) != k) }
    let s := ms.foldl (fun s m => modelFault s m 1) s
    spilled.foldl (fun s x => rebuildBlock s x.1 x.2.1) s

/-- STACK_LOST (R297, R299): cause 0 more than 64 uncorrectable granules in a second, 1 clock, 2 controller. -/
def execStackLost (stack cause : Nat) (s : State) : Res :=
  onObj s (decide (stack < 4) && decide (cause < 3))
    (if cause = 0 ∧ (badGranules s stack).length ≤ 64 then s else loseStack s stack cause)

/-! Fencing and clocks (R33, R301). -/

/-- Latches the fault record (R502, R521): cause, sub-cause, unit. -/
def latchFault (s : State) (cause sub unitKind unit fences : Nat) : State :=
  let v := s.power.samples.headD {}
  { s with power := { s.power with fault := { cause := cause, sub := sub, unitKind := unitKind, unit := unit, vin := s.power.vins.headD 0, temp := v.tDie,
                                              sinceOn := (s.now - s.power.vinOn) / 1000000000, fences := min fences 65535 } } }

/-- A link held in reset (R301, R559): nothing on it is outstanding and it does not train. -/
def holdLink (s : State) (l : Nat) : State :=
  let ws := qmsgWaiters s l
  let s := (dropLink s l).updLink l (fun x =>
    { x with st := if x.enable then .training else .disabled, good := 0, activeMask := 0, farValid := false, farGood := 0, seen := false,
             agree := 0, sendTs2 := false, deepSince := none, deepSent := false, deepRcvd := false, deepRetry := none,
             idleUntil := none })
  neighbourGone (ws.foldl replayThread s) (65536 + l)

/-- The device enters FENCED (R301): cause 0 CCLK, 1 KCLK, 2 both control links, 3 power. Ports stop, board links are held in
reset, the fault record is latched. -/
def fenceDevice (s : State) (cause sub unitKind unit : Nat) : State :=
  if s.power.fenced then s
  else
    let s := s.integ { fcode := 0x01F0, sev := 3, detail := cause }
    let s := latchFault s (cause + 1) sub unitKind unit (s.power.fences + 1)
    let s := (upTo 7).foldl holdLink s
    let s := (s.ports.filter (fun p => portUp p.2)).foldl (fun s p => portDown s p.1 .down) s
    { s with power := { s.power with fenced := true, fences := s.power.fences + 1, transit := .none } }

/-- FENCED (R301): cause 0 CCLK, 1 KCLK, 2 both control links, with the unit of the fault record (R521). -/
def execFenced (cause unitKind unit : Nat) (s : State) : Res :=
  onObj s (decide (cause < 3) && decide (unitKind < 7) && decide (unit < 32)) (fenceDevice s cause 0 unitKind unit)

/-- CLOCK_STALL (R29, R33, R559): a clock by its row in R29 shows no edge; `die` is the instance: compute die, stack, a port or
sub-port of the lane group, link · 8 + lane or 56 for the reference of all links, or host port. No domain watches the lantern
clock. -/
def execClockStall (domain die : Nat) (s : State) : Res :=
  onObj s (decide (domain < 9))
    (if domain = 8 then s
     else
     let s := s.integ { fcode := 0x0151, sev := 2, detail := domain }
     match domain with
     | 0 => fenceDevice s 0 0 1 (die % 2)
     | 1 => fenceDevice s 1 0 3 0
     | 2 => s.updTu (fun t => { t with stalled := true })
     | 3 => if die < 4 then loseStack s die 1 else s
     | 4 => (upTo 8).foldl (fun s i =>
         let p := die / 8 * 8 + i
         if okPort p && portUp (s.port p) then portDown s p .down else s) s
     | 6 =>
       if die = 56 then
         let s := (upTo 7).foldl (fun s l => if (s.link l).enable then (holdLink s l).count .blReset l 1 else s) s
         { s with power := { s.power with stalledClk := if s.power.stalledClk.contains 6 then s.power.stalledClk else 6 :: s.power.stalledClk } }
       else if die < 56 then laneLost s (die / 8) (die % 8) else s
     | 7 => { s with hostUp := s.hostUp.filter (· ≠ die) }
     | _ => s)

/-- CLOCK_RETURN (R33, R559): the time unit counts on from its held views; board links train cold. -/
def execClockReturn (domain : Nat) (s : State) : Res :=
  onObj s (decide (domain < 9))
    (match domain with
     | 2 => s.updTu (fun t => { t with stalled := false })
     | 6 =>
       if s.power.stalledClk.contains 6 then
         let s := { s with power := { s.power with stalledClk := s.power.stalledClk.filter (· ≠ 6) } }
         (upTo 7).foldl (fun s l => if (s.link l).enable then startTraining s l false else s) s
       else s
     | _ => s)

/-! Events of severity 0 (R307). -/

/-- EVENT_COALESCE_FLUSH (R307): the second of a record is over; what it folded is posted. -/
def execEventCoalesceFlush (key : Nat) (s : State) : Res :=
  .next (match Tbl.find? s.place.coal key with
    | none => s
    | some c =>
      if s.now < c.postedAt + second then s
      else if c.count = 0 then { s with place := { s.place with coal := Tbl.del s.place.coal key } }
      else
        let c' : Coal := ⟨s.now, 0, 0, 0, 0, 0, 0⟩
        let e : Integ := { fcode := key / 2 ^ 24, sev := 0, unitKind := key / 2 ^ 16 % 256, unit := key % 2 ^ 16, obj := c.obj,
                           addr := c.addr, detail := c.detail, syn := c.syn }
        ({ s with place := { s.place with coal := Tbl.put s.place.coal key c' } }).post (s.entitled c.obj) (integBody e c.tLin c.count))

end Sys2Proof.Machine
end

