-- ==== Sys2Proof/Machine/Placement.lean ====
section
/-! DEFINITION. Placement rows: migrations, the shadow switch, drains, the removal of flows, and the 100 ms sample (R23, R244
to R247, R257, R258, R457, R458, R565). -/

namespace Sys2Proof.Machine

/-! Migrations (R245, R246). -/

/-- A migration whose target failed takes the lowest block that placement may choose now (R252): a test's work as TEST_DEFER_EXPIRY
chooses, other work a block in service with room that every stake allows (log 140). -/
def newTarget (s : State) (g : Mig) : Option Nat :=
  if g.cause = 1 then (testTargets s g.src).head?
  else (upTo 64).find? (fun b => b != g.src && (moveShort s { g with dst := b }).isNone && moveStaked s { g with dst := b })

/-- A migration and its target once it has one: a standby block leaves that role, a test remembers where its work went. -/
def retarget (s : State) (mig : Nat) (g : Mig) : State × Mig :=
  if !g.lost then (s, g)
  else
    match newTarget s g with
    | none => (s, g)
    | some b =>
      let h := { g with dst := b, lost := false }
      let sb := (s.block b).standby
      let s := s.updBlock b (fun x => { x with standby := false })
      let s := if g.cause = 1 then s.updBlock g.src (fun x => { x with testMove := x.testMove.map (fun _ => (b, sb)) }) else s
      ({ s with place := { s.place with migs := Tbl.put s.place.migs mig h } }, h)

/-- MIGRATION_LOAD_DONE (R245 step 3, R246, R252): the target, chosen afresh where the first one failed, is ready; steering switches
for new threads, fold work at its next step boundary. -/
def execMigrationLoadDone (mig : Nat) (s : State) : Res :=
  .next (match Tbl.find? s.place.migs mig with
    | none => s
    | some g0 =>
      let (s, g) := retarget s mig g0
      if g.lost || g.switched || (s.block g.dst).fenced || (s.block g.dst).retired || (roomShort (migSteered s g) g.dst).isSome then s
      else
        let ms := migModels s g
        let test := g.cause == 1 && (s.block g.src).testMove.isSome
        let s := (migSteered s g).updBlock g.src (fun x => { x with draining := x.draining || test })
        { s with place := { s.place with migs := Tbl.put s.place.migs mig { g with switched := true } },
                 flows := if ms.isEmpty && g.what != .none then s.flows
                          else Tbl.mapVals s.flows (fun _ f => if f.home = some g.src then { f with moving := some g.dst } else f) })

/-- FLOW_HOME_MOVE (R245 step 4): the flow's last request in flight on the source has retired. -/
def execFlowHomeMove (flow : Nat) (s : State) : Res :=
  onObj s (okFlow flow)
    (match Tbl.find? s.flows flow with
     | none => s
     | some f =>
       match f.moving with
       | none => s
       | some d =>
         if (flowReqs s flow).all (fun p => p.2.evalBlock != f.home) then s.updFlow flow (fun x => { x with home := some d, moving := none })
         else s)

/-- Something of what a migration moves is still on its source. -/
def migBusy (s : State) (g : Mig) : Bool :=
  match g.what with
  | .group k => (groupsOn s g.src).contains k
  | .model m => (threadsUsing s g.src).any (fun p => p.2.model == m) || (modelsOn s g.src).contains m ||
      s.flows.any (fun p => p.2.home == some g.src && p.2.moving == some g.dst)
  | _ => !(threadsUsing s g.src).isEmpty || !(modelsOn s g.src).isEmpty || !(groupsOn s g.src).isEmpty ||
      s.flows.any (fun p => p.2.home == some g.src && p.2.moving == some g.dst)

/-- MIGRATION_DONE (R245 step 5): the last thread on the source has retired, its flows have moved and its fold share has
left; the source is free. -/
def execMigrationDone (mig : Nat) (s : State) : Res :=
  .next (match Tbl.find? s.place.migs mig with
    | none => s
    | some g =>
      if !g.switched then s
      else if migBusy (sweepAll s) g then sweepAll s
      else
        let s := sweepAll s
        let s := { s with place := { s.place with migs := Tbl.del s.place.migs mig } }
        let back := g.cause == 1 && (s.block g.src).testMove.isNone && !holdsWork s g.src
        let s := if back then s.updBlock g.src (fun x => { x with standby := true }) else if g.cause = 3 then topUpStandby 9 s else s
        s.general pfs 0x0301 g.cause 0 g.src g.src g.dst)

/-! Versions and drains (R23, R457). -/

/-- RESULT1 of MODEL_LOAD: replicas and blocks (R455). -/
def loadResult (v : MVer) : Nat :=
  v.replicas.length + 2 ^ 16 * ((v.replicas.flatMap (fun r => (r.2.slices.filter (fun x => x.dev.isNone)).map Slice.block)).eraseDups).length

/-- SHADOW_SWITCH (R21, R23, R456): new threads use the new rules from here on, the reload completes, and rules that no thread
uses any more are freed. -/
def execShadowSwitch (ctx : Nat) (s : State) : Res :=
  onObj s (okCtx ctx)
    (let x := s.model ctx
     match x.shadow with
     | none => sweepVersions s ctx
     | some (v, cmd) =>
       let w := Tbl.getD x.vers v {}
       let s := s.updModel ctx (fun y =>
         { y with ver := v, shadow := none, st := if y.st = 2 ∨ w.args.enable = true then 2 else 1 })
       sweepVersions (s.finish cmd stOk 0 ctx (loadResult w)) ctx)

/-- Threads of a model. -/
def modelThreads (s : State) (m : Nat) : List (Nat × Thread) := List.filter (fun (p : Nat × Thread) => p.2.model == m) s.threads

/-- DRAIN_DEADLINE (R457): what is still in flight and not being built is answered 0x31. -/
def execDrainDeadline (ctx : Nat) (s : State) : Res :=
  onObj s (okCtx ctx)
    (match (s.model ctx).drain with
     | none => s
     | some d =>
       if d.expired || s.cycle < d.until_ then s
       else
         let l := modelThreads s ctx
         let s := l.foldl (fun s p =>
           ((s.updThread p.1 (fun t => { t with done := true })).dropCtxOf p.1).updRec p.2.req p.2.qi
             (fun r => { r with status := 0x31, ready := true, scores := [] })) s
         s.updModel ctx (fun x => { x with drain := some { d with expired := true, cancelled := d.cancelled + l.length } }))

/-- A context is freed (R457): its versions, regions, image copies and stake; its flows stay. -/
def emptyModel (s : State) (m : Nat) : State :=
  let vs := (s.model m).vers.map Prod.fst
  let s := vs.foldl (fun s v => dropVersion s m v) s
  let s := s.forget (.model m)
  { s with models := Tbl.del s.models m, place := { s.place with stakes := Tbl.del s.place.stakes (stakeKey false m) } }

/-- The drain of a context is over: the command completes and MODEL_DRAINED is posted (R448, R457). -/
def endDrain (s : State) (m : Nat) (d : Drain) : State :=
  let owner := (s.model m).owner
  let s := if d.unload then emptyModel s m else sweepVersions (s.updModel m (fun x => { x with st := if x.st = 4 then 4 else 1, drain := none })) m
  (s.finish d.cmd stOk 0 d.cancelled).general [owner] 0x0341 (b2n d.unload) (objCode 1 m) 0 d.cancelled 0

/-- MODEL_DRAIN_END (R457): no query of the context is in flight any more. -/
def execModelDrainEnd (ctx : Nat) (s : State) : Res :=
  onObj s (okCtx ctx)
    (match (s.model ctx).drain with
     | none => s
     | some d => if (modelThreads s ctx).isEmpty then endDrain s ctx d else s)

/-- FLOW_REMOVE_DONE (R458): the flow has no query in flight; its entry is freed and the REMOVE completes. -/
def execFlowRemoveDone (flow : Nat) (s : State) : Res :=
  onObj s (okFlow flow)
    (match Tbl.find? s.flows flow with
     | none => s
     | some f =>
       match f.removing with
       | none => s
       | some n => if flowInflight s flow = 0 then (dropFlow s flow).finish n stOk 0 flow else s)

/-! The placement sample (R258). -/

/-- REPLICAS of R257. -/
def wantReplicas (v : MVer) : Nat := max 1 (ceilDiv (v.args.rate * imgSvc v.image) 1000000000)
/-- Capacity of replicas in queries per second (R260). -/
def capacityOf (v : MVer) (l : List (Nat × Replica)) : Nat :=
  l.foldl (fun a r => a + 1250000000 / max 1 (max (imgSvc v.image) r.2.measured)) 0

/-- A replica may be placed on free blocks now (R244, R249, R251, R258). -/
def newReplica (s : State) (m : Nat) (r : Replica) : Option State :=
  let x := s.model m
  let v := s.curVer m
  let own := (r.slices.filter (fun y => y.dev.isNone)).map Slice.block
  let live := (List.filter (fun (q : Nat × Replica) => !q.2.draining) v.replicas).map Prod.snd
  let s' := (s.updModel m (fun y =>
    { y with vers := Tbl.modify y.vers y.ver (fun w => { w with replicas := Tbl.put w.replicas x.nextRep r }), nextRep := x.nextRep + 1 })).writeEntries
      ((r.slices.filter (fun y => y.dev.isNone)).flatMap (sliceEntries v.image))
  if replicaOk v.image v.args.bulk r && (v.args.bulk || alternates (live.drop (live.length - 1) ++ [r])) && own.all (fun b => freeBlock s b && stakeAllows s false m b) &&
      own.all (fun b => (roomShort (afterMoves s') b).isNone) then some s'
  else none

/-- The layout of a replica, on other blocks: its local slices in order on those of a list. -/
def Replica.onBlocks (r : Replica) (l : List Nat) : Replica :=
  { slices := (r.slices.filter (fun y => y.dev.isNone)).mapIdx (fun i x => { x with block := l.getD i x.block }) ++
      r.slices.filter (fun y => y.dev.isSome) }

/-- Free blocks remain for a replica more of a model, laid out as its last one is (R258). -/
def replicaFits (s : State) (m : Nat) : Bool :=
  let v := s.curVer m
  match (List.filter (fun (q : Nat × Replica) => !q.2.draining) v.replicas).getLast? with
  | none => false
  | some (_, r) =>
    [0, 1].any (fun d =>
      let l := (upTo 64).filter (fun b => (v.args.bulk || b / 32 == d) && freeBlock s b && stakeAllows s false m b)
      (newReplica s m (r.onBlocks l)).isSome)

/-- Replicas of a model that take new threads. -/
def liveReps (s : State) (m : Nat) : List (Nat × Replica) := List.filter (fun (r : Nat × Replica) => !r.2.draining) (s.curVer m).replicas

/-- What a sample leaves (R258): the measured means, how many samples in a row were above 90% of capacity or below 40% of that
with a replica less, and the counts of the next 100 ms. Work that went away for a test comes back. -/
def sampled (s : State) (ctx : Nat) (measured : List Nat) : State :=
  let x := s.model ctx
  let s := (upTo 64).foldl returnWork (sweepVersions s ctx)
  let v := s.curVer ctx
  let set_ := ((liveReps s ctx).mapIdx (fun i r => (r.1, measured.getD i r.2.measured)))
  let v' := { v with replicas := set_.foldl (fun (t : Tbl Replica) (p : Nat × Nat) =>
    Tbl.modify t p.1 (fun r => { r with measured := p.2 })) v.replicas }
  let live := List.filter (fun (r : Nat × Replica) => !r.2.draining) v'.replicas
  let rate := x.admitted * 10
  let high := if 9 * capacityOf v' live < rate * 10 then x.high + 1 else 0
  let low := if rate * 10 < 4 * capacityOf v' live.dropLast then x.low + 1 else 0
  s.updModel ctx (fun y =>
    { y with vers := Tbl.put y.vers y.ver v', high := high, low := low, refused := false, admitted := 0, sampledAt := s.now })

/-- A sample asks for a replica more (R258, R565): three samples in a row above 90%, a query refused by its estimate, or none left. -/
def sampleGrows (s t : State) (ctx : Nat) : Bool :=
  decide (3 ≤ (t.model ctx).high) || (s.model ctx).refused || (liveReps t ctx).isEmpty

/-- PLACEMENT_SAMPLE (R247, R258, R259, R296, R565): `measured` gives each replica's mean service of the last 100 ms; `add` the layout of
a replica that placement adds. -/
def execPlacementSample (ctx : Nat) (measured : List Nat) (add : Option Replica) (s : State) : Res :=
  onObj s (okCtx ctx)
    (let x := s.model ctx
     if x.st ≠ 2 ∨ s.now < x.sampledAt + 100000000000 then s
     else
       let t := sampled s ctx measured
       let live := liveReps t ctx
       if sampleGrows s t ctx then
         match add.bind (newReplica t ctx) with
         | some u => u.updModel ctx (fun y => { y with high := 0 })
         | none =>
           if replicaFits t ctx then s
           else if (match x.shortAt with | some w => decide (s.now < w + 60 * second) | none => false) then t
           else (t.updModel ctx (fun y => { y with shortAt := some s.now })).general [x.owner] 0x0303 0 (objCode 1 ctx) 0 live.length
                  (live.length + 1)
       else if 100 ≤ (t.model ctx).low ∧ wantReplicas (t.curVer ctx) < live.length ∧ Tbl.has s.place.stakes (stakeKey false ctx) = false then
         match live.getLast? with
         | some (k, _) =>
           sweepVersions (t.updModel ctx (fun y =>
             { y with low := 0, vers := Tbl.modify y.vers y.ver (fun w =>
                 { w with replicas := Tbl.modify w.replicas k (fun r => { r with draining := true }) }) })) ctx
         | none => t
       else t)

end Sys2Proof.Machine
end

