-- ==== Sys2Proof/Machine/HostModels.lean ====
section
/-! DEFINITION. Host commands on models, flows, stakes and tests: MODEL_LOAD, MODEL_ENABLE, MODEL_DISABLE, MODEL_UNLOAD,
FLOW_CONFIG, STAKE, TEST_RUN (R223, R224, R248, R249, R257, R436, R456 to R458, R461, R513, R561). -/

namespace Sys2Proof.Machine

/-- Bytes `a` up to `z` of a block are 0, checked byte by byte (R9, R445). -/
def rsvBytes (b : Bytes) (a z : Nat) : List (Nat × Bool) := (upTo (z - a)).map (fun i => (a + i, byteAt b (a + i) == 0))

/-- A command that only HBM training holds back completes later (R513). -/
def finishHbm (s : State) (n r0 r1 : Nat) : State :=
  if s.power.hbmTrained then s.finish n stOk 0 r0 r1
  else { s with cmds := Tbl.modify s.cmds n (fun c => { c with waitHbm := some (r0, r1) }) }

/-! MODEL_LOAD. -/

/-- The argument block (R456). -/
def loadArgs (b : Bytes) : LoadArgs :=
  { enable := bit (le b 2 2) 0, hostq := bit (le b 2 2) 1, bulk := bit (le b 2 2) 2, deadline := le b 4 2, collector := le b 6 2,
    rate := le b 8 8, portRates := byteAt b 0x20 % 16, admitVlan := (upTo 4).map (fun i => le b (0x24 + 2 * i) 2),
    admitPorts := le b 0x30 16 }

/-- A collector index (R39). -/
def collectorOk (v : Nat) : Bool := decide (v < 256) || v == 0xFFFF

/-- Fields of the argument block that are not legal. -/
def loadBad (b : Bytes) : Option Nat :=
  firstBad ([(0x00, okCtx (le b 0 2) || le b 0 2 == 0xFFFF), (0x02, decide (le b 2 2 < 8)), (0x04, le b 4 2 != 0),
    (0x06, collectorOk (le b 6 2)), (0x10, le b 0x10 8 % 64 == 0), (0x20, decide (le b 0x20 2 < 16)), (0x22, le b 0x22 2 == 0)] ++
    rsvBytes b 0x2C 0x30)

/-- A program finds room in the VSE memories of some block that placement may use (R161). -/
def progFits (s : State) (img : Bytes) (i : Nat) : Bool :=
  let h := progHdr img i
  (upTo 64).any (fun b =>
    let hs := (slicesOn s b).flatMap (fun x => sliceProgs x.2.1 x.2.2)
    inService s b && !(s.block b).standby && decide (hs.foldl (fun a q => a + q.ninstr) 0 + h.ninstr ≤ 16384) &&
      decide (hs.foldl (fun a q => a + q.ldm) 0 + h.ldm ≤ 262144))

/-- Embedding tables of an image. -/
def imgTables (img : Bytes) : List Nat := ((secTable img).filter (fun x => x.ty == 0x12)).map Sec.idx
/-- Region bytes of a table: whole 2 MiB pages (R223). -/
def regionLen (img : Bytes) (t : Nat) : Nat :=
  max 1 (ceilDiv (etabRows img t * etabStride (etabDim img t) (etabFmt img t)) 0x200000) * 0x200000

/-- The regions a choice names, as the table holds them: (table, region). -/
def choiceRegions (s : State) (fn ctx : Nat) (img : Bytes) (c : PlaceChoice) : List (Nat × Region) :=
  c.regions.map (fun (t, a) =>
    (t, { base := a % 2 ^ 45, len := regionLen img t, owner := s.boot.boardPos * 256 + fn, ctx := ctx, dev := a / 2 ^ 45 : Region }))

/-! Regions and image copies (R223, R224, R240, R262, R281). -/

/-- Bytes of local HBM that are taken: regions, and the image copies of the versions (R251, R281). -/
def hbmTaken (s : State) : List (Nat × Nat) :=
  (List.filter (fun (p : Nat × Region) => p.2.dev == s.boot.boardPos) s.regions).map (fun p => (p.2.base, p.2.len)) ++
    s.models.flatMap (fun p => p.2.vers.map (fun v => (v.2.copyAt, v.2.image.length)))

/-- Bytes that lie in the low 124 GiB of one stack, and share none with those taken. -/
def spanFree (taken : List (Nat × Nat)) (a n : Nat) : Bool :=
  decide (a < hbmSize) && decide (a % 2 ^ 37 + n ≤ 124 * 2 ^ 30) && taken.all (fun t => decide (a + n ≤ t.1) || decide (t.1 + t.2 ≤ a))

/-- A stack has room for so many bytes at a multiple of `al`. -/
def stackRoom (taken : List (Nat × Nat)) (al k n : Nat) : Bool :=
  (k * 2 ^ 37 :: taken.map (fun t => ceilDiv (t.1 + t.2) al * al)).any (fun a => a / 2 ^ 37 == k && spanFree taken a n)

/-- Stacks in service. -/
def liveStacks (s : State) : List Nat := (upTo 4).filter (fun k => bit s.place.stackLive k)

/-- Bytes that the gathers of one query read at most (R144, R262). -/
def gatherBytes (img : Bytes) : Nat :=
  (upTo (nlayer img)).foldl (fun a i => (upTo (layerAt img i).nbag).foldl (fun a j =>
    let d := bagAt img i j
    a + d.max * etabStride (etabDim img d.table) (etabFmt img d.table)) a) 0

/-- Copies of each table (R262): enough that each copy's share of RATE × gather bytes stays within 80% of 2.4 TB/s, at most 4. -/
def wantCopies (img : Bytes) (a : LoadArgs) : Nat := min 4 (max 1 (ceilDiv (a.rate * gatherBytes img) 1920000000000))

/-- What the regions of a choice come to: not what placement would choose, short of room or of a limit of R224, or legal. -/
inductive Fit where
  | bad | short | ok
  deriving DecidableEq, Repr

/-- Holds each region of a choice to R223, R240 and R262, in the order of the tables wanted: a copy beyond the first on a stack of its
own, as far as there is one; on a base die under the blocks that gather, else on any stack, else, for a bulk model, on another
device of the board. `used`: stacks that hold a copy of a table. -/
def fitRegions (s : State) (img : Bytes) (bulk : Bool) (dies : List Nat) :
    List (Nat × Nat) → List (Nat × Nat) → List (Nat × Nat) → List (Nat × Nat) → Fit
  | [], [], _, _ => .ok
  | [], _ :: _, _, _ => .bad
  | (t, i) :: ts, c, taken, used =>
    let n := regionLen img t
    let room := (liveStacks s).filter (fun k => !used.contains (t, k) && stackRoom taken 0x200000 k n)
    let near := room.filter (fun k => dies.contains (k / 2))
    let may := if near.isEmpty then room else near
    if i ≠ 0 ∧ room.isEmpty = true then fitRegions s img bulk dies ts c taken used
    else
      match c with
      | [] => if room.isEmpty then .short else .bad
      | (t', a) :: cs =>
        let b := a % 2 ^ 45
        if t' ≠ t ∨ b % 0x200000 ≠ 0 then .bad
        else if a / 2 ^ 45 = s.boot.boardPos then
          (if may.contains (stackOf b) && spanFree taken b n then
             fitRegions s img bulk dies ts cs ((b, n) :: taken) ((t, stackOf b) :: used)
           else .bad)
        else if bulk && room.isEmpty && decide (a / 2 ^ 45 < 8) && (routeOf s (a / 2 ^ 45)).isSome &&
            spanFree ((List.filter (fun (p : Nat × Region) => p.2.dev == a / 2 ^ 45) s.regions).map (fun p => (p.2.base, p.2.len))) b n then
          fitRegions s img bulk dies ts cs taken used
        else .bad

/-- The limits of R224 with the regions of a load. -/
def grantsFit (s : State) (ctx n : Nat) : Bool :=
  decide (s.regions.length + n ≤ 4096) && decide ((List.filter (fun (p : Nat × Region) => p.2.ctx == ctx) s.regions).length + n ≤ 64)

/-- A choice's regions and image copy against R223, R224, R240, R262, R281. The copy lies in local HBM on a multiple of 64, outside
every region; a choice that names none of its bytes, at the end of HBM, says that no stack has room for it. -/
def fitHbm (s : State) (ctx : Nat) (img : Bytes) (a : LoadArgs) (c : PlaceChoice) : Fit :=
  let dies := (c.replicas.flatMap (fun r => (r.slices.filter (fun x => x.dev.isNone)).map (fun x => x.block / 32))).eraseDups
  let want := (imgTables img).flatMap (fun t => (upTo (wantCopies img a)).map (fun i => (t, i)))
  match fitRegions s img a.bulk dies want c.regions (hbmTaken s) [] with
  | .ok =>
    let own := (choiceRegions s 0 ctx img c).filter (fun p => p.2.dev == s.boot.boardPos)
    let taken := own.map (fun p => (p.2.base, p.2.len)) ++ hbmTaken s
    if c.copyAt = hbmSize then
      (if (liveStacks s).any (fun k => stackRoom taken 64 k img.length) then .bad else .short)
    else if !(c.copyAt % 64 == 0 && bit s.place.stackLive (stackOf c.copyAt) && spanFree taken c.copyAt img.length) then .bad
    else if grantsFit s ctx c.regions.length then .ok else .short
  | f => f

/-- The state with a version placed as chosen: its rules in the banks, its tables in their regions, those of other devices written
there (R230), and a copy of the image (R281). The writes clear poison (R279). -/
def placeVersion (s : State) (fn ctx ver : Nat) (img : Bytes) (a : LoadArgs) (c : PlaceChoice) : State :=
  let rs := choiceRegions s fn ctx img c
  let keys := ((upTo 4096).filter (fun k => !Tbl.has s.regions k)).take rs.length
  let n := (s.model ctx).nextRep
  let v : MVer := { image := img, args := a, replicas := c.replicas.mapIdx (fun i r => (n + i, r)),
                    tables := rs.foldl (fun (t : Tbl (List Nat)) (p : Nat × Region) =>
                      Tbl.put t p.1 (Tbl.getD t p.1 [] ++ [p.2.dev * 2 ^ 45 + p.2.base])) [],
                    copyAt := c.copyAt, regions := keys }
  let own := (rs.filter (fun p => p.2.dev == s.boot.boardPos)).map (fun p => (p.2.base, p.2.len, (secBody img 0x12 p.1).drop 0x40)) ++
    [(c.copyAt, img.length, img)]
  let s := keys.foldl (fun s k => s.forget (.region k)) s
  let s := { s with regions := (keys.zip rs).foldl (fun (t : Tbl Region) (p : Nat × Nat × Region) => Tbl.put t p.1 p.2.2) s.regions,
                    hbm := own.foldl (fun m (p : Nat × Nat × Bytes) => Memory.write m p.1 p.2.2) s.hbm,
                    poison := s.poison.filter (fun g => !own.any (fun p => decide (p.1 ≤ g * 64) && decide (g * 64 < p.1 + p.2.1))) }
  let s := (s.updModel ctx (fun m => { m with vers := Tbl.put m.vers ver v, nextRep := n + c.replicas.length })).writeEntries (verEntries v)
  (rs.filter (fun p => p.2.dev != s.boot.boardPos)).foldl (fun s p =>
    writeRemote s (p.2.dev * 2 ^ 45 + p.2.base) ((secBody img 0x12 p.1).drop 0x40)) s

/-- Blocks placement may load a context's work on (R244, R249). -/
def loadBlocks (s : State) (ctx : Nat) : List Nat :=
  (upTo 64).filter (fun b => inService s b && !(s.block b).standby && stakeAllows s false ctx b)

/-- A stake, and a route, allow a slice on another device (R239, R248). -/
def devAllowed (s : State) (ctx d : Nat) : Bool :=
  (routeOf s d).isSome && (match Tbl.find? s.place.stakes (stakeKey false ctx) with | none => true | some k => bit k.devices d)

/-- The choice is one that placement may make, whatever room it takes (R239, R240, R244, R249, R257, R262). -/
def choiceShape (s : State) (ctx : Nat) (img : Bytes) (a : LoadArgs) (c : PlaceChoice) : Bool :=
  let bs := c.replicas.flatMap (fun r => (r.slices.filter (fun x => x.dev.isNone)).map Slice.block)
  c.replicas.length == wantReplicas { image := img, args := a } && c.replicas.all (replicaShape img a.bulk) &&
    (a.bulk || alternates c.replicas) && bs.all (fun b => (loadBlocks s ctx).contains b) &&
    c.replicas.all (fun r => r.slices.all (fun x => match x.dev with | some d => devAllowed s ctx d | none => true)) &&
    fitHbm s ctx img a c != .bad

/-- The lowest code in which a choice falls short, if any (R251, R562, R564). -/
def choiceShort (s : State) (fn ctx ver : Nat) (img : Bytes) (a : LoadArgs) (c : PlaceChoice) : Option Nat :=
  let bs := (c.replicas.flatMap (fun r => (r.slices.filter (fun x => x.dev.isNone)).map Slice.block)).eraseDups
  let t := afterMoves (placeVersion s fn ctx ver img a c)
  let codes := c.replicas.filterMap (replicaShort img a.bulk) ++ bs.filterMap (roomShort t) ++
    (if fitHbm s ctx img a c = .ok then [] else [9])
  if codes.isEmpty then none else some (codes.foldl min 19)

/-- The state without a context's versions: what a reload would find if the old rules left first. -/
def withoutOld (s : State) (ctx : Nat) : State := ((s.model ctx).vers.map Prod.fst).foldl (fun s v => dropVersion s ctx v) s

/-- Loads a checked image into a context: an empty one at once, an owned one in shadow until SHADOW_SWITCH (R23, R456). A layout
that falls short ends in RESOURCE; for a reload that would fit without the old rules, shadow storage is what falls short
(R564). A choice that placement would not make changes nothing: `old`. -/
def loadInto (old s : State) (fn n ctx : Nat) (img : Bytes) (a : LoadArgs) (c : PlaceChoice) : State :=
  let x := s.model ctx
  let empty := !Tbl.has s.models ctx
  let ver := if empty then 0 else x.nextVer
  if (loadBlocks s ctx).isEmpty then s.finish n stResource 19
  else if !choiceShape s ctx img a c then old
  else
    match choiceShort s fn ctx ver img a c with
    | some k => s.finish n stResource (if !empty && (choiceShort (withoutOld s ctx) fn ctx ver img a c).isNone then 15 else k)
    | none =>
      let s := (placeVersion s fn ctx ver img a c).rewritten (.model ctx)
      if empty then
        let s := s.updModel ctx (fun m => { m with owner := fn, ver := ver, st := if a.enable then 2 else 1, sampledAt := s.now })
        finishHbm s n ctx (loadResult (s.curVer ctx))
      else
        let s := (s.model ctx).vers.foldl (fun s v => v.2.regions.foldl (fun s r => s.rewritten (.region r)) s) s
        s.updModel ctx (fun m => { m with shadow := some (ver, n) })

/-- MODEL_LOAD (R436, R456, R473, R475, R561, R562): `image` is what the DMA read of the image gave, `place` the layout that
placement comes to: it is loaded, or what it falls short of is reported. -/
def execModelLoad (fn : Nat) (arg image : Dma) (place : PlaceChoice) (s : State) : Res :=
  onObj s (okFn fn)
    (match takeArg s fn 0x0001 true (· == 64) arg with
     | .inl s => s
     | .inr (n, _, b) =>
       match loadBad b with
       | some o => s.finish n stInvalidArg (argAt o)
       | none =>
         let want := le b 0 2
         let ctx := if want = 0xFFFF then place.ctx else want
         let mine := Tbl.has s.models ctx && (s.model ctx).owner == fn
         if want = 0xFFFF ∧ (upTo 4096).all (fun k => Tbl.has s.models k) = true then s.finish n stResource 0
         else if want ≠ 0xFFFF ∧ mine = false ∧ (isPf fn = false ∨ Tbl.has s.models ctx = true) then s.finish n stNotFound 0
         else if want = 0xFFFF ∧ (4096 ≤ ctx ∨ Tbl.has s.models ctx = true) then s
         else
           let old := s
           startOn s fn n (if want = 0xFFFF then .none else .model ctx) (fun s =>
             let s := sweepAll s
             let len := le b 0x18 8
             match (if len < 64 then Dma.data [] else image) with
             | .err st => s.finish n stDmaError st
             | .data i =>
               let img := padTo len (i.take len)
               match checkImage img len (progFits s img) with
               | some d => s.finish n stInvalidImage d
               | none => loadInto old s fn n ctx img (loadArgs b) place))

/-! The CTX block (R461). -/

/-- Takes a command with a CTX block and the context it names, which the function owns. -/
def withCtx (s : State) (fn op : Nat) (arg : Dma) (k : Nat → Nat → State → State) : State :=
  match takeArg s fn op true (· == 16) arg with
  | .inl s => s
  | .inr (n, _, b) =>
    match firstBad ((0, okCtx (le b 0 2)) :: rsvBytes b 2 16) with
    | some o => s.finish n stInvalidArg (argAt o)
    | none =>
      let m := le b 0 2
      if !Tbl.has s.models m || (s.model m).owner != fn then s.finish n stNotFound 0
      else startOn s fn n (.model m) (k n m)

/-- STATE of a model context (R566). -/
def modelState (s : State) (n m : Nat) : State := s.finish n stState (0x0100 + (s.model m).st)

/-- MODEL_ENABLE (R457). -/
def execModelEnable (fn : Nat) (arg : Dma) (s : State) : Res :=
  onObj s (okFn fn) (withCtx s fn 0x0002 arg (fun n m s =>
    if (s.model m).st = 1 then (s.updModel m (fun x => { x with st := 2 })).finish n stOk 0 else modelState s n m))

/-- A drain begins (R457): DEADLINE counts from now. -/
def startDrain (s : State) (n m : Nat) (unload : Bool) : State :=
  let d : Drain := { until_ := s.cycle + 1250 * (s.curVer m).args.deadline, unload := unload, cmd := n }
  s.updModel m (fun x => { x with st := if x.st = 2 then 3 else x.st, drain := some d })

/-- MODEL_DISABLE (R457): completes when the drain ends. -/
def execModelDisable (fn : Nat) (arg : Dma) (s : State) : Res :=
  onObj s (okFn fn) (withCtx s fn 0x0003 arg (fun n m s =>
    if (s.model m).st = 2 then startDrain s n m false else modelState s n m))

/-- MODEL_UNLOAD (R457, R475): a context without queries in flight is freed at once. -/
def execModelUnload (fn : Nat) (arg : Dma) (s : State) : Res :=
  onObj s (okFn fn) (withCtx s fn 0x0004 arg (fun n m s =>
    let s := startDrain s n m true
    match (s.model m).st, (s.model m).drain with
    | 3, _ => s
    | _, some d => if (modelThreads s m).isEmpty then endDrain s m d else s
    | _, none => s))

/-! FLOW_CONFIG (R458). -/

/-- FLOW_CONFIG: OP 0 SET, 1 REMOVE. -/
def execFlowConfig (fn : Nat) (arg : Dma) (s : State) : Res :=
  onObj s (okFn fn)
    (match takeArg s fn 0x0010 true (· == 32) arg with
     | .inl s => s
     | .inr (n, _, b) =>
       let host := bit (byteAt b 1) 0
       let gap := le b 0x0C 4
       match firstBad [(0, decide (byteAt b 0 < 2)), (1, decide (byteAt b 1 < 2)), (2, collectorOk (le b 2 2)),
           (0x0C, decide (gap ≤ 1000000) || gap == 0xFFFFFFFF), (0x10, !host || allZero (slice b 0x10 16))] with
       | some o => s.finish n stInvalidArg (argAt o)
       | none =>
         if !host && !isPf fn then s.finish n stInvalidArg notPermitted
         else
           let key := if host then hostKey fn else be b 0x10 16
           let fid := le b 4 4
           startOn s fn n (.flow host key fid) (fun s =>
             match byteAt b 0, findFlow s host key fid with
             | 0, some h =>
               (s.updFlow h (fun f => { f with collector := le b 2 2, gapWait := gap })).finish n stOk 0 h
             | 0, none =>
               match flowSlot s host key fid with
               | none => s.finish n stResource 14
               | some h =>
                 let f : Flow := { keyAddr := key, flowId := fid, host := host, nextSeq := le b 8 4, gapWait := gap,
                                   collector := le b 2 2, lastUse := s.cycle }
                 ({ s with flows := Tbl.put s.flows h f }).finish n stOk 0 h
             | _, none => s.finish n stNotFound 0
             | _, some h =>
               if flowInflight s h = 0 then (dropFlow s h).finish n stOk 0 h
               else s.updFlow h (fun f => { f with removing := some n })))

/-! STAKE (R248, R249) and TEST_RUN (R461). -/

/-- Blocks a target's work lies on. -/
def targetBlocks (s : State) (group : Bool) (t : Nat) : List Nat :=
  if group then (match Tbl.find? s.groups t with | some g => (match g.nextAcc with | some (_, l) => l | none => g.accBlocks) | none => [])
  else (s.curVer t).replicas.flatMap (fun r => (r.2.slices.filter (fun x => x.dev.isNone)).map Slice.block)

/-- Slices of a target on other devices that its stake's DEVICES leave out (R248, log 140). -/
def staysOutside (s : State) (group : Bool) (t : Nat) (k : Stake) : Bool :=
  !group && (s.curVer t).replicas.any (fun r => r.2.slices.any (fun x =>
    match x.dev with | some d => !bit k.devices d | none => false))

/-- Starts the moves of a list, one after the other, as long as each finds room; none if one does not. -/
def startMoves (what : ObjRef) : List (Nat × Nat) → State → Option State
  | [], s => some s
  | (x, d) :: l, s =>
    if (moveShort s { cause := 3, src := x, dst := d, what := what }).isNone then startMoves what l (startMig s 3 x d what) else none

/-- The moves that bring a target's work from some blocks into a set: each to the first block with room, or the codes of what falls
short for the first that finds none. -/
def stakePlan (what : ObjRef) (set_ : List Nat) : List Nat → State → List (Nat × Nat) ⊕ List Nat
  | [], _ => .inl []
  | x :: l, s =>
    match set_.find? (fun d => (moveShort s { cause := 3, src := x, dst := d, what := what }).isNone) with
    | some d =>
      match stakePlan what set_ l (startMig s 3 x d what) with
      | .inl m => .inl ((x, d) :: m)
      | .inr c => .inr c
    | none => .inr (set_.filterMap (fun d => moveShort s { cause := 3, src := x, dst := d, what := what }))

/-- STAKE: `moves` are the migrations placement chooses to bring the work into the set, from block to block. -/
def execStake (fn : Nat) (arg : Dma) (moves : List (Nat × Nat)) (s : State) : Res :=
  onObj s (okFn fn)
    (match takeArg s fn 0x0051 true (· == 16) arg with
     | .inl s => s
     | .inr (n, _, b) =>
       let clear := byteAt b 1 == 1
       match firstBad ([(0, decide (byteAt b 0 < 2)), (1, decide (byteAt b 1 < 2)), (2, okCtx (le b 2 2)), (4, !clear || byteAt b 4 == 0)] ++
           rsvBytes b 5 8 ++ [(8, !clear || le b 8 8 == 0)]) with
       | some o => s.finish n stInvalidArg (argAt o)
       | none =>
         let group := byteAt b 0 == 1
         let t := le b 2 2
         let what : ObjRef := if group then .group t else .model t
         let owned := if group then (match Tbl.find? s.groups t with | some g => g.owner == fn | none => false)
           else Tbl.has s.models t && (s.model t).owner == fn
         if !owned then s.finish n stNotFound 0
         else
           let old := s
           startOn s fn n what (fun s =>
             if clear then
               ({ s with place := { s.place with stakes := Tbl.del s.place.stakes (stakeKey group t) } }).finish n stOk 0
             else
               let k : Stake := ⟨byteAt b 4, le b 8 8⟩
               let s' := { s with place := { s.place with stakes := Tbl.put s.place.stakes (stakeKey group t) k } }
               let set_ := (upTo 64).filter (stakeAllows s' group t)
               let out := ((targetBlocks s group t).eraseDups).filter (fun x => !set_.contains x)
               if (upTo 64).any (fun x => bit k.blocks x && (s.block x).retired) || set_.isEmpty || staysOutside s group t k then
                 s.finish n stResource 19
               else if out.any (migrating s) || (!out.isEmpty && s.boot.activating.isSome) then old
               else
                 match stakePlan what set_ out s' with
                 | .inr codes => s.finish n stResource (codes.foldl min 19)
                 | .inl _ =>
                   if moves.map Prod.fst != out || !moves.all (fun m => set_.contains m.2) then old
                   else
                     match startMoves what moves s' with
                     | some u => u.finish n stOk 0
                     | none => old))

/-- TEST_RUN (R293 to R295, R461): the block's test falls due now. -/
def execTestRun (fn : Nat) (arg : Dma) (s : State) : Res :=
  onObj s (okFn fn)
    (match takeArg s fn 0x0050 (isPf fn) (· == 16) arg with
     | .inl s => s
     | .inr (n, _, b) =>
       match firstBad ((0, okBlock (byteAt b 0)) :: rsvBytes b 1 16) with
       | some o => s.finish n stInvalidArg (argAt o)
       | none =>
         let k := byteAt b 0
         if (s.block k).testCmd.isSome then s
         else
           startOn s fn n (.block k) (fun s =>
             if (s.block k).retired || (s.block k).failed then s.finish n stState 0x0300
             else
               let s := s.updBlock k (fun x => { x with testCmd := some n, testDue := some (x.testDue.getD s.now) })
               if (s.block k).testing then s else beginTest s k))

end Sys2Proof.Machine
end

