-- ==== Sys2Proof/Machine/PowerOps.lean ====
section
/-! DEFINITION. How the power requests of the physical functions are resolved (R508), shared by every row that changes a
request or attaches a function. -/

namespace Sys2Proof.Machine

/-- The shallowest TARGET among some functions. -/
def shallowest (s : State) : List Nat → Nat
  | [] => 4
  | f :: t => min (s.fn f).pwrTarget (shallowest s t)

/-- The effective target and the wake sources in force are resolved anew (R508): they stay as they are while no PF is
attached, and during an entry sequence. -/
def evalTarget (s : State) : State :=
  let att := pfs.filter (attached s)
  match s.power.transit with
  | .drain .. => s
  | _ =>
    if att.isEmpty then s
    else
      let t := shallowest s att
      let w := (att.filter (fun f => (s.fn f).pwrTarget == t)).foldl (fun a f => a ||| (s.fn f).pwrWake) 0
      { s with power := { s.power with targetEff := t, wakeEff := w } }

/-- The state an entry sequence may go to now: the effective target, but no deeper than S2 while HOLD_REASON stands
(R508), and no deeper than S2 or the state reached while WAKE_N is low (R518). -/
def entryGoal (s : State) : Nat :=
  if s.power.targetEff < 3 then s.power.targetEff
  else if holdReason s ≠ 0 ∨ s.power.wakeLow = true then max 2 s.power.st
  else s.power.targetEff

/-- A PF's request (R508, R516): TARGET 5 to 7 leaves the field as it is. -/
def requestState (s : State) (fn target wake : Nat) : State :=
  evalTarget (s.updFn fn (fun x => { x with pwrTarget := if target ≤ 4 then target else x.pwrTarget, pwrWake := wake }))

/-- The device enters a power state: the residence of the state it leaves is counted (R523). -/
def enterState (s : State) (st : Nat) : State :=
  let s := settlePower s
  let s := { s with power := { s.power with st := st, since := s.now } }
  if st = 0 then s else s.count .pwrEntry 0 1 st

end Sys2Proof.Machine
end

