-- ==== Sys2Proof/Machine/Rings.lean ====
section
/-! DEFINITION. Rings and functions: polling, enabling and stopping rings, function-level reset, Bus Master Enable, PCIe links
(R263, R437 to R443, R474, R532, R533). -/

namespace Sys2Proof.Machine

/-! Ring blocks (R437, R530). -/

/-- The host produces this ring. -/
def hostRing (r : Nat) : Bool := r == 0 || (decide (3 ≤ r) && decide (r ≤ 6)) || r == 11
/-- The ring has a buffer per slot. -/
def bufRing (r : Nat) : Bool := (decide (7 ≤ r) && decide (r ≤ 10)) || r == 12
/-- Ring class, in the row order of R437. -/
def ringClass (r : Nat) : Nat :=
  if r ≤ 2 then r else if r ≤ 6 then 3 else if r ≤ 10 then 4 else if r = 11 then 5 else 6
/-- Number of a ring within its class. -/
def ringNum (r : Nat) : Nat := if 3 ≤ r ∧ r ≤ 6 then r - 3 else if 7 ≤ r ∧ r ≤ 10 then r - 7 else 0

/-- Host queries of a ring that have been taken and not answered. -/
def hostUnanswered (s : State) (fn i : Nat) : Nat :=
  (s.reqs.filter (fun p => match p.2.src with
    | .host f j _ => f == fn && j == i && !p.2.allBuilt
    | .port _ => false)).length

/-- Slots of host reply ring i that no fetched descriptor's reply needs yet (R263, R439). -/
def replyFree (s : State) (fn i : Nat) : Nat :=
  let x := s.fn fn
  (x.ring (7 + i)).room - (Tbl.getD x.replies i []).length - (Tbl.getD x.queryQ i []).length - hostUnanswered s fn i

/-- Most descriptors a poll of a ring may fetch now (R437, R439). -/
def fetchLimit (s : State) (fn r : Nat) : Nat :=
  if r = 0 then min 64 (256 - (s.cmds.filter (fun p => p.2.fn == fn)).length)
  else if r = 11 then 1024
  else min 4096 (replyFree s fn (r - 3))

/-- A ring stops and posts RING_ERROR (R441, R529, R531). -/
def stopRing (s : State) (fn r cause : Nat) : State :=
  ((s.updRing fn r (fun x => { x with enable := false, stopCause := cause })).updFn fn (fun x => { x with ringStopped := true })).general
    pfs 0x0330 cause 0 0 (ringClass r) (ringNum r)

/-- A command descriptor as fetched (R443). -/
def cmdOf (fn : Nat) (d : Bytes) : Cmd :=
  let w := le d 2 2
  { fn := fn, opcode := le d 0 2, fence := bit w 0, tag := le d 8 8, argAddr := le d 0x10 8, argLen := le d 0x18 4,
    outLen := le d 0x1C 4, outAddr := le d 0x20 8,
    badOff := firstBad ([(2, w / 2 == 0), (4, le d 4 4 == 0), (0x10, le d 0x10 8 % 64 == 0), (0x18, decide (le d 0x18 4 ≤ 16777216)),
      (0x20, le d 0x20 8 % 64 == 0)] ++ (upTo 24).map (fun i => (0x28 + i, byteAt d (0x28 + i) == 0))) }

/-- A fetched descriptor joins the work of its ring. -/
def takeDesc (fn r : Nat) (s : State) (d : Bytes) : State :=
  if r = 0 then { s with cmds := Tbl.put s.cmds s.nextCmd (cmdOf fn d), nextCmd := s.nextCmd + 1 }
  else if r = 11 then s.updFn fn (fun x => { x with txQ := x.txQ ++ [d] })
  else s.updFn fn (fun x => { x with queryQ := Tbl.put x.queryQ (r - 3) (Tbl.getD x.queryQ (r - 3) [] ++ [d]) })

/-- RING_POLL (R439, R441): what the poll read at PI_ADDR, none if the read failed, and the descriptors it then read. -/
def execRingPoll (fn ring : Nat) (pi : Option Nat) (descs : Bytes) (s : State) : Res :=
  onObj s (okRing fn ring && hostRing ring)
    (let g := (s.fn fn).ring ring
     if !s.fnLive fn || !g.enable || s.ringLost fn ring || s.now < g.polled + g.pollUs * 1000000 then s
     else
       match pi with
       | none => stopRing s fn ring 2
       | some p =>
         let n := wrap 32 ((p : Int) - g.index)
         if g.size < n then stopRing s fn ring 1
         else
           let n := min n (fetchLimit s fn ring)
           let ci := (g.index + n) % 2 ^ 32
           let s := s.updRing fn ring (fun x => { x with polled := s.now, index := ci })
           let s := (chunks 64 n (padTo (64 * n) (descs.take (64 * n)))).foldl (takeDesc fn ring) s
           refuseUndefined fn s.cmds.length (s.emit (.dma fn g.ciAddr (leBytes 4 ci))))

/-- A device-produced ring looks full (R439): no room, or for a reply ring none that is not spoken for. -/
def looksFull (s : State) (fn r : Nat) : Bool :=
  ((s.fn fn).ring r).room == 0 || (decide (7 ≤ r) && decide (r ≤ 10) && replyFree s fn (r - 7) == 0)

/-- DEVICE_RING_CI_POLL (R439, R441): the read of CI_ADDR of a device-produced ring that looks full, none if it failed. -/
def execDeviceRingCiPoll (fn ring : Nat) (ci : Option Nat) (s : State) : Res :=
  onObj s (okRing fn ring && !hostRing ring)
    (let g := (s.fn fn).ring ring
     if !s.fnLive fn || !g.enable || s.ringLost fn ring || !looksFull s fn ring then s
     else
       match ci with
       | none => stopRing s fn ring 2
       | some c =>
         if g.size < wrap 32 ((g.index : Int) - c) then stopRing s fn ring 1
         else (s.updRing fn ring (fun x => { x with far := c % 2 ^ 32, polled := s.now })).drainFn fn)

/-- MSIX_MODERATION_EXPIRY (R442): MOD_US has passed since the first unsignalled entry. -/
def execMsixModerationExpiry (fn ring : Nat) (s : State) : Res :=
  onObj s (okRing fn ring && !hostRing ring)
    (let g := (s.fn fn).ring ring
     if !s.fnLive fn || g.unsig = 0 || g.modUs = 0 || s.now < g.unsigAt + g.modUs * 1000000 then s
     else s.signalRing fn ring)

/-- Vectors of a function (R442). -/
def vectors (fn : Nat) : Nat := if fn % 64 = 0 then 64 else 16

/-- The parameters of a ring block pass the check of R532. -/
def ringOk (s : State) (fn r : Nat) : Bool :=
  let g := (s.fn fn).ring r
  g.base % 4096 == 0 && g.piAddr % 8 == 0 && g.ciAddr % 8 == 0 && decide (6 ≤ g.log2) && decide (g.log2 ≤ 16) &&
    decide (1 ≤ g.pollUs) && decide (g.pollUs ≤ 1000) &&
    (hostRing r || (decide (g.modUs ≤ 1000) && decide (1 ≤ g.modCount) && decide (g.modCount ≤ 256) &&
      decide (g.vector < vectors fn))) &&
    (!bufRing r || (g.bufBase % 4096 == 0 && decide (32 ≤ g.stride) && decide (g.stride ≤ 264))) &&
    (!(decide (3 ≤ r) && decide (r ≤ 6)) || ((s.fn fn).ring (r + 4)).enable)

/-- ENABLE is written to 1 (R438, R532, R543). -/
def enableRing (s : State) (fn r : Nat) : State :=
  let s := s.rewritten (.reg fn (0x8000 + 0x40 * r + 0x2C))
  if ((s.fn fn).ring r).enable then s
  else if !ringOk s fn r then s.updRing fn r (fun x => { x with cfgErr := true })
  else
    (s.updRing fn r (fun x => { x with enable := true, index := 0, far := 0, polled := s.now, stopCause := 0, unsig := 0 })).drainFn fn

/-- ENABLE is written to 0 (R533). -/
def disableRing (s : State) (fn r : Nat) : State :=
  (s.rewritten (.reg fn (0x8000 + 0x40 * r + 0x2C))).updRing fn r (fun x => { x with enable := false })

/-- RING_ENABLE (R532): a write of 1 to ENABLE. -/
def execRingEnable (fn ring : Nat) (s : State) : Res :=
  onObj s (okRing fn ring) (if s.live then enableRing s fn ring else s)

/-- RING_DISABLE (R533): a write of 0 to ENABLE. -/
def execRingDisable (fn ring : Nat) (s : State) : Res :=
  onObj s (okRing fn ring) (if s.live then disableRing s fn ring else s)

/-! Reset of a function (R474, R544). -/

/-- Board requests of the function's aperture: nobody waits for them any more. -/
def orphanReads (s : State) (fn : Nat) : State :=
  let mine := fun (r : BlpSrc) => match r with | .aperture _ f _ _ => f == fn | _ => false
  { s with blpReqs := Tbl.mapVals s.blpReqs (fun _ r => if mine r.src then { r with src := .load 16384 0 0 } else r),
           blpGot := s.blpGot.filter (fun r => !mine r.src), blpWait := s.blpWait.filter (fun r => !mine r.src) }

/-- NEXT_SEQ of a request's flow as it was before the request passed (R474). -/
def rewindSeq (s : State) (r : Nat) : State :=
  match s.req r with
  | some q =>
    if q.order == .seq && q.passed then
      match q.handle with
      | some h => s.updFlow h (fun f => if seqDiff f q.fromSeq < 0 then { f with nextSeq := q.fromSeq } else f)
      | none => s
    else s
  | none => s

/-- Work fetched for a function is given up (R474): host queries as after a bad verdict, commands that have started run to
their end in silence; `keep` keeps the commands that have not. A push being read fails (R481, R495). -/
def abandonWork (s : State) (fn : Nat) (keep : Bool) : State :=
  let rs := (s.reqs.filter (fun p => match p.2.src with | .host f _ _ => f == fn | .port _ => false)).map Prod.fst
  let s := rs.foldl rewindSeq s
  let s := rs.foldl (fun s r => badVerdict (s.updReq r (fun q => { q with framesOut := 0 })) r) s
  let s := { s with cmds := Tbl.mapVals (List.filter (fun (p : Nat × Cmd) => p.2.fn != fn || p.2.started || keep) s.cmds)
                      (fun _ c => if c.fn = fn ∧ c.started then { c with silent := true } else c) }
  let s := if s.boot.pushing = some fn then { s with boot := { s.boot with pushing := none, err := 8 } } else s
  orphanReads s fn

/-- A function is reset (R474, R544, R545): its registers have their reset values; what it owns stays. -/
def resetFn (s : State) (fn : Nat) : State :=
  let s := abandonWork s fn false
  let own := fun (l : Lost) => match l.obj with
    | .reg f o => f == fn && (o == 0x5000 || o == 0x2000 || decide (0x8000 ≤ o))
    | _ => false
  let p := { s.place with lost := s.place.lost.filter (fun l => !own l) }
  let s := { s with fns := Tbl.del s.fns fn, place := p, votes := s.votes.filter (fun x => x.fn != fn) }
  let s := if fn = tuOwner s then
      s.updTu (fun t => { t with incLow := t.inc % 2 ^ 32, stepLow := 0, stepMid := 0 }) else s
  evalTarget s

/-- Every function of a host port is reset: PERST_N, or its link is down (R474, R477). -/
def resetHostPort (s : State) (h : Nat) : State := (upTo 64).foldl (fun s f => resetFn s (64 * h + f)) s

/-- FUNCTION_LEVEL_RESET (R474). -/
def execFunctionLevelReset (fn : Nat) (s : State) : Res :=
  onObj s (okFn fn) (if s.hostUp.contains (fn / 64) then resetFn s fn else s)

/-- BUS_MASTER_CLEAR (R474, R544): no register changes; ring set-up and index copies stay. -/
def execBusMasterClear (fn : Nat) (s : State) : Res :=
  onObj s (okFn fn)
    (if !(s.fn fn).bme then s
     else
       let s := abandonWork s fn true
       evalTarget (s.updFn fn (fun x =>
         { x with bme := false, events := [], dropped := 0, comps := [], replies := [], queryQ := [], txQ := [], rxQ := [] })))

/-- BUS_MASTER_SET (R474, R508): processing resumes from the ring set-up and index copies kept. -/
def execBusMasterSet (fn : Nat) (s : State) : Res :=
  onObj s (okFn fn)
    (if s.hostUp.contains (fn / 64) then
       let s := evalTarget (s.updFn fn (fun x => { x with bme := true }))
       refuseUndefined fn s.cmds.length (s.drainFn fn)
     else s)

/-- PF_ATTACH_CHANGE (R508): a PF has become attached or detached; the effective target is resolved anew. -/
def execPfAttachChange (fn : Nat) (attach : Bool) (s : State) : Res :=
  onObj s (okFn fn) (if isPf fn && attached s fn == attach then evalTarget s else s)

/-- PCIE_LINK_CHANGE (R430, R474, R480): a link trains in S0 to S2; when it goes down every function of the port is reset. -/
def execPcieLinkChange (hostPort : Nat) (up : Bool) (s : State) : Res :=
  onObj s (decide (hostPort < 4))
    (if up then
       if 3 ≤ s.power.st || !s.power.powered || s.hostUp.contains hostPort then s else { s with hostUp := s.hostUp ++ [hostPort] }
     else resetHostPort { s with hostUp := s.hostUp.filter (· ≠ hostPort) } hostPort)

end Sys2Proof.Machine
end

