-- ==== Sys2Proof/Machine/Power.lean ====
section
/-! DEFINITION. Power (chapter 16): the state ladder with its entry and exit sequences, wake sources, supply faults, telemetry
and PMBus (R371, R496 to R523). -/

namespace Sys2Proof.Machine

/-- One millisecond in picoseconds. -/
def milli : Nat := 1000000000

/-! Entry sequences (R509, R510). -/

/-- Frames that S1 does not send (R507, R510). -/
def drained (f : TxFrame) : Bool :=
  match f.kind with
  | .hello => false
  | .control => false
  | .pause .. => false
  | _ => true

/-- Frames of a port that its egress queues still hold and S1 will not send. -/
def queuedWork (x : Port) : List TxFrame :=
  (x.replyQ ++ x.groupQ.flatMap Prod.snd ++ x.classQ.flatMap Prod.snd).filter drained

/-- Every egress queue has drained. -/
def egressEmpty (s : State) : Bool := s.ports.all (fun p => (queuedWork p.2).isEmpty)

/-- The frames still queued on a port are dropped (R510 step 3). -/
def dropQueued (s : State) (p : Nat) : State :=
  let l := queuedWork (s.port p)
  let rest := fun (q : List TxFrame) => q.filter (fun f => !drained f)
  let s := s.updPort p (fun x =>
    { x with replyQ := rest x.replyQ, groupQ := Tbl.mapVals x.groupQ (fun _ q => rest q),
             classQ := Tbl.mapVals x.classQ (fun _ q => rest q) })
  let s := s.count .pwrTxDrop 0 l.length
  let s := l.foldl (fun s f => match f.kind with
    | .reply r => replyLeft s r f.recs false
    | .retract r => retire (s.updReq r (fun q => { q with framesOut := q.framesOut - 1 })) r
    | _ => s) s
  (l.filterMap TxFrame.ingress).foldl (fun s i => pauseUpdate s i.1) s

/-- What goes on entry to S3 (R509, R510): flows, work, HBM contents, PCIe and board links with what waits on them, time slots. -/
def loseWork (s : State) : State :=
  let s := (upTo 7).foldl holdLink s
  let s := s.hostUp.foldl (fun s h => resetHostPort s h) s
  { s with hostUp := [], flows := [], reqs := [], threads := [], vctx := [], hbm := [], poison := [], blpReqs := [], blpWait := [],
           blpGot := [], guests := [], foldIn := [],
           tu := { s.tu with slots := [], armed := none, toutUntil := [] },
           power := { s.power with hbmTrained := false } }

/-- The device is in the next deeper state (R510). -/
def deepen (s : State) : State :=
  match s.power.st with
  | 0 => (upTo 64).foldl (fun s b => s.updBlock b (fun x => { x with gated := true })) (enterState s 1)
  | 1 =>
    let s := ((s.ports.filter (fun p => portUp p.2)).map Prod.fst).foldl (fun s p => portDown s p .down) s
    let s := enterState s 2
    (upTo 7).foldl askDeep { s with power := { s.power with laserIdle := true } }
  | 2 => enterState (loseWork s) 3
  | _ =>
    let s := enterState s 4
    { s with power := { s.power with stopped := [0, 1, 2, 3] } }

/-- An exit begins (R513): out of S2 the optical engines open and the board links leave the deep state (R417). -/
def beginExit (s : State) : State :=
  let ls := (upTo 7).filter (fun l => !(s.link l).deep)
  let two := s.power.st == 2
  let s := { s with power := { s.power with transit := .exit s.now, laserIdle := s.power.laserIdle && !two } }
  if two then
    ls.foldl (fun s l =>
      if (s.link l).st = .deep then startTraining s l true
      else s.updLink l (fun x => { x with deepSince := none, deepSent := false, deepRcvd := false, deepRetry := none })) s
  else s

/-- The sequence has reached its goal: it ends, the requests are resolved anew, or the exit for the state reached follows
(R508, R522). -/
def endEntry (s : State) : State :=
  match s.power.transit with
  | .drain _ goal _ woken =>
    if s.power.st < goal then s
    else
      let s := { s with power := { s.power with transit := .none } }
      if woken then beginExit s else evalTarget s
  | _ => s

/-- The sequence stops where it is: S3 is not allowed now (R508, R518). -/
def stopEntry (s : State) : State :=
  match s.power.transit with
  | .drain t _ e w => endEntry { s with power := { s.power with transit := .drain t s.power.st e w } }
  | _ => s

/-- STATE_ENTRY (R508 to R510, R518): the sequence begins, or takes its next step. -/
def execStateEntry (s : State) : Res :=
  .next (
    if s.boot.st ≠ 5 ∨ s.power.fenced = true then s
    else
      match s.power.transit with
      | .exit _ => s
      | .none =>
        if s.power.st < entryGoal s then
          { s with power := { s.power with transit := .drain s.now (entryGoal s) false false } }
        else s
      | .drain _ goal egress woken =>
        if s.power.st = 0 then
          if !egress && !s.threads.isEmpty then s
          else if egressEmpty s then endEntry (deepen s)
          else if egress then s
          else { s with power := { s.power with transit := .drain s.now goal true woken } }
        else if 2 ≤ s.power.st ∧ (holdReason s ≠ 0 ∨ s.power.wakeLow = true) then stopEntry s
        else endEntry (deepen s))

/-- EGRESS_DRAIN_EXPIRY (R510 step 3): 1 ms of egress drain is over; what is still queued is dropped. -/
def execEgressDrainExpiry (s : State) : Res :=
  .next (match s.power.transit with
    | .drain since _ true _ =>
      if s.power.st = 0 ∧ s.power.fenced = false ∧ since + milli ≤ s.now then
        endEntry (deepen ((s.ports.map Prod.fst).foldl dropQueued s))
      else s
    | _ => s)

/-! Exits and wake sources (R511 to R513, R518, R522). -/

/-- The time unit restarts under R311; its hardened settings come back from their master copies. -/
def restartTu (t : Tu) : Tu :=
  { t with views := {}, epoch := 0, inc := 0x020000000000, sinceInc := 0, slots := [], armed := none, toutUntil := [],
           locked := true, secCarry := false }

/-- S0 is reached (R513): from S3 and S4 the time unit restarts and the board links train cold; HBM is yet to be trained. -/
def finishExit (s : State) : State :=
  let deep := decide (3 ≤ s.power.st)
  let s := enterState s 0
  let s := { s with power := { s.power with transit := .none, laserIdle := false, stopped := [] },
                    ports := Tbl.mapVals s.ports (fun _ x => if portUp x then x else { x with physSince := s.now }) }
  let s :=
    if deep then
      let s := { s with tu := restartTu s.tu,
                        place := { s.place with lost := s.place.lost.filter Lost.unrecoverable } }
      (upTo 7).foldl (fun s l => if (s.link l).enable then startTraining s l false else s) s
    else s
  evalTarget s

/-- STATE_EXIT (R511, R513): a shallower effective target begins the exit; an exit under way reaches S0. -/
def execStateExit (s : State) : Res :=
  .next (
    if s.power.fenced then s
    else
      match s.power.transit with
      | .none =>
        if s.power.targetEff < s.power.st ∧ s.power.st ≤ 2 then
          beginExit { s with power := { s.power with wakeSrc := 1 } }
        else s
      | .exit _ => finishExit s
      | .drain .. => s)

/-- A wake source other than a host request (R512, R522): every PF's TARGET is S0; an entry completes its current step
first. -/
def wakeUp (s : State) (src pat : Nat) : State :=
  let s := pfs.foldl (fun s f => s.updFn f (fun x => { x with pwrTarget := 0 })) s
  let p := { s.power with wakeSrc := src, wakePat := pat, targetEff := 0 }
  match p.transit with
  | .none => beginExit { s with power := p }
  | .drain t goal e _ => { s with power := { p with transit := .drain t (min goal (p.st + 1)) e true } }
  | .exit _ => s

/-- The device leaves a state, or is on its way into one. -/
def mayWake (s : State) : Bool :=
  match s.power.transit with
  | .none => decide (1 ≤ s.power.st)
  | .drain .. => true
  | .exit _ => false

/-- WAKE_N (R511, R518, R522): low on 10 samples. In the lantern clock of a wake pattern, WAKE_N is recorded. -/
def execWakeN (s : State) : Res :=
  .next (
    let s := { s with power := { s.power with wakeLow := true } }
    if s.power.fenced then s
    else
      match s.power.transit with
      | .exit t =>
        if s.power.wakeSrc = 3 ∧ t / 1000000 = s.now / 1000000 then { s with power := { s.power with wakeSrc := 2, wakePat := 0 } }
        else s
      | _ => if mayWake s && (s.power.st == 4 || bit s.power.wakeEff 0) then wakeUp s 2 0 else s)

/-- WAKE_N_HIGH (R518): nothing holds S3 and S4 back any more on its account. -/
def execWakeNHigh (s : State) : Res := .next { s with power := { s.power with wakeLow := false } }

/-- A wake pattern record matches a frame, FCS included (R371). -/
def wakeMatch (r : WakeRec) (mg : Nat) (f : Bytes) : Bool :=
  let sel := (upTo 128).filter (fun i => bit r.mask i)
  r.en && bit r.ports mg && sel.all (fun i => decide (r.offset + i + 4 < f.length)) &&
    (crc32 (sel.map (fun i => f.getD (r.offset + i) 0))).toNat == r.check

/-- WAKE_PATTERN_MATCH (R371, R511): a good frame on a management port in S3 that some enabled record matches. -/
def execWakePatternMatch (mg : Nat) (frame : Bytes) (s : State) : Res :=
  onObj s (okMgmt mg)
    (if s.power.fenced || s.power.st ≠ 3 || !mayWake s || !bit s.power.wakeEff 1 || frame.length < 64 || !fcsOk frame then s
     else
       match List.find? (fun (p : Nat × WakeRec) => wakeMatch p.2 mg frame) s.dev.wake with
       | some p => wakeUp s 3 p.1
       | none => s)

/-- PCIE_WAKE (R511): PERST_N asserted and released, or electrical-idle exit on a host port, in S3. -/
def execPcieWake (hostPort : Nat) (s : State) : Res :=
  onObj s (decide (hostPort < 4))
    (if s.power.fenced || s.power.st ≠ 3 || !mayWake s || !bit s.power.wakeEff 2 then s else wakeUp s 4 0)

/-- PWR_REQ_WRITE (R508, R516, R543): a PF's own request. -/
def execPwrReqWrite (fn value : Nat) (s : State) : Res :=
  onObj s (okFn fn)
    (if !s.live || !isPf fn then s
     else requestState (s.rewritten (.reg fn 0x2000)) fn (value % 8) (bitsOf value 10 8))

/-! Supply and faults (R496 to R503). -/

/-- A power fence (R301, R503): the converters of `off` stop at once, the others 1 ms later. -/
def powerFence (s : State) (sub unitKind unit : Nat) (off : List Nat) : State :=
  let s := fenceDevice s 3 sub unitKind unit
  let p := s.power
  let all := off.length == 4
  { s with power := { p with stopped := if all then off else (p.stopped ++ off).eraseDups,
                             stopAt := if all then none else if p.stopped.length = 4 then p.stopAt else some (s.now + milli) } }

/-- VIN_UV (R496, R500, R503): VIN below UV_OFF for 10 µs; the converters stop and the dump loads engage. -/
def execVinUv (s : State) : Res :=
  .next (
    if !s.power.powered then s
    else
      let s := powerFence s 1 0 0 [0, 1, 2, 3]
      { s with power := { s.power with powered := false, dumping := true, stInput := s.power.stInput ||| 0x10 } })

/-- VIN_OV (R496, R503): VIN above OV for 10 µs; the converters stop switching. -/
def execVinOv (s : State) : Res :=
  .next (
    if !s.power.powered then s
    else
      let s := powerFence s 2 0 0 [0, 1, 2, 3]
      { s with power := { s.power with powered := false, stInput := s.power.stInput ||| 0x80 } })

/-- TILE_FAULT (R503): overcurrent, over-temperature or a core rail outside ±10% for 10 µs on a power tile. -/
def execTileFault (tile : Nat) (s : State) : Res :=
  onObj s (decide (tile < 4)) (if s.power.powered then powerFence s 3 5 tile [tile] else s)

/-- OVER_TEMP (R503): a die junction at T_SHUT; the die by its kind and number (R521). -/
def execOverTemp (kind die : Nat) (s : State) : Res :=
  onObj s (decide (1 ≤ kind) && decide (kind < 7) && decide (die < 32))
    (if !s.power.powered then s
     else
       let s := powerFence s 4 kind die []
       { s with power := { s.power with stTemp := s.power.stTemp ||| 0x80 } })

/-- What a reset of the whole device does not touch, the model's own: time, free values, what has left, what waits. -/
def keepModel (s t : State) : State :=
  { t with now := s.now, freeCount := s.freeCount, outs := s.outs, pending := s.pending }

/-- KEEPALIVE_LOSS (R477, R496, R500): the lantern island loses power: a power cycle, with no supply until VIN is applied; the dump
loads, which bias themselves from VIN, draw on. -/
def execKeepaliveLoss (s : State) : Res :=
  .next (
    let t := keepModel s State.reset
    { t with power := { t.power with powered := false, dumping := true } })

/-- VIN_APPLIED (R498, R521): VIN has passed UV_ON and the four 6 V rails are in regulation. -/
def execVinApplied (s : State) : Res :=
  .next (
    if s.power.powered then s
    else
      { s with power := { s.power with powered := true, dumping := false, vinOn := s.now,
                                       stopped := if s.power.fenced then s.power.stopped else [] } })

/-! Telemetry and the governor's throttle (R506, R519 to R521). -/

/-- PMAX of the profile, in milliwatts (R506). -/
def pmax (profile : Nat) : Int := match profile with | 0 => 2900000 | 1 => 2600000 | 2 => 2400000 | _ => 2200000

/-- THROTTLE after a sample (R506). -/
def throttleStep (s : State) (x : Sample) : State :=
  let m := pmax s.boot.profile
  if m < x.pin || 100000 ≤ x.tDie then
    if s.power.throttle then s
    else { s with power := { s.power with throttle := true, stThrottle := true, throttleAt := s.now } }
  else if s.power.throttle && decide (x.pin < m - 100000) && decide (x.tDie < 95000) then
    let s := settlePower s
    { s with power := { s.power with throttle := false } }
  else s

/-- TELEMETRY_SAMPLE (R506, R520): every 100 µs in S0 to S2; in S3 and S4 only VIN is sampled, each 1 ms. -/
def execTelemetrySample (sample : Sample) (s : State) : Res :=
  .next (
    let p := s.power
    let warn := (if 60000 < sample.vin then 0x40 else 0) ||| (if sample.vin < 40000 then 0x20 else 0)
    let p := { p with vins := (sample.vin :: p.vins).take 10, stInput := p.stInput ||| warn }
    if 3 ≤ p.st || !p.powered || p.fenced then { s with power := p }
    else
      let p := { p with samples := (sample :: p.samples).take 10,
                        stTemp := p.stTemp ||| (if 100000 ≤ sample.tDie then 0x40 else 0) }
      throttleStep { s with power := p } sample)

/-- Mean of some readings in thousandths. -/
def mean (l : List Int) : Int := if l.isEmpty then 0 else l.foldl (· + ·) 0 / l.length
/-- A LINEAR11 word, low byte first (log 11). -/
def lin11 (v : Int) : Bytes := leBytes 2 (Config.linear11 v).toNat
/-- A block read: count byte and bytes. -/
def blockRead (b : Bytes) : Bytes := BitVec.ofNat 8 b.length :: b

/-- CLEAR_FAULTS (R502, R520): clears the bits whose conditions have ended; the fault record stays. -/
def execClearFaults (s : State) : Res :=
  .next (
    let p := s.power
    let v := p.vins.headD 0
    let none_ := p.vins.isEmpty
    let t := (p.samples.headD {}).tDie
    let keepIn := (if none_ then 0 else (if 62000 < v then 0x80 else 0) ||| (if 60000 < v then 0x40 else 0) |||
      (if v < 40000 then 0x20 else 0) ||| (if v < 37000 then 0x10 else 0))
    let keepT := (if 110000 ≤ t then 0x80 else 0) ||| (if 100000 ≤ t then 0x40 else 0)
    { s with power := { p with stInput := p.stInput &&& keepIn, stTemp := p.stTemp &&& keepT, cml := false, stThrottle := p.throttle } })

/-- STATUS_WORD (R520). -/
def execStatusWord (s : State) : Res := .next (s.emit (.pmbus (leBytes 2 (statusWord s))))
/-- STATUS_INPUT (R520). -/
def execStatusInput (s : State) : Res := .next (s.emit (.pmbus (leBytes 1 s.power.stInput)))
/-- STATUS_TEMPERATURE (R520). -/
def execStatusTemperature (s : State) : Res := .next (s.emit (.pmbus (leBytes 1 s.power.stTemp)))
/-- READ_VIN (R520): live in every state. -/
def execReadVin (s : State) : Res := .next (s.emit (.pmbus (lin11 (mean s.power.vins))))
/-- READ_IIN (R520). -/
def execReadIin (s : State) : Res := .next (s.emit (.pmbus (lin11 (mean (s.power.samples.map Sample.iin)))))
/-- READ_PIN (R520). -/
def execReadPin (s : State) : Res := .next (s.emit (.pmbus (lin11 (mean (s.power.samples.map Sample.pin)))))
/-- READ_TEMPERATURE_1 (R520). -/
def execReadTemperature1 (s : State) : Res := .next (s.emit (.pmbus (lin11 (mean (s.power.samples.map Sample.tDie)))))
/-- READ_TEMPERATURE_2 (R520). -/
def execReadTemperature2 (s : State) : Res := .next (s.emit (.pmbus (lin11 (mean (s.power.samples.map Sample.tTile)))))
/-- PMBUS_REVISION (R520). -/
def execPmbusRevision (s : State) : Res := .next (s.emit (.pmbus [0x33]))
/-- MFR_STATE (R520). -/
def execMfrState (s : State) : Res :=
  .next (s.emit (.pmbus (leBytes 1 (s.power.wakeSrc * 32 + b2n s.power.laserIdle * 16 + b2n (s.power.transit != .none) * 8 + s.power.st))))

/-- The fault record (R521). -/
def faultBytes (r : FaultRec) : Bytes :=
  leBytes 1 r.cause ++ leBytes 1 r.sub ++ leBytes 1 (r.unitKind * 32 + r.unit) ++ zeros 1 ++ lin11 r.vin ++ lin11 r.temp ++
    leBytes 4 r.sinceOn ++ leBytes 2 r.fences ++ zeros 2

/-- MFR_FAULT_RECORD (R521). -/
def execMfrFaultRecord (s : State) : Res := .next (s.emit (.pmbus (blockRead (faultBytes s.power.fault))))
/-- MFR_TILE_IIN (R520): the mean of the samples, for each tile. -/
def execMfrTileIin (s : State) : Res :=
  .next (s.emit (.pmbus (blockRead ((upTo 4).flatMap (fun i => lin11 (mean (s.power.samples.map (fun x => x.tiles.getD i 0))))))))
/-- MFR_SAMPLE (R520): the latest trigger sample and the sample count. -/
def execMfrSample (s : State) : Res :=
  let x := s.power.trig
  .next (s.emit (.pmbus (blockRead (lin11 x.vin ++ lin11 x.iin ++ lin11 x.pin ++ leBytes 2 s.power.trigCount))))

/-- The PMBus commands of R520. -/
def pmbusCodes : List Nat := [0x03, 0x79, 0x7C, 0x7D, 0x88, 0x89, 0x97, 0x8D, 0x8E, 0x98, 0xD0, 0xD1, 0xD2, 0xD3]

/-- PMBUS_UNSUPPORTED (R519): any other code is answered with NACK and sets CML. -/
def execPmbusUnsupported (code : Nat) (s : State) : Res :=
  onObj s (decide (code < 256) && !pmbusCodes.contains code)
    ({ s with power := { s.power with cml := true } }.emit .nack)

/-- HBM_TRAINED (R479 step 7, R513): the stacks are trained and zero; commands that waited for that complete. During boot every
block passes its first in-field test (log 136) and the firmware becomes READY (R479 step 8). -/
def execHbmTrained (s : State) : Res :=
  .next (
    if s.power.hbmTrained || s.power.fenced || s.power.st ≠ 0 || (s.boot.st ≠ 4 && s.boot.st ≠ 5) then s
    else
      let s := { s with power := { s.power with hbmTrained := true } }
      if s.boot.st = 4 then
        topUpStandby 9 ({ s with boot := { s.boot with st := 5 } }.count .testPass 0
          ((upTo 64).countP (fun b => !(s.block b).retired)))
      else
        (s.cmds.filter (fun p => p.2.waitHbm.isSome)).foldl (fun s p => match p.2.waitHbm with
          | some (a, b) => s.finish p.1 stOk 0 a b
          | none => s) s)

end Sys2Proof.Machine
end

