-- ==== Sys2Proof/Machine/Firmware.lean ====
section
/-! DEFINITION. Reset, boot, firmware images, staging and activation (chapter 15, R476 to R495, R551), and POWER_STATE, which an
activation holds back. -/

namespace Sys2Proof.Machine

/-! Images, certificates and the configuration block (R482 to R485). -/

/-- BOOT_ERR codes (R488). -/
def errFlashAbsent : Nat := 1
def errFormat : Nat := 2
def errKey : Nat := 3
def errCert : Nat := 4
def errSignature : Nat := 5
def errHash : Nat := 6
def errVersion : Nat := 7
def errDma : Nat := 8
def errStart : Nat := 9
def errStrap : Nat := 10

/-- ROOT_KEY is the key whose hash the boot ROM holds. -/
def rootKeyOk (b : Bytes) : Bool := sha384 (slice b 0x40 97) == Config.rootKeyHash.toNat

/-- The certificate of an image or configuration block is valid for an owner, with a flag set (R485). -/
def certOk (b : Bytes) (owner flag : Nat) : Bool :=
  let c := slice b 0xC0 256
  le c 0 4 == 0x54524355 && decide (le c 4 4 < 4) && bit (le c 4 4) flag && le c 8 8 != 0 && (owner == 0 || le c 8 8 == owner) &&
    allZero (slice c 0x71 0x2F) && ecdsaOk (slice b 0x40 97) (c.take 0xA0) (slice c 0xA0 96)

/-- The key that signs: ROOT_KEY, or the certificate's OWNER_KEY. -/
def signKey (b : Bytes) : Bytes := if byteAt b 6 = 0 then slice b 0x40 97 else slice b 0xD0 97

/-- Orders 2 to 4 of R483: 0, or the BOOT_ERR of the first check that fails. The signature lies at `at_`, over what precedes
it. -/
def keyChain (b : Bytes) (owner flag at_ : Nat) : Nat :=
  if !rootKeyOk b then errKey
  else if byteAt b 6 = 1 ∧ certOk b owner flag = false then errCert
  else if ecdsaOk (signKey b) (b.take at_) (slice b at_ 96) then 0 else errSignature

/-- Order 1 of R483. The image may be shorter than what was supplied with it (log 29). -/
def imageFormatOk (b : Bytes) : Bool :=
  decide (0x400 ≤ b.length) && le b 0 4 == 0x49574655 && le b 4 2 == 1 && decide (byteAt b 6 < 2) && byteAt b 7 == 0 &&
    le b 0xC 4 == 0x400 + le b 0x10 4 && decide (le b 0xC 4 ≤ 25165824) && le b 0x10 4 % 64 == 0 && decide (le b 0xC 4 ≤ b.length) &&
    allZero (slice b 0x18 0x28) && allZero (slice b 0xA1 0x1F) && (byteAt b 6 == 1 || allZero (slice b 0xC0 0x100)) &&
    allZero (slice b 0x1F0 0x1B0)

/-- The checks of R483 in their order: 0, or a BOOT_ERR code. -/
def imageCheck (b : Bytes) (minVersion owner : Nat) : Nat :=
  if !imageFormatOk b then errFormat
  else
    match keyChain b owner 0 0x3A0 with
    | 0 =>
      if sha384 (slice b 0x400 (le b 0x10 4)) ≠ beVal (slice b 0x1C0 48) then errHash
      else if le b 8 4 < minVersion then errVersion else 0
    | e => e

/-- What the device keeps of an image. -/
def firmwareOf (b : Bytes) : Firmware := { version := le b 8 4, jrnl := le b 0x14 2, jrnlMin := le b 0x16 2 }

/-- A configuration block that has its MAGIC passes orders 1 to 4 of R483 on its own fields (R484). -/
def configOk (b : Bytes) : Bool :=
  le b 4 2 == 1 && decide (byteAt b 6 < 2) && byteAt b 7 == 0 && decide (le b 0xC 4 < 4) && allZero (slice b 0x18 0x28) &&
    allZero (slice b 0xA1 0x1F) && (byteAt b 6 == 1 || allZero (slice b 0xC0 0x100)) && allZero (slice b 0x1C0 0xDE0) &&
    (byteAt b 6 == 0 || le b 0x10 8 == le b 0xC8 8) && keyChain b (le b 0x10 8) 1 0xFA0 == 0

/-- The configuration block as read at boot (R484): absent, valid or invalid. -/
def readConfig (x : Boot) (c : Option Bytes) : Boot :=
  let none_ := fun (cfg : Nat) => { x with cfg := cfg, minVersion := 0, ownerId := 0, hostPushEn := true, debugEn := false }
  match c with
  | none => none_ 0
  | some b0 =>
    let b := padTo 4096 (b0.take 4096)
    if le b 0 4 ≠ 0x42464355 then none_ 0
    else if configOk b then
      { x with cfg := 1, minVersion := le b 8 4, hostPushEn := bit (le b 0xC 4) 0, debugEn := bit (le b 0xC 4) 1,
               ownerId := le b 0x10 8 }
    else none_ 2

/-! Reset and boot (R476 to R481, R486, R487, R551). -/

/-- SYS_RESET (R477, R502, R551): everything goes but what the lantern island keeps. -/
def execSysReset (s : State) : Res :=
  .next (
    let t := keepModel s State.reset
    let p := s.power
    { t with power := { t.power with powered := p.powered, dumping := p.dumping, fault := p.fault, fences := p.fences, vinOn := p.vinOn,
                                     vins := p.vins, wakeLow := p.wakeLow, stInput := p.stInput, stTemp := p.stTemp, cml := p.cml,
                                     stThrottle := p.stThrottle, stopped := if p.powered then [] else p.stopped } })

/-- The boot halts: the fault record is written (R486, R502, R521). -/
def haltBoot (s : State) (err : Nat) : State :=
  latchFault { s with boot := { s.boot with st := 6, err := err } } 0x10 err 0 0 s.power.fences

/-- A boot that cannot go on by itself (R486): WAIT_PUSH where HOST_PUSH_EN allows it, else HALT. -/
def fallBack (s : State) (err : Nat) : State :=
  if s.boot.hostPushEn then
    { s with boot := { s.boot with st := 3, err := err, pushAny := s.boot.pushAny || s.boot.bootSrc == 0 } }
  else haltBoot s err

/-- EFFECTIVE_RELEASE (R311, R476, R479 step 1, R551): straps latched, PLLs lock, board links train, the boot ROM runs. -/
def execEffectiveRelease (bootSrc boardPos profile : Nat) (s : State) : Res :=
  onObj s (decide (bootSrc < 4) && decide (boardPos < 8) && decide (profile < 4))
    (if !s.power.powered || s.boot.released || s.power.fenced then s
     else
       let b := { s.boot with released := true, bootSrc := bootSrc, boardPos := boardPos, profile := profile, st := 1 }
       let s := ({ s with boot := b }).updTu (fun t => { t with locked := true })
       let s := (upTo 7).foldl (fun s l => startTraining s l false) s
       if bootSrc = 3 then haltBoot s errStrap else s)

/-- The firmware starts (R479 step 5). -/
def startFirmware (s : State) (b : Bytes) (source : Nat) : State :=
  let f := firmwareOf b
  let x := { s.boot with st := 4, source := source, fwVersion := f.version, running := f, startedAt := s.now, pushing := none }
  { s with boot := x, power := { s.power with hbmTrained := false } }

/-- BOOT_FLASH (R478, R479, R481, R483, R484, R486): the configuration block and the image as read from flash, none where the
flash does not answer. -/
def execBootFlash (config image : Option Bytes) (s : State) : Res :=
  .next (
    if s.boot.st ≠ 1 ∨ s.power.fenced = true then s
    else
      let s := { s with boot := readConfig s.boot config }
      if s.boot.bootSrc ≠ 0 then { s with boot := { s.boot with st := 3 } }
      else
        match config, image with
        | some _, some b =>
          match imageCheck b s.boot.minVersion s.boot.ownerId with
          | 0 => startFirmware s b 0
          | e => fallBack s e
        | _, _ => fallBack s errFlashAbsent)

/-- BOOT_START_TIMEOUT (R487): the firmware is not READY 1 s after its start. -/
def execBootStartTimeout (s : State) : Res :=
  .next (if s.boot.st = 4 ∧ s.boot.startedAt + second ≤ s.now then fallBack s errStart else s)

/-- The function may push an image (R476, R481, R489). -/
def mayPush (s : State) (fn : Nat) : Bool :=
  s.boot.st == 3 && !s.power.fenced && isPf fn && (s.boot.pushAny || s.boot.bootSrc == 2 || (s.boot.bootSrc == 1 && fn == 0))

/-- A push is armed; one armed while another is read is ignored and reads back BUSY (R481, R495). -/
def armPush (s : State) (fn value : Nat) : State :=
  if s.boot.pushing.isSome then s.updFn fn (fun x => { x with pushResult := 2 })
  else
    let s := { s with boot := { s.boot with pushLen := value % 2 ^ 32, pushing := some fn, pushPort := fn / 64 } }
    s.updFn fn (fun x => { x with pushResult := 1 })

/-- PUSH_LEN_WRITE (R481, R489). -/
def execPushLenWrite (fn value : Nat) (s : State) : Res :=
  onObj s (okFn fn) (if mayPush s fn then armPush s fn value else s)

/-- PUSH_IMAGE_DONE (R481, R483): the pushed image as read. -/
def execPushImageDone (image : Dma) (s : State) : Res :=
  .next (match s.boot.pushing with
    | none => s
    | some fn =>
      if s.boot.st ≠ 3 ∨ s.power.fenced = true then s
      else
        let fail := fun (e : Nat) =>
          ({ s with boot := { s.boot with pushing := none, err := e } }).updFn fn (fun x => { x with pushResult := 3 })
        match image with
        | .err _ => fail errDma
        | .data b0 =>
          let b := b0.take s.boot.pushLen
          match imageCheck b s.boot.minVersion s.boot.ownerId with
          | 0 => startFirmware s b 1
          | e => fail e)

/-! Staging and activating (R461, R491 to R493, R495). -/

/-- The PF whose activation is under way. -/
def activator (s : State) : Option Nat :=
  match s.boot.activating with
  | some (n, _) => (Tbl.find? s.cmds n).map Cmd.fn
  | none => none

/-- FW_STAGE (R461, R491). `image` is what the read at FW_ADDR gave. -/
def execFwStage (fn : Nat) (arg image : Dma) (s : State) : Res :=
  onObj s (okFn fn)
    (match takeArg s fn 0x0060 (isPf fn) (· == 16) arg with
     | .inl s => s
     | .inr (n, _, b) =>
       match firstBad ([(8, decide (le b 8 4 ≤ 25165824))] ++ rsvBytes b 12 16) with
       | some o => s.finish n stInvalidArg (argAt o)
       | none =>
         if (activator s).isSome && activator s != some fn then s.finish n stInUse 0
         else
           startOn s fn n .firmware (fun s =>
             match image with
             | .err st => s.finish n stDmaError st
             | .data d =>
               let d := d.take (le b 8 4)
               let f := firmwareOf d
               if imageCheck d s.boot.minVersion s.boot.ownerId ≠ 0 then s.finish n stSignature 0
               else if s.boot.running.jrnl < f.jrnlMin then s.finish n stState 0x0401
               else ({ s with boot := { s.boot with staged := some f, stagedBy := fn } }).finish n stOk 0 f.version))

/-- The requests that waited for the activation are applied (R495). -/
def applyPwrWait (s : State) : State :=
  let l := s.boot.pwrWait
  l.foldl (fun s (f, t, w, n) => (requestState s f t w).finish n stOk 0 s.power.st)
    { s with boot := { s.boot with pwrWait := [] } }

/-- An activation ends without effect (R492, R493). -/
def failActivation (s : State) (n code : Nat) : State :=
  applyPwrWait (({ s with boot := { s.boot with activating := none } }).finish n stState code)

/-- Each service restarts on a spare core, in the order of R490; the core it left is the next spare (R492 step 3, log 30). -/
def handOver (s : State) : Tbl Nat :=
  let idle := fun (t : Tbl Nat) (c : Nat) => !s.boot.deadCores.contains c && (upTo 14).all (fun v => Tbl.getD t v v != c)
  ((upTo 14).foldl (fun (a : Tbl Nat × Option Nat) v =>
    let was := Tbl.getD a.1 v v
    let next := match a.2 with
      | some c => if idle a.1 c then some c else (upTo 16).find? (idle a.1)
      | none => (upTo 16).find? (idle a.1)
    match next with
    | some c => (Tbl.put a.1 v c, some was)
    | none => a) (s.boot.cores, none)).1

/-- Steps 2 to 5 of R492, or the rollback of R493. -/
def activate (s : State) (n : Nat) (restarted : Bool) : State :=
  match s.boot.staged with
  | none => failActivation s n 0x0400
  | some f =>
    if !restarted then failActivation { s with boot := { s.boot with staged := none } } n 0x0403
    else
      let old := s.boot.fwVersion
      let b := { s.boot with running := f, staged := none, fwVersion := f.version, source := 2, cores := handOver s,
                             flash := if s.boot.bootSrc = 0 then 1 else s.boot.flash, activating := none }
      let s := ({ s with boot := b }).general pfs 0x0340 0 0 0 f.version old
      applyPwrWait (s.finish n stOk 0 f.version)

/-- No migration and no in-field test is under way (R492 step 1). -/
def placementQuiet (s : State) : Bool := s.place.migs.isEmpty && (upTo 64).all (fun b => !(s.block b).testing)

/-- FW_ACTIVATE (R461, R492, R493). It begins, and once placement is quiet hands over; `restarted` says whether every service
restarted within its watchdog. -/
def execFwActivate (fn : Nat) (restarted : Bool) (s : State) : Res :=
  onObj s (okFn fn)
    (if activator s = some fn then
       match s.boot.activating with
       | some (n, _) => if placementQuiet s && s.live then activate s n restarted else s
       | none => s
     else
       match takeArg s fn 0x0061 (isPf fn) (· == 0) (.data []) with
       | .inl s => s
       | .inr (n, _, _) =>
         if (activator s).isSome then s.finish n stInUse 0
         else
           startOn s fn n .firmware (fun s =>
             if s.boot.staged.isNone then s.finish n stState 0x0400
             else
               let s := { s with boot := { s.boot with activating := some (n, s.now) } }
               if placementQuiet s then activate s n restarted else s))

/-- ACTIVATE_MIGRATION_TIMEOUT (R492 step 1): placement is not quiet after 10 s. -/
def execActivateMigrationTimeout (s : State) : Res :=
  .next (match s.boot.activating with
    | some (n, t) => if placementQuiet s = false ∧ t + 10 * second ≤ s.now then failActivation s n 0x0402 else s
    | none => s)

/-- FLASH_PROGRAM_DONE (R488, R492 step 5). -/
def execFlashProgramDone (ok : Bool) (s : State) : Res :=
  .next (if s.boot.flash = 1 then { s with boot := { s.boot with flash := if ok then 2 else 3 } } else s)

/-- POWER_STATE (R461, R495, R508). -/
def execPowerState (fn : Nat) (arg : Dma) (s : State) : Res :=
  onObj s (okFn fn)
    (match takeArg s fn 0x0070 (isPf fn) (· == 16) arg with
     | .inl s => s
     | .inr (n, _, b) =>
       let t := byteAt b 0
       let w := byteAt b 1
       match firstBad ([(0, decide (t ≤ 4) || t == 0xFF), (1, decide (w < 8))] ++ rsvBytes b 2 16) with
       | some o => s.finish n stInvalidArg (argAt o)
       | none =>
         if t = 0xFF then s.finish n stOk 0 s.power.st
         else
           startOn s fn n .none (fun s =>
             if s.boot.activating.isSome then { s with boot := { s.boot with pwrWait := s.boot.pwrWait ++ [(fn, t, w, n)] } }
             else (requestState (s.rewritten (.reg fn 0x2000)) fn t w).finish n stOk 0 s.power.st))

end Sys2Proof.Machine
end

