-- ==== Sys2Proof/Machine/HostGroups.lean ====
section
/-! DEFINITION. Host commands on fold groups: GROUP_CREATE, GROUP_MEMBER, GROUP_DELETE, GROUP_DIGEST, GROUP_RELEASE (R170, R171,
R207, R212, R215, R243, R388, R459 to R461, R475, R564, R566). -/

namespace Sys2Proof.Machine

/-- A port field that names a port or sub-port the device has. -/
def portNamed (s : State) (v : Nat) : Bool := portFieldOk v && portExists s (portOf v)

/-! GROUP_CREATE (R459). -/

/-- The group an argument block describes. -/
def groupOf (fn : Nat) (b : Bytes) : Group :=
  let dflt := le b 0x16 2 == 0x8000 && le b 0x18 2 == 0x8000
  let root := byteAt b 6 == 0
  { owner := fn, gen := le b 2 2, inFmt := byteAt b 4, outFmt := if byteAt b 5 = 0 then byteAt b 4 else byteAt b 5,
    nelem := le b 8 8, root := root, nreplica := le b 0x10 4,
    window := if le b 0x14 2 = 0 then 64 else le b 0x14 2,
    expLo := if dflt then -149 else sext 16 (le b 0x16 2), expHi := if dflt then 127 else sext 16 (le b 0x18 2),
    tc := byteAt b 7,
    pmember := if root then 0 else le b 0x1A 2, parentPort := if root then 0 else portOf (le b 0x1C 2),
    parentUdp := if root then 0 else le b 0x1E 2, parentAddr := if root then 0 else be b 0x20 16,
    res := (upTo (le b 0x30 2)).foldl (fun (t : Tbl (Nat × Nat)) i =>
      let w := le b (0x40 + 8 * i) 8
      let p := portOf (w % 65536)
      let (x, y) := Tbl.getD t p (0, 0)
      Tbl.put t p (x + bitsOf w 31 16, y + bitsOf w 47 32)) [] }

/-- Fields of the argument block that are not legal (R170, R459). -/
def groupBad (s : State) (b : Bytes) : Option Nat :=
  let g := groupOf 0 b
  let inner := byteAt b 6 == 1
  firstBad ([(0, okCtx (le b 0 2)), (4, decide (0 < fmtCap g.inFmt)), (5, decide (0 < fmtCap g.outFmt) && decide (fmtCap g.inFmt ≤ fmtCap g.outFmt)),
    (6, decide (byteAt b 6 < 2)), (7, decide (byteAt b 7 < 8)), (8, decide (1 ≤ g.nelem) && decide (g.nelem ≤ 2 ^ 42)),
    (0x10, if inner then g.nreplica == 0 else decide (1 ≤ g.nreplica) && decide (g.nreplica ≤ 65536)),
    (0x14, decide (g.window ≤ 4096)), (0x16, decide (-149 ≤ g.expLo) && decide (g.expLo ≤ 127)),
    (0x18, decide (-149 ≤ g.expHi) && decide (g.expHi ≤ 127) && decide (g.expLo ≤ g.expHi)),
    (0x1A, !inner || decide (le b 0x1A 2 < 1024)), (0x1C, !inner || portNamed s (le b 0x1C 2)),
    (0x30, decide (le b 0x30 2 ≤ 1024))] ++ rsvBytes b 0x32 0x40 ++
    (upTo (le b 0x30 2)).map (fun i => (0x40 + 8 * i, portNamed s (le b (0x40 + 8 * i) 2) && le b (0x46 + 8 * i) 2 == 0)))

/-- Blocks of a die that may take a share of a group (R243). -/
def accCandidates (s : State) (gn die : Nat) (g : Group) (n : Nat) : List Nat :=
  (upTo 64).filter (fun b => b / 32 == die && inService s b && !(s.block b).standby && stakeAllows s true gn b &&
    decide (((List.filter (fun (p : Nat × Group) => (match p.2.nextAcc with | some (_, l) => l | none => p.2.accBlocks).contains b)
      s.groups).foldl (fun a p => a + ceilDiv (groupRate p.2) (naccOf p.2)) 0) + ceilDiv (groupRate g) n ≤ 6050880))

/-- Reservations of every group on a port: transmit and receive (R207). -/
def portReserved (s : State) (p : Nat) : Nat × Nat :=
  s.groups.foldl (fun a g => let r := Tbl.getD g.2.res p (0, 0); (a.1 + r.1, a.2 + r.2)) (0, 0)
/-- Accumulator slots that groups reserve (R207). -/
def slotsReserved (s : State) : Nat := s.groups.foldl (fun a g => a + g.2.window * fmtSlots g.2.inFmt) 0
/-- Held store that groups reserve on a base die stays within 48 MiB (R202). -/
def heldFits (s : State) : Bool :=
  [0, 1].all (fun d => decide (s.groups.foldl (fun a g => a + heldOnDie g.2 d) 0 ≤ 50331648))
/-- The shared-buffer pool keeps 16 MiB on each base die (R388). -/
def poolFits (s : State) : Bool := [0, 1].all (fun d => decide ((65536 : Int) ≤ poolCells s d))

/-- The lowest code of what the groups of the device exceed (R207, R564). -/
def groupShort (s : State) (gn : Nat) : Option Nat :=
  let g := (Tbl.find? s.groups gn).getD {}
  firstBad [(11, decide (slotsReserved s ≤ 7280 + 466033) && heldFits s),
    (13, g.res.all (fun p => let r := portReserved s p.1
      decide (r.1 * 10 ≤ portRate s p.1 * 9) && decide (r.2 * 10 ≤ portRate s p.1 * 9))),
    (17, poolFits s)]

/-- GROUP_CREATE on the accumulating blocks that placement chooses (R171, R243). On a group whose words nothing could restore it restores them (R276). -/
def execGroupCreate (fn : Nat) (arg : Dma) (place : GroupPlace) (s : State) : Res :=
  let blocks := place.blocks
  onObj s (okFn fn && decide (place.level < 4))
    (match takeArg s fn 0x0020 true (fun n => decide (64 ≤ n) && decide (n ≤ 16777216)) arg with
     | .inl s => s
     | .inr (n, c, b) =>
       if le b 0x30 2 ≤ 1024 ∧ c.argLen ≠ 64 + 8 * le b 0x30 2 then s.finish n stInvalidArg 0x18
       else
         match groupBad s b with
         | some o => s.finish n stInvalidArg (argAt o)
         | none =>
           let gn := le b 0 2
           if (match Tbl.find? s.groups gn with | some g => g.owner != fn | none => false) then s.finish n stNotFound 0
           else
             let old := s
             startOn s fn n (.group gn) (fun s =>
               match Tbl.find? s.groups gn with
               | some g =>
                 if s.place.lost.any (fun l => l.obj == .group gn && l.unrecoverable) then (s.rewritten (.group gn)).finish n stOk 0
                 else s.finish n stState (0x0200 + g.st)
               | none =>
                 let g := groupOf fn b
                 let g := { g with level := if g.root then 0 else place.level + 1 }
                 let k := naccOf g
                 let k0 := ceilDiv k 2
                 let c0 := accCandidates s gn 0 g k
                 let c1 := accCandidates s gn 1 g k
                 if 3 < g.level then s.finish n stResource 18
                 else if c0.length < k0 ∨ c1.length < k - k0 then s.finish n stResource 10
                 else
                   let b0 := blocks.filter (fun x => decide (x < 32))
                   if blocks.length ≠ k ∨ blocks.eraseDups.length ≠ k ∨ b0.length ≠ k0 ∨
                      blocks.all (fun x => c0.contains x || c1.contains x) = false then old
                   else
                     let s' := { s with groups := Tbl.put s.groups gn { g with accBlocks := blocks } }
                     match groupShort s' gn with
                     | some code => s.finish n stResource code
                     | none => finishHbm s' n 0 0))

/-! GROUP_MEMBER (R460). -/

/-- E for a change of members (R210, R460): before the device has taken any contribution, its first step. -/
def memberStart (g : Group) : Nat :=
  if g.newest.isNone && g.blocks.isEmpty && g.oldest == 0 then 0 else g.effective

/-- One entry: operation, number and member, with its offset. -/
def memberEntry (b : Bytes) (i : Nat) : Nat × Bool × Nat × Member :=
  let o := 8 + 32 * i
  (o, byteAt b o == 0, le b (o + 2) 2,
   { child := byteAt b (o + 1) == 1, port := portOf (le b (o + 4) 2), udp := le b (o + 6) 2, replica := le b (o + 8) 2,
     addr := be b (o + 0x10) 16 })

/-- Fields of the argument block that are not legal. -/
def memberBad (s : State) (b : Bytes) (count : Nat) : Option Nat :=
  firstBad ([(0, okCtx (le b 0 2)), (2, decide (1 ≤ count) && decide (count ≤ 1024))] ++ rsvBytes b 4 8 ++
    (upTo count).flatMap (fun i =>
      let o := 8 + 32 * i
      [(o, decide (byteAt b o < 2)), (o + 1, decide (byteAt b (o + 1) < 2)), (o + 2, decide (le b (o + 2) 2 < 1024)),
       (o + 4, portNamed s (le b (o + 4) 2)), (o + 8, byteAt b (o + 1) != 1 || le b (o + 8) 2 == 0)] ++ rsvBytes b (o + 0x0A) (o + 0x10)))

/-- Applies the entries in order from step `e`: the members, or the offset of an entry that cannot apply. -/
def applyMembers (e : Nat) : List (Nat × Bool × Nat × Member) → Tbl Member → Nat ⊕ Tbl Member
  | [], t => .inr t
  | (o, add, k, m) :: l, t =>
    match add, Tbl.find? t k with
    | true, none => applyMembers e l (Tbl.put t k { m with fromStep := e })
    | false, some x =>
      if x.untilStep.isSome then .inl (o + 2) else applyMembers e l (Tbl.put t k { x with untilStep := some e })
    | _, _ => .inl (o + 2)

/-- Members that stay. -/
def lasting (t : Tbl Member) : Nat := (List.filter (fun (p : Nat × Member) => p.2.untilStep.isNone) t).length

/-- GROUP_MEMBER: it completes when its step has come (R475). -/
def execGroupMember (fn : Nat) (arg : Dma) (s : State) : Res :=
  onObj s (okFn fn)
    (match takeArg s fn 0x0021 true (fun n => decide (8 ≤ n) && decide (n ≤ 16777216)) arg with
     | .inl s => s
     | .inr (n, c, b) =>
       let count := le b 2 2
       if 1 ≤ count ∧ count ≤ 1024 ∧ c.argLen ≠ 8 + 32 * count then s.finish n stInvalidArg 0x18
       else
         match memberBad s b count with
         | some o => s.finish n stInvalidArg (argAt o)
         | none =>
           let gn := le b 0 2
           match Tbl.find? s.groups gn with
           | none => s.finish n stNotFound 0
           | some g =>
             if g.owner ≠ fn then s.finish n stNotFound 0
             else
               startOn s fn n (.group gn) (fun s =>
                 if g.st = 3 then s.finish n stState 0x0203
                 else
                   let e := memberStart g
                   match applyMembers e ((upTo count).map (memberEntry b)) g.members with
                   | .inl o => s.finish n stInvalidArg (argAt o)
                   | .inr t =>
                     let s' := s.updGroup gn (fun x => { x with members := t, memberCmd := some (n, e) })
                     if !heldFits s' then s.finish n stResource 11
                     else if !poolFits s' then s.finish n stResource 17
                     else if 2 < g.level ∧ t.any (fun p => p.2.child && p.2.untilStep.isNone) = true then s.finish n stResource 18
                     else if 1024 < lasting t ∨ 65536 < s'.groups.foldl (fun a p => a + p.2.members.length) 0 then s.finish n stResource 18
                     else memberStep (s'.rewritten (.group gn)) gn))

/-! GROUP_DELETE (R215). -/

/-- A queued fold frame is a RESULT or a PARTIAL. -/
def bodyFrame (f : TxFrame) : Bool :=
  let o := if be f.bytes 12 2 = 0x0800 ∨ be f.bytes 12 2 = 0x86DD then 14 else 18
  let h := if byteAt f.bytes o / 16 = 4 then 20 else 40
  let t := fTy (f.bytes.drop (o + h + 8))
  t == 2 || t == 3

/-- A packet that waits for its link is a MSG with a RESULT or PARTIAL of a group. -/
def bodyMsg (gn : Nat) (p : Bytes) : Bool :=
  let b := p.drop 16
  pkTy p == 8 && fGroup b == gn && (fTy b == 2 || fTy b == 3)

/-- A group is deleted: its neighbours are told, no further RESULT or PARTIAL of it starts, and all it held is free. -/
def deleteGroup (s : State) (gn : Nat) : State :=
  match Tbl.find? s.groups gn with
  | none => s
  | some g =>
    let s := { s with ports := Tbl.mapVals s.ports (fun _ x =>
      { x with groupQ := match Tbl.find? x.groupQ gn with
                         | some l => Tbl.put x.groupQ gn (l.filter (fun f => !bodyFrame f))
                         | none => x.groupQ }),
                      links := Tbl.mapVals s.links (fun _ l => { l with waiting := l.waiting.filter (fun p => !bodyMsg gn p) }) }
    let step := g.stepAt g.oldest
    let s := noticeUp (noticeAll s gn g false 9 0 step) gn g 9 0 step 0 0
    let s := { s with groups := Tbl.del s.groups gn,
                      place := { s.place with stakes := Tbl.del s.place.stakes (stakeKey true gn) } }
    spillPressure (spillPressure (s.forget (.group gn)) 0) 1

/-- Takes a command with a GROUP block and the group it names, which the function owns. -/
def withGroupArg (s : State) (fn op : Nat) (lenOk : Nat → Bool) (arg : Dma) (bad : Cmd → Bytes → Option Nat)
    (k : Nat → Nat → Group → Bytes → State) : State :=
  match takeArg s fn op true lenOk arg with
  | .inl s => s
  | .inr (n, c, b) =>
    match bad c b with
    | some d => s.finish n stInvalidArg d
    | none =>
      match Tbl.find? s.groups (le b 0 2) with
      | none => s.finish n stNotFound 0
      | some g => if g.owner ≠ fn then s.finish n stNotFound 0 else k n (le b 0 2) g b

/-- GROUP_DELETE (R215, R461, R475): a waiting change of members is abandoned. -/
def execGroupDelete (fn : Nat) (arg : Dma) (s : State) : Res :=
  onObj s (okFn fn)
    (withGroupArg s fn 0x0022 (· == 16) arg (fun _ b => (firstBad ((0, okCtx (le b 0 2)) :: rsvBytes b 2 16)).map argAt) (fun n gn g _ =>
      let s := match g.memberCmd with | some (c, _) => s.finish c stState 0x02FF | none => s
      startOn s fn n (.group gn) (fun s => (deleteGroup s gn).finish n stOk 0)))

/-- GROUP_DIGEST (R21, R209, R461): K 0 turns the referee off. While a step is open the change waits for its boundary. -/
def execGroupDigest (fn : Nat) (arg : Dma) (s : State) : Res :=
  onObj s (okFn fn)
    (withGroupArg s fn 0x0023 (· == 16) arg
      (fun _ b => (firstBad ([(0, okCtx (le b 0 2)), (4, decide (1 ≤ byteAt b 4) && decide (byteAt b 4 ≤ 64))] ++ rsvBytes b 5 8 ++
        [(8, decide (1 ≤ le b 8 4) && decide (le b 8 4 ≤ 60000))] ++ rsvBytes b 12 16)).map argAt)
      (fun n gn _ b =>
        startOn s fn n (.group gn) (fun s =>
          (s.updGroup gn (fun x =>
            if x.blocks.isEmpty && x.blockAt x.oldest == 0 then
              { x with k := le b 2 2, digestLen := byteAt b 4, digestWait := le b 8 4,
                       digests := if le b 2 2 = 0 then [] else x.digests }
            else { x with nextDigest := some (le b 2 2, byteAt b 4, le b 8 4) })).finish n stOk 0)))

/-- Bytes of a GROUP_RELEASE block. -/
def releaseLen (n : Nat) : Nat := ceilDiv (8 + 2 * n) 8 * 8

/-- GROUP_RELEASE (R212, R216, R254, R461): the hold ends; replicas named, and those whose expulsion waited, are expelled from E.
A group held for want of another path starts again under its GEN (R214). -/
def execGroupRelease (fn : Nat) (arg : Dma) (s : State) : Res :=
  onObj s (okFn fn)
    (withGroupArg s fn 0x0024 (fun n => decide (8 ≤ n) && decide (n ≤ 16777216)) arg
      (fun c b =>
        let k := le b 2 2
        if k ≤ 1024 ∧ c.argLen ≠ releaseLen k then some 0x18
        else (firstBad ([(0, okCtx (le b 0 2)), (2, decide (k ≤ 1024))] ++ rsvBytes b 4 8 ++ rsvBytes b (8 + 2 * k) (releaseLen k))).map argAt)
      (fun n gn _ b =>
        startOn s fn n (.group gn) (fun s =>
          match Tbl.find? s.groups gn with
          | none => s
          | some g =>
            if g.st ≠ 2 then s.finish n stState (0x0200 + g.st)
            else
              let e := g.holdStep
              let rs := ((upTo (le b 2 2)).map (fun i => le b (8 + 2 * i) 2) ++ g.waitExpel).eraseDups
              let s := rs.foldl (fun s r => expelReplica s gn r e) (s.updGroup gn (fun x => { x with waitExpel := [] }))
              let s := if g.cause = 2 then restartGroup s gn g.gen (g.stepAt g.oldest) else s
              (releaseHold s gn e).finish n stOk 0 e)))

end Sys2Proof.Machine
end

