-- ==== Sys2Proof/Machine/Registers.lean ====
section
/-! DEFINITION. The register window (chapter 17): what a read of each word returns and what a write of each word does, for an
access by a function through its BAR0 or through the local map (R480, R524 to R545). -/

namespace Sys2Proof.Machine

/-- The low and the high word of a value of 64 bits. -/
def loWord (v : Nat) : Nat := v % 2 ^ 32
def hiWord (v : Nat) : Nat := v / 2 ^ 32 % 2 ^ 32
/-- A value of 64 bits with one word replaced. -/
def putLo (x v : Nat) : Nat := x / 2 ^ 32 * 2 ^ 32 + v % 2 ^ 32
def putHi (x v : Nat) : Nat := v % 2 ^ 32 * 2 ^ 32 + x % 2 ^ 32

/-! Placement settings (R536, R537, R543). -/

/-- A write to the region is refused. -/
def setRefused (s : State) : State := { s with place := { s.place with setRefused := true } }

/-- The settings of the region have lost a word: writes to it are refused (R543). -/
def placeLost (s : State) : Bool := lostReg s 0x4000 || lostReg s 0x4004 || lostReg s 0x4008

/-- A PF writes a setting of the region in running service. -/
def placeWrite (s : State) (fn : Nat) (k : State → State) : State :=
  if !s.live || !isPf fn then s else if placeLost s then setRefused s else k s

/-- The held granules of both base dies fit a query hold. -/
def holdFits (s : State) (mib : Nat) : Bool := [0, 1].all (fun d => decide (holdUsed s d ≤ mib * 16384))

/-- QHOLD (R537): raised at once if each pool stays at 16 MiB; lowered once the held granules fit. -/
def writeQhold (s : State) (v : Nat) : State :=
  if v < 8 || 48 < v then setRefused s
  else if s.place.qholdNow ≤ v then
    let t := { s with place := { s.place with qhold := v, qholdNow := v, qholdPending := false } }
    if v = s.place.qholdNow ∨ poolFits t = true then t else setRefused s
  else if holdFits s v then { s with place := { s.place with qhold := v, qholdNow := v, qholdPending := false } }
  else { s with place := { s.place with qhold := v, qholdPending := true } }

/-- STANDBY (R537): surplus standby blocks become free; wanted ones are taken from the free blocks. -/
def writeStandby (s : State) (v : Nat) : State :=
  if 8 < v then setRefused s
  else topUpStandby 9 (trimStandby 64 { s with place := { s.place with standby := v } })

/-- TEST_INTERVAL (R292, R537). -/
def writeInterval (s : State) (v : Nat) : State :=
  if v < 10 || 86400 < v then setRefused s else { s with place := { s.place with testInterval := v } }

/-- TEST_DEFER (R293, R537). -/
def writeDefer (s : State) (v : Nat) : State :=
  if v < 10 || 60000 < v then setRefused s else { s with place := { s.place with testDefer := v } }

/-- QHOLD_WRITE (R537). -/
def execQholdWrite (fn value : Nat) (s : State) : Res :=
  onObj s (okFn fn) (placeWrite s fn (fun s => writeQhold s (value % 64)))

/-- QHOLD_SHRINK_DONE (R537): the held granules fit the new size. -/
def execQholdShrinkDone (s : State) : Res :=
  .next (if s.place.qholdPending && holdFits s s.place.qhold then
      { s with place := { s.place with qholdNow := s.place.qhold, qholdPending := false } }
    else s)

/-- STANDBY_WRITE (R244, R537). -/
def execStandbyWrite (fn value : Nat) (s : State) : Res :=
  onObj s (okFn fn) (placeWrite s fn (fun s => writeStandby s (value % 16)))

/-- TEST_INTERVAL_WRITE (R537). -/
def execTestIntervalWrite (fn value : Nat) (s : State) : Res :=
  onObj s (okFn fn) (placeWrite s fn (fun s => writeInterval s (value % 2 ^ 17)))

/-- TEST_DEFER_WRITE (R537). -/
def execTestDeferWrite (fn value : Nat) (s : State) : Res :=
  onObj s (okFn fn) (placeWrite s fn (fun s => writeDefer s (value % 65536)))

/-- BLOCK_LIVE_LATCH (R528): a read of the low word latches all 64 bits for the reader. -/
def execBlockLiveLatch (fn : Nat) (s : State) : Res :=
  onObj s (okFn fn)
    (if s.boot.st ≠ 5 then s.emit (.bar fn (zeros 4))
     else
       let v := blockLive s
       (s.updFn fn (fun x => { x with liveLatch := v })).emit (.bar fn (leBytes 4 v)))

/-! Writes of whole words. -/

/-- The boot region (R481, R489). -/
def writeBoot (s : State) (fn o v : Nat) : State :=
  if !mayPush s fn then s
  else
    match o with
    | 0x08 => { s with boot := { s.boot with pushAddr := putLo s.boot.pushAddr v } }
    | 0x0C => { s with boot := { s.boot with pushAddr := putHi s.boot.pushAddr v } }
    | 0x10 => armPush s fn v
    | _ => s

/-- The time unit's registers, by their offset in its region (R320 to R327). -/
def tuRegs : List Nat :=
  [0x00, 0x04, 0x08, 0x0C, 0x10, 0x14, 0x20, 0x24, 0x28, 0x30, 0x40, 0x44, 0x48, 0x4C, 0x50, 0x54, 0x58, 0x5C]

/-- The time-unit region (R319 to R327, R539, R543). -/
def writeTu (s : State) (fn o v : Nat) : State :=
  if !tuRegs.contains o then s
  else if !tuWriter s fn then s.updTu (fun t => { t with writeDenied := true })
  else
    match o with
    | 0x00 => s.updTu (fun t => { t with owner := v % 4 })
    | 0x04 =>
      (s.rewritten (.reg fn 0x3004)).updTu (fun t =>
        { t with pin := v % 65536, toutUntil := List.filter (fun (p : Nat × List (Nat × Nat)) => bit v p.1) t.toutUntil })
    | 0x08 => (s.rewritten (.reg fn 0x3008)).updTu (fun t => { t with hoMs := v % 2 ^ 20 })
    | 0x0C => s.updTu (fun t => tuStatusClear t v)
    | 0x10 => s.updTu (fun t => { t with incLow := v })
    | 0x14 => incWrite s fn v
    | 0x20 => s.updTu (fun t => { t with stepLow := v })
    | 0x24 => s.updTu (fun t => { t with stepMid := v })
    | 0x28 => stepWrite s fn v
    | _ => s

/-- The placement settings region (R536). -/
def writePlace (s : State) (fn o v : Nat) : State :=
  match o with
  | 0x00 => placeWrite s fn (fun s => writeStandby (writeQhold s (bitsOf v 21 16)) (bitsOf v 3 0))
  | 0x04 => placeWrite s fn (fun s => writeInterval s (bitsOf v 16 0))
  | 0x08 => placeWrite s fn (fun s => writeDefer s (bitsOf v 15 0))
  | 0x0C => if bit v 0 then { s with place := { s.place with setRefused := false } } else s
  | _ => s

/-- The function region (R529). -/
def writeFn (s : State) (fn o v : Nat) : State :=
  match o with
  | 0x00 => (s.rewritten (.reg fn 0x5000)).updFn fn (fun x => { x with apertureHi := v % 65536 })
  | 0x04 => if bit v 8 then s.updFn fn (fun x => { x with ringStopped := false }) else s
  | _ => s

/-- A parameter word of a ring block (R531); a buffer's words exist in reply and receive rings only. -/
def ringWord (r o v : Nat) (g : Ring) : Ring :=
  match o with
  | 0x00 => { g with base := putLo g.base v }
  | 0x04 => { g with base := putHi g.base v }
  | 0x08 => { g with piAddr := putLo g.piAddr v }
  | 0x0C => { g with piAddr := putHi g.piAddr v }
  | 0x10 => { g with ciAddr := putLo g.ciAddr v }
  | 0x14 => { g with ciAddr := putHi g.ciAddr v }
  | 0x18 => if bufRing r then { g with bufBase := putLo g.bufBase v } else g
  | 0x1C => if bufRing r then { g with bufBase := putHi g.bufBase v } else g
  | 0x20 => { g with log2 := bitsOf v 4 0, stride := if bufRing r then bitsOf v 24 16 else g.stride }
  | 0x24 => { g with pollUs := bitsOf v 9 0 }
  | 0x28 => { g with modUs := bitsOf v 25 16, modCount := bitsOf v 15 7, vector := bitsOf v 5 0 }
  | _ => g

/-- A ring block (R531 to R533, R543). -/
def writeRing (s : State) (fn r o v : Nat) : State :=
  if !okRing fn r then s
  else if o = 0x2C then (if bit v 0 then enableRing s fn r else disableRing s fn r)
  else if o = 0x30 then (if bit v 1 then s.updRing fn r (fun g => { g with cfgErr := false }) else s)
  else if 0x2C < o ∨ ((s.fn fn).ring r).enable = true then s
  else (s.rewritten (.reg fn (0x8000 + 0x40 * r + o))).updRing fn r (ringWord r o v)

/-- A word of the MSI-X table (R534): clearing the mask of a pending vector sends its message. -/
def writeMsix (s : State) (fn e o v : Nat) : State :=
  if vectors fn ≤ e then s
  else
    let x := Tbl.getD (s.fn fn).msix e {}
    let y := match o with
      | 0x0 => { x with addr := putLo x.addr v }
      | 0x4 => { x with addr := putHi x.addr v }
      | 0x8 => { x with data := v % 2 ^ 32 }
      | _ => { x with ctrl := v % 2 }
    let s := s.updFn fn (fun f => { f with msix := Tbl.put f.msix e y })
    if bit (s.fn fn).msixPend e && !bit y.ctrl 0 then
      (s.updFn fn (fun f => { f with msixPend := setBits f.msixPend e e 0 })).signal fn e
    else s

/-- INJ_RATE (R422, R428): 0, or 10 to 40. -/
def rateOk (v : Nat) : Bool := v == 0 || (decide (10 ≤ v) && decide (v ≤ 40))

/-- Board-link diagnostics (R421 to R425). -/
def writeLinkDiag (s : State) (fn o v : Nat) : State :=
  let l := o / 0x400
  let q := o % 0x400
  let k := (q - 0x40) / 0x40
  if !okLink l then s
  else if q = 0 then
    s.updLink l (fun x => { x with miswire := x.miswire && !bit v 15, deepRefused := x.deepRefused && !bit v 6 })
  else if q < 0x40 ∨ 8 ≤ k then s
  else
    match q % 0x40 with
    | 0x00 =>
      let s := s.updBlLane l k (fun y =>
        { y with prbsSel := bitsOf v 5 4, injRate := if rateOk (bitsOf v 29 24) then bitsOf v 29 24 else y.injRate })
      injectBit (cntClear (testMode s fn (.board l k) (bitsOf v 2 0)) fn (.board l k) (bitsOf v 17 17)) fn (.board l k) (bitsOf v 16 16)
    | 0x04 => s.updBlLane l k (fun y => { y with testDenied := y.testDenied && !bit v 17, lost := y.lost && !bit v 16 })
    | _ => s

/-- Port-tile diagnostics (R428). -/
def writeTileDiag (s : State) (fn o v : Nat) : State :=
  let n := o / 0x2000
  let q := o % 0x2000
  let t := q / 0x40
  if q = 0x1000 then (if bit v 16 then { s with laserLow := s.laserLow.filter (· ≠ n) } else s)
  else if 64 ≤ t then s
  else
    match q % 0x40 with
    | 0x00 =>
      let s := s.updTileLane n t (fun y => { y with injRate := if rateOk (bitsOf v 29 24) then bitsOf v 29 24 else y.injRate })
      injectBit (cntClear (testMode s fn (.tile n t) (bitsOf v 1 0)) fn (.tile n t) (bitsOf v 17 17)) fn (.tile n t) (bitsOf v 16 16)
    | 0x04 => s.updTileLane n t (fun y => { y with testDenied := y.testDenied && !bit v 9, losSeen := y.losSeen && !bit v 8 })
    | _ => s

/-- A write of one word at an offset of a function's BAR0 (R9, R11, R480, R524, R525, R539). -/
def writeReg (s : State) (fn off v0 : Nat) : State :=
  let v := v0 % 2 ^ 32
  let pf := isPf fn
  if off % 4 ≠ 0 then s
  else if off / 0x1000 = 1 then (if pf then writeBoot s fn (off % 0x1000) v else s)
  else if !s.live then s
  else if off = 0x2000 then
    (if pf then requestState (s.rewritten (.reg fn 0x2000)) fn (v % 8) (bitsOf v 10 8) else s)
  else if off / 0x1000 = 3 then (if pf then writeTu s fn (off % 0x1000) v else s)
  else if off / 0x1000 = 4 then (if pf then writePlace s fn (off % 0x1000) v else s)
  else if off / 0x1000 = 5 then writeFn s fn (off % 0x1000) v
  else if off / 0x1000 = 8 then writeRing s fn (off % 0x1000 / 0x40) (off % 0x40) v
  else if off / 0x1000 = 0x10 then writeMsix s fn (off % 0x1000 / 16) (off % 16) v
  else if off / 0x2000 = 0x10 then (if pf then writeLinkDiag s fn (off % 0x2000) v else s)
  else if off / 0x20000 = 2 then (if pf then writeTileDiag s fn (off % 0x20000) v else s)
  else s

/-! The vote of hardened registers (R11, R313, R540, R541). -/

/-- A word with an RWH field that the function may write: APERTURE_HI, a ring block up to ENABLE, PWR_REQ, and in a PF the time
unit's and the placement settings (R320 to R324, R516, R529, R531, R536). -/
def hardened (s : State) (fn off : Nat) : Bool :=
  s.live &&
    (off == 0x5000 || (off / 0x1000 == 8 && okRing fn (off % 0x1000 / 0x40) && decide (off % 0x40 ≤ 0x2C)) ||
      (isPf fn && ([0x2000, 0x4000, 0x4004, 0x4008].contains off ||
        ([0x3000, 0x3004, 0x3008, 0x3010, 0x3014].contains off && tuWriter s fn))))
/-- The word votes in TCLK and not in KCLK (R535, R541). -/
def votesInTclk (off : Nat) : Bool := off / 0x1000 == 3
/-- Picoseconds from the arrival of a write to its effect: 4 KCLK and 3 KCLK of vote, or 4 KCLK, 3 TCLK and 3 TCLK of vote
(R313, R541; "Timing of writes, actions and stamps"). -/
def voteTime (off : Nat) : Nat := if votesInTclk off then 16000 else 7000

/-- A write of one word arrives (R540, R541): one of a hardened word takes effect after its vote, and no write overtakes an
earlier one of its function. -/
def acceptWrite (s : State) (fn off v : Nat) : State :=
  let mine := s.votes.filter (fun x => x.fn == fn)
  if hardened s fn off || !mine.isEmpty then
    let last := mine.foldl (fun a x => max a x.due) 0
    let t := if hardened s fn off then s.now + voteTime off else s.now
    { s with votes := s.votes ++ [⟨fn, off, v, max t last⟩] }
  else writeReg s fn off v

/-- The vote of a write is over; one in TCLK ends only while TCLK has edges (R33). -/
def Vote.isDone (s : State) (x : Vote) : Bool := decide (x.due ≤ s.now) && (!votesInTclk x.off || tclkRuns s)

/-- The writes whose votes are over take effect, in order of arrival (R540). -/
def applyVotes (s : State) : State :=
  (s.votes.filter (Vote.isDone s)).foldl (fun s x => writeReg s x.fn x.off x.value)
    { s with votes := s.votes.filter (fun x => !x.isDone s) }

/-- A read by a function waits for the votes of its own writes (R540): they take effect before it. -/
def flushVotes (s : State) (fn : Nat) : State :=
  (s.votes.filter (fun x => x.fn == fn)).foldl (fun s x => writeReg s x.fn x.off x.value)
    { s with votes := s.votes.filter (fun x => x.fn != fn) }

/-- REGISTER_WRITE (R9, R11, R525, R539, R541): a write of one word of BAR0 (log 10). -/
def execRegisterWrite (fn off value : Nat) (s : State) : Res :=
  onObj s (okFn fn && decide (off < (if fn % 64 = 0 then 0x100000 else 0x20000))) (acceptWrite s fn off value)

/-! Reads of whole words. -/

/-- The identity region (R528). PART and STEP are those of B0 (R2). -/
def readId (s : State) (fn o : Nat) : Nat :=
  match o with
  | 0x00 => 0x20481000
  | 0x04 => fn / 64 * 256 + fn % 64
  | 0x08 => s.boot.boardPos * 256 + s.boot.profile * 16 + s.boot.bootSrc
  | 0x10 => loWord (blockLive s)
  | 0x14 => hiWord (s.fn fn).liveLatch
  | 0x18 => linkUpBits s * 256 + s.place.stackLive
  | _ => 0

/-- The boot region (R488, R489). -/
def readBoot (s : State) (fn o : Nat) : Nat :=
  match o with
  | 0x00 => bootStatus s.boot
  | 0x04 => s.boot.fwVersion
  | 0x08 => loWord s.boot.pushAddr
  | 0x0C => hiWord s.boot.pushAddr
  | 0x10 => s.boot.pushLen
  | 0x14 => (s.fn fn).pushResult
  | _ => 0

/-- The time-unit region (R320 to R327). -/
def readTu (s : State) (fn o : Nat) : Nat :=
  match o with
  | 0x00 => s.tu.owner
  | 0x04 => s.tu.pin
  | 0x08 => s.tu.hoMs
  | 0x0C => tuStatus s.tu
  | 0x10 => loWord s.tu.inc
  | 0x14 => hiWord s.tu.inc
  | 0x30 => s.tu.capDrop
  | 0x40 => le (snapBytes s.tu) 0 4
  | _ => if 0x40 < o ∧ o < 0x60 then le (s.fn fn).snap (o - 0x40) 4 else 0

/-- The placement settings region (R536). -/
def readPlace (s : State) (o : Nat) : Nat :=
  match o with
  | 0x00 => s.place.qhold * 65536 + s.place.standby
  | 0x04 => s.place.testInterval
  | 0x08 => s.place.testDefer
  | 0x0C => placeStatus s
  | _ => 0

/-- A ring block (R531). -/
def readRing (s : State) (fn r o : Nat) : Nat :=
  let g := (s.fn fn).ring r
  if !okRing fn r then 0
  else
    match o with
    | 0x00 => loWord g.base
    | 0x04 => hiWord g.base
    | 0x08 => loWord g.piAddr
    | 0x0C => hiWord g.piAddr
    | 0x10 => loWord g.ciAddr
    | 0x14 => hiWord g.ciAddr
    | 0x18 => loWord g.bufBase
    | 0x1C => hiWord g.bufBase
    | 0x20 => g.stride * 65536 + g.log2
    | 0x24 => g.pollUs
    | 0x28 => g.modUs * 65536 + g.modCount * 128 + g.vector
    | 0x2C => b2n g.enable
    | 0x30 => ringStatus g
    | 0x34 => g.index
    | _ => 0

/-- The MSI-X table and the pending-bit array (R534). -/
def readMsix (s : State) (fn o : Nat) : Nat :=
  if o < 0x1000 then
    let x := Tbl.getD (s.fn fn).msix (o / 16) {}
    if vectors fn ≤ o / 16 then 0
    else match o % 16 with | 0x0 => loWord x.addr | 0x4 => hiWord x.addr | 0x8 => x.data | _ => x.ctrl
  else if o = 0x1000 then loWord (s.fn fn).msixPend
  else if o = 0x1004 then hiWord (s.fn fn).msixPend
  else 0

/-- BL_LINK_STATUS (R421). -/
def linkStatus (now : Nat) (k : Link) : Nat :=
  k.activeMask * 2 ^ 24 + k.goodAt now * 2 ^ 16 + b2n k.miswire * 2 ^ 15 + b2n k.reversed * 2 ^ 14 + k.farLink * 2 ^ 11 +
    k.farPos * 2 ^ 8 + b2n k.farValid * 128 + b2n k.deepRefused * 64 + k.width * 16 + k.st.code

/-- LOGICAL (R405): the place of a lane among the active ones. -/
def logicalLane (k : Link) (n : Nat) : Nat := if bit k.activeMask n then popcount n k.activeMask else 0

/-- Board-link diagnostics (R421 to R425); counts come from the reader's latch. -/
def readLinkDiag (s : State) (fn o : Nat) : Nat :=
  let l := o / 0x400
  let q := o % 0x400
  let n := (q - 0x40) / 0x40
  let k := s.link l
  let y := s.blLane l n
  if !okLink l then 0
  else if q = 0 then linkStatus s.now k
  else if q < 0x40 ∨ 8 ≤ n then 0
  else
    match q % 0x40 with
    | 0x00 => y.injRate * 2 ^ 24 + y.prbsSel * 16 + y.test
    | 0x04 =>
      b2n y.testDenied * 2 ^ 17 + b2n y.lost * 2 ^ 16 + b2n y.prbsSync * 512 + b2n y.frozen * 256 + logicalLane k n * 16 +
        b2n (bit k.activeMask n) * 8 + b2n (y.aligned && Config.laneInverted (l * 8 + n)) * 4 + b2n y.aligned * 2 + b2n y.cdrLock
    | 0x08 => loWord (laneEqOf s l n)
    | 0x0C => hiWord (laneEqOf s l n)
    | 0x10 => loWord (blLaneCnt y)
    | w => if 0x10 < w ∧ w < 0x28 then loWord (Tbl.getD (s.fn fn).laneLatch (l * 8 + n) 0 / 2 ^ (8 * (w - 0x10))) else 0

/-- Port-tile diagnostics (R428). -/
def readTileDiag (s : State) (fn o : Nat) : Nat :=
  let n := o / 0x2000
  let q := o % 0x2000
  let t := q / 0x40
  let y := s.tileLane n t
  if q = 0x1000 then b2n (s.laserLow.contains n) * 65536 + min (Tbl.getD s.laserIn n 0 * 100) 65535
  else if 64 ≤ t then 0
  else
    match q % 0x40 with
    | 0x00 => y.injRate * 2 ^ 24 + y.test
    | 0x04 => (Config.rxPower (n * 64 + t) s.cycle).toNat * 65536 + b2n y.testDenied * 512 + b2n y.losSeen * 256 + b2n y.prbsSync * 4 + b2n y.lock * 2 + b2n y.signal
    | 0x08 => loWord (tileLaneCnt y)
    | w => if 0x08 < w ∧ w < 0x20 then loWord (Tbl.getD (s.fn fn).laneLatch (1024 + n * 64 + t) 0 / 2 ^ (8 * (w - 8))) else 0

/-- What a read of one word of a function's BAR0 returns (R480, R524 to R526). -/
def readReg (s : State) (fn off : Nat) : Nat :=
  let pf := isPf fn
  if off % 4 ≠ 0 then 0
  else if off / 0x1000 = 1 then (if pf then readBoot s fn (off % 0x1000) else 0)
  else if s.boot.st ≠ 5 then 0
  else if off / 0x1000 = 0 then readId s fn off
  else if off / 0x1000 = 2 then
    (if !pf then 0 else if off = 0x2000 then (s.fn fn).pwrWake * 256 + (s.fn fn).pwrTarget
     else if off = 0x2004 then pwrStatus s else 0)
  else if off / 0x1000 = 3 then (if pf then readTu s fn (off % 0x1000) else 0)
  else if off / 0x1000 = 4 then (if pf then readPlace s (off % 0x1000) else 0)
  else if off = 0x5000 then (s.fn fn).apertureHi
  else if off = 0x5004 then b2n (s.fn fn).ringStopped * 256 + b2n (attached s fn) * 2 + 1
  else if off / 0x1000 = 8 then readRing s fn (off % 0x1000 / 0x40) (off % 0x40)
  else if off / 0x2000 = 8 then readMsix s fn (off % 0x2000)
  else if off / 0x2000 = 0x10 then (if pf then readLinkDiag s fn (off % 0x2000) else 0)
  else if off / 0x20000 = 2 then (if pf then readTileDiag s fn (off % 0x20000) else 0)
  else 0

/-- The state after a read: the three latches, and that of BLOCK_LIVE (R526, R528). -/
def afterRead (s : State) (fn off : Nat) : State :=
  if s.boot.st ≠ 5 then s
  else if off = 0x10 then s.updFn fn (fun x => { x with liveLatch := blockLive s })
  else if !isPf fn then s
  else if off = 0x3040 then s.updFn fn (fun x => { x with snap := snapBytes s.tu })
  else if off / 0x2000 = 0x10 then
    let q := off % 0x400
    let l := off % 0x2000 / 0x400
    let k := (q - 0x40) / 0x40
    if okLink l && decide (0x40 ≤ q) && decide (k < 8) && q % 0x40 == 0x10 then
      s.updFn fn (fun x => { x with laneLatch := Tbl.put x.laneLatch (l * 8 + k) (blLaneCnt (s.blLane l k)) })
    else s
  else if off / 0x20000 = 2 then
    let n := off % 0x20000 / 0x2000
    let q := off % 0x2000
    if q / 0x40 < 64 ∧ q % 0x40 = 0x08 then
      s.updFn fn (fun x => { x with laneLatch := Tbl.put x.laneLatch (1024 + n * 64 + q / 0x40) (tileLaneCnt (s.tileLane n (q / 0x40))) })
    else s
  else s

end Sys2Proof.Machine
end

