-- ==== Sys2Proof/Machine/Window.lean ====
section
/-! DEFINITION. What diagnostic reads and reads of the control cores find in the base-die windows and in the reserved top of a
stack: accumulator entries and flow-tracker entries (R189, R221, R308, R397; log 26, log 125). -/

namespace Sys2Proof.Machine

/-! Accumulator entries (R189). -/

/-- Bits 135:0 of an entry. -/
def elemWord (e : Elem) : Nat :=
  b2n e.anchored * 2 ^ 125 + b2n e.wide * 2 ^ 124 + e.spec * 2 ^ 122 + e.anchor * 2 ^ 112 +
    (if e.wide then e.idx else wrap 112 e.window)
/-- PAR: bit k makes the parity of bits 17k+16 to 17k even. -/
def elemPar (w : Nat) : Nat :=
  (upTo 8).foldl (fun a k => a + ((upTo 17).filter (fun i => bit w (17 * k + i))).length % 2 * 2 ^ k) 0
/-- The 18 bytes of an entry, least significant first. -/
def elemEntry (e : Elem) : Bytes := leBytes 18 (elemWord e + elemPar (elemWord e) * 2 ^ 136)

/-- The block that holds a slot of a base die's accumulator SRAM, its group, and the slot's place among the block's slots. -/
def slotHolder (s : State) (die n : Nat) : Option (Nat × FBlock × Nat) :=
  ((dieBlocks s die).find? (fun x => x.2.2.slots.contains n)).map (fun x => (x.1, x.2.2, x.2.2.slots.idxOf n))
/-- The group of a side entry of a base die. -/
def sideHolder (s : State) (die i : Nat) : Option Nat :=
  ((dieBlocks s die).find? (fun x => !x.2.2.spilled && x.2.2.elems.any (fun e => e.2.wide && e.2.idx == i))).map (fun x => x.1)

/-- Whose a byte of a window is, of the fold groups: slot n lies at 18,432·n of the accumulator SRAM and side entry i at 64·i of
the side table. -/
def windowGroup (s : State) (die a : Nat) : Option Nat :=
  if 0x10000000 ≤ a ∧ a < 0x10000000 + 3640 * 18432 then (slotHolder s die ((a - 0x10000000) / 18432)).map (fun x => x.1)
  else if 0x18000000 ≤ a ∧ a < 0x18000000 + 16384 * 64 then sideHolder s die ((a - 0x18000000) / 64)
  else none

/-- A byte of a base-die window, at the n-th reading: of an accumulator entry in use as R189 lays it out, else free. -/
def windowAt (s : State) (n off : Nat) : BitVec 8 :=
  let a := off % 2 ^ 30
  let p := a - 0x10000000
  if a < 0x10000000 then Config.windowByte n off
  else match slotHolder s (off / 2 ^ 30) (p / 18432) with
    | some (_, f, k) => (elemEntry (Tbl.getD f.elems (1024 * k + p % 18432 / 18) {})).getD (p % 18432 % 18) 0
    | none => Config.windowByte n off

/-- Every entry that a diagnostic read names belongs to the function (R308). -/
def windowMine (s : State) (fn n off len : Nat) : Bool :=
  let die := off / 2 ^ 30
  let a := off % 2 ^ 30
  let owns := fun (g : Option Nat) => match g with
    | some g => (match Tbl.find? s.groups g with | some g => g.owner == fn | none => false)
    | none => false
  if 0x10000000 ≤ a ∧ a + len ≤ 0x20000000 then
    -- one byte of each 64 and the last: every slot and side entry of the range is met
    owns (windowGroup s die (a + len - 1)) && (upTo (len / 64)).all (fun i => owns (windowGroup s die (a + 64 * i)))
  else if 0x20000000 ≤ a ∧ a + len ≤ 0x30000000 then s.models.any (fun m => m.2.owner == fn) && Config.windowOwned n fn off len
  else false

/-! Flow-tracker entries (R221, R397). -/

/-- The 64 bytes of a tracker entry. -/
def flowEntry (s : State) (h : Nat) (f : Flow) : Bytes :=
  let b := keyBytes f.host f.keyAddr ++ leBytes 4 f.flowId ++ leBytes 4 f.nextSeq ++
    leBytes 1 (f.home.getD 0 % 64 + b2n f.home.isSome * 64) ++ leBytes 1 (1 + b2n f.host * 2 + b2n f.moving.isSome * 4) ++
    leBytes 2 (flowInflight s h) ++ leBytes 4 f.gapWait ++ leBytes 2 f.collector ++ zeros 2 ++ leBytes 4 (f.lastUse / 2 ^ 20) ++
    leBytes 8 f.gapEnd ++ zeros 12
  b ++ leBytes 4 (crc32c b).toNat
/-- The handle whose entry a granule of the tracker area holds. -/
def granuleFlow (g : Nat) : Nat := g % 2 ^ 31 % 0x100000 / 16 * 64 + g / 2 ^ 31 % 4 * 16 + g % 16
/-- A granule of HBM as a CTRL request reads it: in the tracker area the entry the device holds, else what was written. -/
def readGranule (s : State) (a : Nat) : Bytes :=
  let g := a / 64
  if g % 2 ^ 31 / 0x100000 = 0x7C0 then
    match Tbl.find? s.flows (granuleFlow g) with
    | some f => flowEntry s (granuleFlow g) f
    | none => Memory.read s.hbm a 64
  else Memory.read s.hbm a 64

end Sys2Proof.Machine
end

