-- ==== Sys2Proof/Machine/BlpRx.lean ====
section
/-! DEFINITION. Packets of the board-link protocol as they arrive: sequence numbers and retry, requests executed for other
devices, completions, messages, relaying; the host aperture (R218 to R237, R408, R410, R527). -/

namespace Sys2Proof.Machine

/-! Arrival and retry (R228, R234, R410). -/

/-- The packet's CRC is good (R228). -/
def blpCrcOk (p : Bytes) : Bool := decide (20 ≤ p.length) && p.drop (p.length - 4) == fcsBytes (p.take (p.length - 4))

/-- The packet is complete for its TYPE (R230). -/
def blpLenOk (p : Bytes) : Bool :=
  match pkTy p with
  | 2 => p.length == 84
  | 3 => p.length == 36
  | 4 => p.length == 84
  | 8 => p.length == 20 + pkAddr p % 65536 && decide (40 ≤ p.length - 20) && decide (p.length - 20 ≤ 4136) && (p.length - 20) % 4 == 0
  | 9 => true
  | _ => p.length == 20

/-- Bytes of one item of a QKIND (R231). -/
def qItem (k : Nat) : Nat := match k with | 2 => 48 | 3 => 8 | _ => 4
/-- Items one packet of a QKIND carries at most (R231). -/
def qMost (k : Nat) : Nat := match k with | 2 => 64 | 3 => 512 | _ => 1024

/-- QKIND and the body's length are legal (R231). -/
def qmsgOk (p : Bytes) : Bool :=
  let b := pkBody p
  let k := pkAddr p / 65536 % 16
  let c := be b 8 2
  b.length == pkAddr p % 65536 && decide (32 ≤ b.length) && decide (b.length ≤ 4112) && b.length % 16 == 0 &&
    decide (1 ≤ k) && decide (k ≤ 4) && decide (16 + c * qItem k ≤ b.length) && decide (1 ≤ c) && decide (c ≤ qMost k)

/-- TYPE, KIND, OP or the QMSG's layout is illegal (R229 to R231). An ATOMIC whose only fault is its OP is not. -/
def blpBad (p : Bytes) : Bool :=
  let t := pkTy p
  t == 0 || decide (10 ≤ t) || (t != 6 && t != 7 && pkRid p / 2 ^ 30 == 3) || (t == 9 && !qmsgOk p)

/-- The link takes packets now. -/
def linkRx (s : State) (l : Nat) : Bool := (s.link l).st == .active && !linksHeld s

/-- A packet is accepted: the next SEQ; the ACK is due at the 32nd (R234). -/
def acceptSeq (s : State) (l : Nat) : State :=
  let s := s.updLink l (fun x =>
    { x with rxSeq := (x.rxSeq + 1) % 65536, unacked := x.unacked + 1, unackedAt := if x.unacked = 0 then s.now else x.unackedAt })
  if 32 ≤ (s.link l).unacked then sendAck s l false else s

/-- A packet of the row arrives: with the next SEQ it is accepted and acts, otherwise a NAK names the last good one. -/
def receive (s : State) (l : Nat) (p : Bytes) (row : Bool) (k : State → State) : State :=
  if !linkRx s l || !blpCrcOk p || !row then s
  else
    let s := thaw s l
    if pkSeq p = (s.link l).rxSeq then k (acceptSeq s l) else sendAck s l true

/-- Everything in the replay buffer is sent again (R234). -/
def resend (s : State) (l : Nat) : State :=
  (s.link l).replay.foldl (fun s p => s.emit (.blp l (withCrc p.bytes))) s

/-- A replay from the oldest unacknowledged packet; the ninth in a row would be one too many: the link resets (R234, R236). -/
def replayAll (s : State) (l : Nat) : State :=
  if (s.link l).replay.isEmpty then s
  else if 8 ≤ (s.link l).replays then resetLink s l
  else resend (s.updLink l (fun x => { x with replays := x.replays + 1, lastAck := s.now })) l

/-- Packets up to a SEQ leave the replay buffer: those up to the one that carries it. -/
def ackedRest (seq : Nat) (l : List BlpPkt) : List BlpPkt :=
  match firstIdx (fun p => p.seq == seq) l 0 with
  | some i => l.drop (i + 1)
  | none => l

/-- An ACK's or NAK's SEQ: what it covers leaves the replay buffer (R234). -/
def takeAck (s : State) (l : Nat) (seq : Nat) : State :=
  s.updLink l (fun x =>
    let r := ackedRest seq x.replay
    { x with replay := r, lastAck := s.now, replays := if r.length < x.replay.length then 0 else x.replays })

/-- What waits on a link goes on once the replay buffer has room or has emptied (R234, R416). -/
def pumpOn (s : State) (l : Nat) : State := deepTry (pumpLink l (s.link l).waiting.length s) l

/-- BLP_ACK (R234, R413): after a retrain the first ACK says where the transmitter goes on. -/
def execBlpAck (link : Nat) (pkt : Bytes) (s : State) : Res :=
  onObj s (okLink link)
    (if !linkRx s link || !blpCrcOk pkt || pkTy pkt ≠ 6 then s
     else
       let re := (s.link link).resume
       let s := (takeAck (thaw s link) link (pkSeq pkt)).updLink link (fun x => { x with resume := false })
       pumpOn (if re then resend s link else s) link)

/-- BLP_NAK (R234). -/
def execBlpNak (link : Nat) (pkt : Bytes) (s : State) : Res :=
  onObj s (okLink link)
    (if !linkRx s link || !blpCrcOk pkt || pkTy pkt ≠ 7 then s
     else
       let s := (takeAck (thaw s link) link (pkSeq pkt)).updLink link (fun x => { x with resume := false })
       pumpOn (replayAll s link) link)

/-- BLP_ACK_TIMER (R234): an ACK at least every 1 µs. -/
def execBlpAckTimer (link : Nat) (s : State) : Res :=
  onObj s (okLink link)
    (let k := s.link link
     if linkRx s link && decide (0 < k.unacked) && decide (k.unackedAt + 1000000 ≤ s.now) then sendAck s link false else s)

/-- BLP_REPLAY_TIMEOUT (R234): no ACK for 8 µs. -/
def execBlpReplayTimeout (link : Nat) (s : State) : Res :=
  onObj s (okLink link)
    (let k := s.link link
     if linkRx s link && !k.resume && decide (k.lastAck + 8000000 ≤ s.now) then replayAll s link else s)

/-- The copy of a packet that this device was passing on in cut-through when its CRC failed: it ends with the inverted CRC and
K30.7, and its SEQ is not used (R235, R286, log 112). -/
def cutCopy (s : State) (l : Nat) (p : Bytes) : State :=
  let t := pkTy p
  if p.length < 20 ∨ pkDst p = s.boot.boardPos ∨ pkRelay p = true ∨ t = 0 ∨ t = 6 ∨ t = 7 ∨ 10 ≤ t ∨ pkSeq p ≠ (s.link l).rxSeq then s
  else
    match linkTo s (pkDst p) with
    | none => s
    | some k =>
      let q := p.take (p.length - 4)
      let q := withSeq (q.take 1 ++ beBytes 1 (byteAt q 1 ||| 2) ++ q.drop 2) (s.link k).txSeq
      if (s.link k).waiting.isEmpty && (s.link k).maySend q then (s.emit (.blp k (withBadCrc q))).count .stumpTx 0 1 else s

/-- BLP_PACKET_DISCARD (R228, R234, R235, R286, R399): a packet with a code violation (`viol`, by lane), a bad CRC or out of sequence
is answered with a NAK; one that its sender aborted, with the inverted CRC and K30.7, is only counted. -/
def execBlpPacketDiscard (link : Nat) (pkt : Bytes) (aborted : Bool) (viol : List Nat) (s : State) : Res :=
  onObj s (okLink link)
    (if !linkRx s link then s
     else
       let s := (thaw s link).laneCounts link viol (countViol s.now)
       let s := if blpCrcOk pkt then s else cutCopy s link pkt
       if aborted then s.count .blpAbort link 1
       else if viol.all (· == 0) && blpCrcOk pkt && (pkTy pkt == 6 || pkTy pkt == 7 || pkSeq pkt == (s.link link).rxSeq) then s
       else sendAck s link true)

/-- BLP_ILLEGAL (R230, R231): acknowledged, discarded and counted. -/
def execBlpIllegal (link : Nat) (pkt : Bytes) (s : State) : Res :=
  onObj s (okLink link) (receive s link pkt (blpBad pkt) (fun s => s.count .blpIllegal link 1))

/-! Relaying (R237). -/

/-- A completion to the device a request came from; it echoes the RID but its reserved bits (R9, R229). -/
def sendCpl (s : State) (req : Bytes) (ty status : Nat) (data : Bytes) : State :=
  let me := s.boot.boardPos
  let p := blpHdr ty (pkDst req) (pkSrc req) false (pkTag req) status (pkAddr req) (pkRid req / 1024 * 1024) ++ data
  if pkSrc req = me then s
  else
    match routeOf s (pkSrc req) with
    | some l => sendBlp (s.updLink l (fun x => { x with owed := x.owed + 1 })) l p
    | none => s

/-- A packet for another device is relayed once; without a link on, a request completes with LINK (R237). -/
def relayBlp (s : State) (p : Bytes) : State :=
  let req := pkTy p == 1 || pkTy p == 2 || pkTy p == 3
  let q := p.take (p.length - 4)
  let q := q.take 1 ++ beBytes 1 (byteAt q 1 ||| 2) ++ q.drop 2
  match (if pkRelay p then none else linkTo s (pkDst p)) with
  | some l => sendBlp s l q
  | none => if req then sendCpl s p 5 4 [] else s

/-- A legal packet of the row acts, here or at the device it is for. -/
def arrive (s : State) (l : Nat) (p : Bytes) (row : Bool) (k : State → State) : State :=
  receive s l p (row && !blpBad p && blpLenOk p) (fun s => if pkDst p = s.boot.boardPos then k s else relayBlp s p)

/-! Requests executed for other devices (R218 to R226, R230, R233). -/

/-- KIND, owner (board position · 256 + function) and context of a request (R222, R229). -/
def ridKind (p : Bytes) : Nat := pkRid p / 2 ^ 30
def ridOwner (p : Bytes) : Nat := pkSrc p * 256 + pkRid p / 2 ^ 28 % 4 * 64 + pkRid p / 2 ^ 22 % 64
def ridCtx (p : Bytes) : Nat := pkRid p / 1024 % 4096

/-- What lies at a local address (R219, R299). -/
inductive LocalAt where
  | hbm | window | regs (fn off : Nat) | none
  deriving DecidableEq, Repr, Inhabited

/-- The copy of a BAR0 that an offset of the register window lies in (R527). -/
def windowFn (o : Nat) : LocalAt :=
  if o < 0x400000 then .regs (o / 0x100000 * 64) (o % 0x100000)
  else
    let q := o - 0x400000
    let h := q / 0x800000
    let f := q % 0x800000 / 0x20000
    if h < 4 ∧ f ≠ 0 then .regs (h * 64 + f) (q % 0x20000) else .none

/-- The local map (R219). -/
def localAt (s : State) (a : Nat) : LocalAt :=
  if a < hbmSize then (if bit s.place.stackLive (stackOf a) then .hbm else .none)
  else if 0x100000000000 ≤ a ∧ a < 0x100080000000 then .window
  else if 0x180000000000 ≤ a ∧ a < 0x180004000000 then windowFn (a - 0x180000000000)
  else .none

/-- A refusal (R226): counted here; its function hears of it where the completion arrives. -/
def refuseBlp (s : State) (p : Bytes) : State := sendCpl (s.count .isoDeny 0 1) p 5 2 []

/-- A THREAD or HOST request may read its granule (R223 to R225). -/
def tenantMay (s : State) (p : Bytes) (a : Nat) : Bool :=
  grantedTo s (ridOwner p) (if ridKind p = 0 then some (ridCtx p) else none) s.boot.boardPos a 64 &&
    !regionLost s s.boot.boardPos a

/-- Sixteen words of a register copy, read or written in ascending order (R527). -/
def readWords (fn off : Nat) : Nat → State → State × Bytes
  | 0, s => (s, [])
  | n + 1, s =>
    let v := readReg s fn off
    let r := readWords fn (off + 4) n (afterRead s fn off)
    (r.1, leBytes 4 v ++ r.2)

/-- Writes words in ascending order. -/
def writeWords (fn off : Nat) : Nat → Bytes → State → State
  | 0, _, s => s
  | n + 1, b, s => writeWords fn (off + 4) n (b.drop 4) (acceptWrite s fn off (le b 0 4))

/-- A read of a granule (R223, R227, R230, R232). -/
def doRd (s : State) (p : Bytes) : State :=
  let here := pkAddr p / 2 ^ 45 == s.boot.boardPos
  let a := pkAddr p % 2 ^ 45 / 64 * 64
  let data := fun (s : State) =>
    sendCpl s p 4 (if s.poisoned a 64 then 3 else 0) (readGranule s a)
  if ridKind p ≠ 2 then
    (if here && localAt s a == .hbm && tenantMay s p a then data s else refuseBlp s p)
  else if !here then sendCpl s p 5 1 []
  else
    match localAt s a with
    | .hbm => data s
    | .window =>
      let n := s.freeCount
      sendCpl { s with freeCount := n + 1 } p 4 0 ((upTo 64).map (fun i => windowAt s n (a - 0x100000000000 + i)))
    | .regs fn off =>
      let r := readWords fn off 16 (flushVotes s fn)
      sendCpl r.1 p 4 0 r.2
    | .none => sendCpl s p 5 1 []

/-- A CTRL write of a full granule: it clears poison (R279). -/
def writeGranule (s : State) (a : Nat) (b : Bytes) : State :=
  { s with hbm := Memory.write s.hbm a b, poison := s.poison.filter (· ≠ a / 64) }

/-- A write of a granule (R223, R230). -/
def doWr (s : State) (p : Bytes) : State :=
  let here := pkAddr p / 2 ^ 45 == s.boot.boardPos
  let a := pkAddr p % 2 ^ 45 / 64 * 64
  if ridKind p ≠ 2 then refuseBlp s p
  else if !here then sendCpl s p 5 1 []
  else
    match localAt s a with
    | .hbm => sendCpl (writeGranule s a (pkBody p)) p 5 0 []
    | .window => refuseBlp s p
    | .regs fn off => sendCpl (writeWords fn off 16 (pkBody p) s) p 5 0 []
    | .none => sendCpl s p 5 1 []

/-- The value an ATOMIC leaves (R230), none for an illegal OP. -/
def atomicNew (op old a b : Nat) : Option Nat :=
  match op with
  | 1 => some ((old + a) % 2 ^ 64)
  | 2 => some a
  | 3 => some (if old = a then b else old)
  | _ => none

/-- An atomic on 8 bytes of HBM; they are taken in the order in which the packet carries them (log 31). -/
def doAtomic (s : State) (p : Bytes) : State :=
  let here := pkAddr p / 2 ^ 45 == s.boot.boardPos
  let a := pkAddr p % 2 ^ 45 / 8 * 8
  let b := pkBody p
  if ridKind p ≠ 2 then refuseBlp s p
  else
    let old := Memory.read s.hbm a 8
    match atomicNew (pkCode p) (beVal old) (be b 0 8) (be b 8 8) with
    | none => sendCpl s p 5 6 []
    | some v =>
      if !here then sendCpl s p 5 1 []
      else
        match localAt s a with
        | .hbm =>
          if s.poisoned a 8 then sendCpl s p 4 3 (padTo 64 old)
          else sendCpl { s with hbm := Memory.write s.hbm a (beBytes 8 v) } p 4 0 (padTo 64 old)
        | .none => sendCpl s p 5 1 []
        | _ => refuseBlp s p

/-- BLP_RD (R219, R222 to R226, R230, R233). -/
def execBlpRd (link : Nat) (pkt : Bytes) (s : State) : Res :=
  onObj s (okLink link) (arrive s link pkt (pkTy pkt == 1) (fun s => doRd s pkt))

/-- BLP_WR (R223, R230, R233, R279, R527). -/
def execBlpWr (link : Nat) (pkt : Bytes) (s : State) : Res :=
  onObj s (okLink link) (arrive s link pkt (pkTy pkt == 2) (fun s => doWr s pkt))

/-- BLP_ATOMIC (R223, R230, R232). -/
def execBlpAtomic (link : Nat) (pkt : Bytes) (s : State) : Res :=
  onObj s (okLink link) (arrive s link pkt (pkTy pkt == 3) (fun s => doAtomic s pkt))

/-! Completions at the source (R232, R235). -/

/-- BLP_CPL (R232): CPL or CPL_ND of an outstanding request. -/
def execBlpCpl (link : Nat) (pkt : Bytes) (s : State) : Res :=
  onObj s (okLink link)
    (arrive s link pkt (pkTy pkt == 4 || pkTy pkt == 5) (fun s =>
      let k := pkSrc pkt * 4096 + pkTag pkt
      match Tbl.find? s.blpReqs k with
      | some _ => reqDone s k (pkCode pkt) (if pkTy pkt = 4 then pkBody pkt else [])
      | none => s))

/-- BLP_TIMEOUT (R232): no completion within 100 µs of issue. -/
def execBlpTimeout (dev tag : Nat) (s : State) : Res :=
  onObj s (decide (dev < 8) && decide (tag < 4096))
    (match Tbl.find? s.blpReqs (dev * 4096 + tag) with
     | some r =>
       match r.issued with
       | some t => if t + 100000000 ≤ s.now then reqDone s (dev * 4096 + tag) 5 [] else s
       | none => s
     | none => s)

/-- A packet is still being sent, for the first time: it is the last one on the link, and the only one of its SEQ and content. -/
def beingSent (l : Nat) (b : Bytes) (o : List Out) : Bool :=
  let on := o.filterMap (fun x => match x with | .blp k p => if k = l then some p else none | _ => none)
  on.getLast? == some (withCrc b) && on.count (withCrc b) == 1

/-- The copy of a packet that is still being sent ends with the inverted CRC. -/
def stomp (l : Nat) (b : Bytes) : List Out → List Out
  | [] => []
  | o :: t =>
    if t.all (fun x => match x with | .blp k _ => k != l | _ => true) ∧ o = .blp l (withCrc b) then
      .blp l (withBadCrc b) :: t
    else o :: stomp l b t

/-- BLP_CPL_ABORT (R235, R279, R288): the ECC verdict on a completion's data is uncorrectable while it is being sent: the packet ends
with the inverted CRC, and the same SEQ is sent again with STATUS POISON. -/
def execBlpCplAbort (link seq : Nat) (s : State) : Res :=
  onObj s (okLink link)
    (match (s.link link).replay.find? (fun p => p.seq == seq && pkTy p.bytes == 4 && pkCode p.bytes == 0 && pkSrc p.bytes == s.boot.boardPos) with
     | none => s
     | some p =>
       if !linkRx s link || !beingSent link p.bytes s.outs then s
       else
         let a := pkAddr p.bytes % 2 ^ 45
         let b := p.bytes.take 4 ++ beBytes 2 (pkTag p.bytes * 16 + 3) ++ p.bytes.drop 6
         let s := { s with outs := stomp link p.bytes s.outs }.count .stumpTx 0 1
         let s := s.updLink link (fun x =>
           { x with replay := x.replay.map (fun q => if q.seq = seq then ⟨seq, b⟩ else q) })
         let s := if hbmSize ≤ a then s else poisonGranule s (a / 64)
         s.emit (.blp link (withCrc b)))

/-! Messages (R230, R231). -/

/-- BLP_MSG (R230): a fold frame with a good FCS from the member whose port names the link. -/
def execBlpMsg (link : Nat) (pkt : Bytes) (s : State) : Res :=
  onObj s (okLink link)
    (arrive s link pkt (pkTy pkt == 8) (fun s =>
      if s.live ∧ s.power.st = 0 then foldHandle false s ⟨65536 + link, 0, pkBody pkt⟩ else s))

/-- Exact partial sums of a holder (R231): output and units of 2^−149. -/
def partialSums (b : Bytes) (n : Nat) : List (Nat × Int) :=
  (upTo n).map (fun i => (be b (48 * i) 2, sext 320 (be b (48 * i + 8) 40)))

/-- Leaf values of a holder (R231): tree · 64 + output, FP32. -/
def leafItems (b : Bytes) (n : Nat) : List (Nat × Nat) :=
  (upTo n).map (fun i => (be b (8 * i) 2 * 64 + byteAt b (8 * i + 2) % 64, be b (8 * i + 4) 4))

/-- A QMSG whose identity does not hold what it names is refused (R225, R226, R231). -/
def refuseQmsg (s : State) (p : Bytes) : State := s.isoDeny (ridOwner p % 256) (ridKind p) (objCode 1 (ridCtx p)) 0

/-- Columns of a layer that a holder on another device has computed: those it holds are taken, and with the last the row is complete
(R148, R231, log 15). -/
def takeColumns (s : State) (tid : Nat) (t : Thread) (x : Slice) (layer : Nat) (items : List (Nat × Nat)) : State :=
  match x.layers.find? (fun p => p.layer == layer) with
  | none => s
  | some p =>
    if layer ≠ t.layer ∨ (t.phase ≠ .array ∧ t.phase ≠ .batch) then s
    else
      let img := (s.verOf t).image
      let l := layerAt img t.layer
      let c := (items.filter (fun q => decide (p.first ≤ q.1) && decide (q.1 < p.first + p.cols))).foldl
        (fun (c : Tbl Nat) q => Tbl.put c q.1 q.2) t.colRow
      let t := { t with colRow := c }
      let s := s.updThread tid (fun _ => t)
      if (upTo l.n).all (Tbl.has c) then afterRows s tid t img ((upTo l.n).map (fun j => Tbl.getD c j 0)) else s

/-- The values of a holder that a thread awaits (R116, R231). The holder has answered once its exact sums, or the leaf values of
all its trees, are there. -/
def takeQmsg (s : State) (p : Bytes) : State :=
  let b := pkBody p
  let k := pkAddr p / 65536 % 16
  let e := be b 0 4
  let tid := e % 2 ^ 18
  let h := pkSrc p * 64 + byteAt b 10 % 64
  let n := be b 8 2
  match Tbl.find? s.threads tid with
  | none => s
  | some t =>
    let own := (s.model t.model).owner
    if e / 2 ^ 21 ≠ s.boot.boardPos ∨ be b 4 2 ≠ t.model ∨ t.done = true ∨ (k ≠ 4 ∧ t.remoteGot.contains h = true) then s
    else if ridCtx p ≠ t.model ∨ ridOwner p % 256 ≠ own ∨ ridKind p ≠ 0 then refuseQmsg s p
    else
      match replicaOf s t with
      | none => s
      | some r =>
        match r.slices.find? (fun x => x.dev == some (pkSrc p) && x.block == byteAt b 10 % 64) with
        | none => s
        | some x =>
          let img := (s.verOf t).image
          if k = 2 ∧ imgOrdered img = false then
            s.updThread tid (fun t =>
              { t with remoteGot := h :: t.remoteGot, sums := (tid / 4096) :: t.sums.erase (tid / 4096),
                       remoteSum := (partialSums (b.drop 16) n).foldl
                         (fun (a : Tbl Int) v => Tbl.put a v.1 (Tbl.getD a v.1 0 + v.2)) t.remoteSum })
          else if k = 3 ∧ imgOrdered img = true then
            let l := (leafItems (b.drop 16) n).foldl (fun (a : Tbl Nat) v => Tbl.put a v.1 v.2) t.remoteLeaf
            let all := x.trees.all (fun q => (leafValues img (treeDir img q.tree) 0).all (fun v => Tbl.has l (q.tree * 64 + v.1)))
            s.updThread tid (fun t => { t with remoteLeaf := l, remoteGot := if all then h :: t.remoteGot else t.remoteGot })
          else if k = 4 then takeColumns s tid t x (byteAt b 11) ((upTo n).map (fun i => (be b 6 2 + i, be b (16 + 4 * i) 4)))
          else s

/-- Features, or a layer's input row, for a slice that a block here holds of another device's model; a device that holds none for the
identity refuses (R225, R231). -/
def takeGuest (s : State) (p : Bytes) (held : Option GuestSlice) : State :=
  let b := pkBody p
  match held with
  | none => refuseQmsg s p
  | some g =>
    if ridKind p ≠ 0 ∨ ridOwner p % 256 ≠ g.fn ∨ ridCtx p ≠ g.ctx ∨ be b 4 2 ≠ g.ctx ∨ g.slice.block ≠ byteAt b 10 % 64 then refuseQmsg s p
    else
      let items := (upTo (be b 8 2)).map (fun i => be b (16 + 4 * i) 4)
      if pkAddr p / 65536 % 16 = 1 then takeFeatures s (pkSrc p) (be b 0 4) (be b 6 2) g items
      else match g.slice.layers.find? (fun q => q.layer == byteAt b 11 && guestLayer (layerAt g.image q.layer)) with
        | some q => takeRow s (pkSrc p) (be b 0 4) (be b 6 2) g q items
        | none => refuseQmsg s p

/-- BLP_QMSG (R225, R231): partial sums, leaf values and columns for a thread of this device, or features and input rows for the slice
held of another device's model (log 15). -/
def execBlpQmsg (link : Nat) (rx : QmsgRx) (s : State) : Res :=
  let pkt := rx.pkt
  onObj s (okLink link) (arrive s link pkt (pkTy pkt == 9) (fun s =>
    let k := pkAddr pkt / 65536 % 16
    if k = 1 ∨ (k = 4 ∧ be (pkBody pkt) 0 4 / 2 ^ 21 ≠ s.boot.boardPos) then takeGuest s pkt rx.held else takeQmsg s pkt))

/-! Routes (R237) and the aperture (R227). -/

/-- ROUTE_SWITCH (R237, R408): the control cores learn which devices have a link up to it; once every request on the old route
has completed, the new route is taken and what waited for it is issued. -/
def execRouteSwitch (far : DevLinks) (s : State) : Res :=
  onObj s (decide (far.dev < 8) && far.peers.all (fun d => decide (d < 8)))
    (let s := { s with peerUp := Tbl.put s.peerUp far.dev far.peers }
     pumpBlp (match routeOf s far.dev with
     | some l => if outstandingElsewhere s far.dev l then s else { s with blpRoute := Tbl.put s.blpRoute far.dev l }
     | none => s))

/-- The hardened APERTURE_HI of a function is lost (R543). -/
def apertureLost (s : State) (fn : Nat) : Bool :=
  s.place.lost.any (fun l => match l.obj with | .reg f o => f == fn && o == 0x5000 | _ => false)

/-- APERTURE_ACCESS (R223 to R227, R480, R543): a read of `len` bytes at an offset of BAR2, or a write, which is discarded. -/
def execApertureAccess (fn off len : Nat) (write : Bool) (s : State) : Res :=
  onObj s (okFn fn && decide (0 < len) && decide (off + len ≤ 2 ^ 32))
    (if write then (if s.live then s.isoDeny fn 1 0 ((s.fn fn).apertureHi * 2 ^ 32 + off) else s)
     else if !s.live || apertureLost s fn then s.emit (.barAbort fn)
     else
       let a := (s.fn fn).apertureHi * 2 ^ 32 + off
       let g := a % 2 ^ 45
       if a / 2 ^ 45 ≠ s.boot.boardPos then
         issueReads { s with freeCount := s.freeCount + 1 } (.aperture s.freeCount fn a len) (ridOf 1 fn 0) len [a]
       else if !grantedTo s (s.boot.boardPos * 256 + fn) none s.boot.boardPos g len || regionLost s s.boot.boardPos g then
         (s.isoDeny fn 1 0 a).emit (.barAbort fn)
       else if s.poisoned g len then s.emit (.barPoison fn (Memory.read s.hbm g len))
       else s.emit (.bar fn (Memory.read s.hbm g len)))

end Sys2Proof.Machine
end

