-- ==== Sys2Proof/Machine/HostPorts.lean ====
section
/-! DEFINITION. Host commands on ports, routes and statistics: PORT_PLAN, PORT_CONFIG, ROUTE, STATS (R254, R308, R336, R351,
R352, R360, R369, R370, R372, R376, R388, R392, R394, R418, R462 to R466). -/

namespace Sys2Proof.Machine

/-! PORT_PLAN (R462). -/

/-- Fields of a plan entry at `o` that are not legal. -/
def planFields (b : Bytes) (o : Nat) : List (Nat × Bool) :=
  let peer := le b (o + 6) 2
  [(o, portFieldOk (le b o 2)), (o + 2, decide (byteAt b (o + 2) < 3)), (o + 3, decide (byteAt b (o + 3) < 2)),
   (o + 4, byteAt b (o + 2) != 2 || decide (byteAt b (o + 4) < 8)), (o + 5, decide (byteAt b (o + 5) ≤ 48)),
   (o + 6, bitsOf peer 7 3 == 0 && !bit peer 15), (o + 0x10, decide (byteAt b (o + 0x10) ≤ 48))] ++ rsvBytes b (o + 0x11) (o + 0x20)

/-- A plan entry: port and plan. -/
def planEntry (fn : Nat) (b : Bytes) (o : Nat) : Nat × Plan :=
  (portOf (le b o 2),
   { expect := byteAt b (o + 2), policy := byteAt b (o + 3), device := byteAt b (o + 4), cid := slice b (o + 0x20) (byteAt b (o + 5)),
     peerPort := le b (o + 6) 2, systemId := le b (o + 8) 8, pid := slice b (o + 0x50) (byteAt b (o + 0x10)), fn := fn })

/-- PORT_PLAN: each changed entry is evaluated at once (R254). -/
def execPortPlan (fn : Nat) (arg : Dma) (s : State) : Res :=
  onObj s (okFn fn)
    (match takeArg s fn 0x0030 (isPf fn) (fun n => decide (8 ≤ n) && decide (n ≤ 16777216)) arg with
     | .inl s => s
     | .inr (n, c, b) =>
       let k := le b 0 2
       if 1 ≤ k ∧ k ≤ 1160 ∧ c.argLen ≠ 8 + 128 * k then s.finish n stInvalidArg 0x18
       else
         match firstBad ((0, decide (1 ≤ k) && decide (k ≤ 1160)) :: rsvBytes b 2 8 ++ (upTo k).flatMap (fun i => planFields b (8 + 128 * i))) with
         | some o => s.finish n stInvalidArg (argAt o)
         | none =>
           startOn s fn n .none (fun s =>
             let es := (upTo k).map (fun i => planEntry fn b (8 + 128 * i))
             let s := { s with plans := es.foldl (fun (t : Tbl Plan) (e : Nat × Plan) => Tbl.put t e.1 e.2) s.plans }
             (((es.map Prod.fst).eraseDups).foldl applyDiscovery s).finish n stOk 0))

/-! PORT_CONFIG: ports (R351, R352, R360, R392, R463, R464). -/

/-- Range of a port setting, and whether INDEX is a class. -/
def portRange (id : Nat) : Option (Int × Int × Bool) :=
  match id with
  | 0x0101 => some (0, 1, false) | 0x0102 => some (0, 3, false) | 0x0103 => some (0, 2 ^ 48 - 1, false)
  | 0x0104 => some (1518, 9216, false) | 0x0105 => some (1, 1000, false) | 0x0106 => some (0, 2, false)
  | 0x0107 => some (0, 255, false) | 0x0108 => some (1, 65535, false) | 0x0109 => some (0, 7, false)
  | 0x010A => some (-32768, 32767, false) | 0x010B => some (-32768, 32767, false) | 0x010C => some (0, 1, false)
  | 0x010D => some (0, 1, false) | 0x010E => some (0, 1, false) | 0x010F => some (0, 255, false)
  | 0x0201 => some (0, 2, false) | 0x0202 => some (0, 7, false) | 0x0203 => some (0, 255, false)
  | 0x0204 => some (1, 4094, false) | 0x0205 => some (1, 10, false) | 0x0206 => some (1, 127, true)
  | 0x0209 => some (0, 65535, true) | 0x020A => some (0, 65535, true) | 0x020B => some (1, 100, true)
  | 0x020C => some (64, 65535, true) | 0x020D => some (16, 65535, true) | 0x020E => some (64, 16384, true)
  | _ => none

/-- The number a VALUE holds: a MAC address in wire order, a signed trim, or an unsigned number. -/
def portValue (id : Nat) (v : Bytes) : Int :=
  if id = 0x0103 then (be v 0 6 : Nat) else if id = 0x010A ∨ id = 0x010B then sext 320 (le v 0 40) else (le v 0 40 : Nat)

/-- Fields of a port setting that are not legal. MODE is for the whole port (log 27). -/
def portFields (s : State) (b : Bytes) (o p : Nat) (whole : Bool) : List (Nat × Bool) :=
  let id := le b o 2
  let v := slice b (o + 8) 40
  match portRange id with
  | none => [(o, false)]
  | some (lo, hi, cls) =>
    [(o, id != 0x0102 || whole || portMode s p == 0), (o + 2, if cls then decide (le b (o + 2) 2 < 8) else le b (o + 2) 2 == 0)] ++
      rsvBytes b (o + 4) (o + 8) ++
      [(o + 8, decide (lo ≤ portValue id v) && decide (portValue id v ≤ hi) &&
          (id != 0x0103 || (byteAt v 0 % 2 == 0 && allZero (v.drop 6))))]

/-- A setting in the configuration of one port; ENABLE and MODE are acted on apart. -/
def PortCfg.set (c : PortCfg) (id idx : Nat) (v : Int) : PortCfg :=
  let n := v.toNat
  match id with
  | 0x0103 => { c with macAddr := n }
  | 0x0104 => { c with maxFrame := n }
  | 0x0105 => { c with linkHold := n }
  | 0x0106 => { c with fcMode := n }
  | 0x0107 => { c with pfcClasses := n }
  | 0x0108 => { c with pauseQuanta := n }
  | 0x0109 => { c with replyTc := n }
  | 0x010A => { c with txTrim := v }
  | 0x010B => { c with rxTrim := v }
  | 0x010C => { c with ptpTc := n == 1 }
  | 0x010D => { c with ptpCap := n == 1 }
  | 0x010E => { c with foldEn := n == 1 }
  | 0x010F => { c with replyTtl := n }
  | 0x0201 => { c with trust := n }
  | 0x0202 => { c with defaultTc := n }
  | 0x0203 => { c with vrf := n }
  | 0x0204 => { c with nativeVlan := n }
  | 0x0205 => { c with replyShare := n }
  | 0x0206 => { c with weight := setAt c.weight idx n }
  | 0x0209 => { c with ecnMin := setAt c.ecnMin idx n }
  | 0x020A => { c with ecnMax := setAt c.ecnMax idx n }
  | 0x020B => { c with ecnPmax := setAt c.ecnPmax idx n }
  | 0x020C => { c with xoffTh := setAt c.xoffTh idx n }
  | 0x020D => { c with xonDelta := setAt c.xonDelta idx n }
  | 0x020E => { c with headroom := setAt c.headroom idx n }
  | _ => c

/-- ENABLE of a port (R359, R427). -/
def enablePort (s : State) (p : Nat) (on : Bool) : State :=
  let x := s.port p
  if x.cfg.enable = on then s
  else
    let s := s.updPort p (fun y => { y with cfg := { y.cfg with enable := on }, physSince := s.now })
    if on then
      setPortState { s with tileLanes := (lanesOfPort s p).foldl (fun t k =>
        Tbl.put t k { Tbl.getD t k {} with test := 0, prbsSync := false }) s.tileLanes } p .down
    else if portUp x then portDown s p .disabled else setPortState s p .disabled

/-- MODE of a port (R352): it goes down and trains again; sub-ports that remain keep their settings, the others lose them, new
ones start from the defaults. -/
def setMode (s : State) (p m : Nat) : State :=
  let old := portMode s p
  if old = m then s
  else
    let s := (upTo (2 ^ old)).foldl (fun s i =>
      let q := p + i
      let x := s.port q
      if i < 2 ^ m then
        (if portUp x then portDown s q .down else s).updPort q (fun y => { y with physSince := s.now })
      else
        let s := if portUp x then portDown s q .disabled else setPortState s q .disabled
        { s with ports := Tbl.del s.ports q }) s
    let s := { s with ports := List.filter (fun (q : Nat × Port) => q.1 / 8 != p / 8 || decide (q.1 % 8 < 2 ^ old)) s.ports }
    s.updPort p (fun y => { y with cfg := { y.cfg with mode := m } })

/-- Sub-ports a target names. -/
def targetPorts (s : State) (p : Nat) (whole : Bool) : List Nat :=
  if whole then (upTo (2 ^ portMode s p)).map (fun i => p / 8 * 8 + i) else [p]

/-- Applies one setting to a port target. -/
def applyPort (p : Nat) (whole : Bool) (s : State) (x : Nat × Nat × Int) : State :=
  let (id, idx, v) := x
  if id = 0x0102 then setMode s (p / 8 * 8) v.toNat
  else
    (targetPorts s p whole).foldl (fun s q =>
      if id = 0x0101 then enablePort s q (v == 1)
      else pauseUpdate (s.updPort q (fun y => { y with cfg := y.cfg.set id idx v })) q) s

/-- Ranges that relate two settings hold on a port's class (R392). -/
def classOk (c : PortCfg) (k : Nat) : Bool :=
  decide (c.ecnMin.getD k 400 < c.ecnMax.getD k 2000) && decide (c.xonDelta.getD k 256 ≤ c.xoffTh.getD k 1024)

/-- The offset of the last setting of a pair whose range the target would break once the list has applied. -/
def pairBad (s : State) (p : Nat) (whole : Bool) (l : List (Nat × Nat × Nat × Int)) : Option Nat :=
  let broken := fun (lo : Bool) (k : Nat) => (targetPorts s p whole).any (fun q =>
    let c := (s.port q).cfg
    if lo then !decide (c.ecnMin.getD k 400 < c.ecnMax.getD k 2000) else !decide (c.xonDelta.getD k 256 ≤ c.xoffTh.getD k 1024))
  if (upTo 8).all (fun k => (targetPorts s p whole).all (fun q => classOk (s.port q).cfg k)) then none
  else
    match (l.reverse.find? (fun x => ((x.2.1 == 0x0209 || x.2.1 == 0x020A) && broken true x.2.2.1) ||
        ((x.2.1 == 0x020C || x.2.1 == 0x020D) && broken false x.2.2.1))) with
    | some x => some (x.1 + 8)
    | none => some 0

/-- Settings of an argument block: offset, ID, INDEX, number. -/
def settingsOf (b : Bytes) (k : Nat) : List (Nat × Nat × Nat × Int) :=
  (upTo k).map (fun i => let o := 8 + 48 * i; (o, le b o 2, le b (o + 2) 2, portValue (le b o 2) (slice b (o + 8) 40)))

/-- PORT_CONFIG of a port. -/
def configPort (s : State) (n : Nat) (b : Bytes) (k : Nat) : State :=
  let t := le b 0 2
  let whole := bit t 3
  let p := if whole then bitsOf t 10 4 * 8 else portOf t
  let l := settingsOf b k
  match firstBad ([(0, !bit t 11 && (whole || portExists s p))] ++ rsvBytes b 4 8 ++
      (upTo k).flatMap (fun i => portFields s b (8 + 48 * i) p whole)) with
  | some o => s.finish n stInvalidArg (argAt o)
  | none =>
    let s' := (l.map Prod.snd).foldl (applyPort p whole) s
    match pairBad s' p whole l with
    | some o => s.finish n stInvalidArg (argAt o)
    | none =>
      if !poolFits s' then s.finish n stResource 17
      else
        ((targetPorts s' p whole).foldl (fun s q =>
          if s.place.lost.any (fun l => l.obj == .port q) then
            (s.rewritten (.port q)).updPort q (fun y => { y with physSince := s.now })
          else s) s').finish n stOk 0

/-! PORT_CONFIG: management ports and wake patterns (R369, R370, R372). -/

/-- A wake pattern record. -/
def wakeRec (v : Bytes) : WakeRec :=
  { offset := le v 0 2, en := bit (byteAt v 2) 0, ports := byteAt v 2 / 2 % 4, check := le v 4 4, mask := le v 8 16 }

/-- A wake pattern record that R372 does not refuse. -/
def wakeOk (v : Bytes) : Bool :=
  let r := wakeRec v
  decide (r.offset ≤ 9084) && decide (byteAt v 2 < 8) && byteAt v 3 == 0 && allZero (v.drop 0x18) &&
    (!r.en || (r.mask != 0 && r.ports != 0))

/-- Fields of a management-port setting that are not legal; FC_MODE may be NONE or PAUSE (R369). -/
def mgmtFields (b : Bytes) (o : Nat) : List (Nat × Bool) :=
  let id := le b o 2
  let idx := le b (o + 2) 2
  let v := slice b (o + 8) 40
  [(o, id == 0x0301 || id == 0x0302 || id == 0x0303 || id == 0x0106), (o + 2, if id = 0x0303 then decide (idx < 16) else idx == 0)] ++
    rsvBytes b (o + 4) (o + 8) ++
    [(o + 8, if id = 0x0301 then decide (le v 0 40 < 3) else if id = 0x0302 then decide (le v 0 40 < 4)
       else if id = 0x0106 then decide (le v 0 40 < 2) else wakeOk v)]

/-- Applies one setting to a management port. -/
def applyMgmt (g : Nat) (b : Bytes) (s : State) (o : Nat) : State :=
  let m := Tbl.getD s.mgmts g {}
  let v := slice b (o + 8) 40
  match le b o 2 with
  | 0x0301 => { s with mgmts := Tbl.put s.mgmts g { m with fec := le v 0 40 } }
  | 0x0302 => { s with mgmts := Tbl.put s.mgmts g { m with owner := some (le v 0 40) } }
  | 0x0106 => { s with mgmts := Tbl.put s.mgmts g { m with fcPause := le v 0 40 == 1 } }
  | _ => { s with dev := { s.dev with wake := Tbl.put s.dev.wake (le b (o + 2) 2) (wakeRec v) } }

/-! PORT_CONFIG: board links (R418). -/

/-- Fields of a link setting that are not legal; MIN_WIDTH is given in lanes (log 27). -/
def linkFields (b : Bytes) (o : Nat) : List (Nat × Bool) :=
  let id := le b o 2
  let v := le b (o + 8) 40
  [(o, decide (0x0401 ≤ id) && decide (id ≤ 0x0404)), (o + 2, le b (o + 2) 2 == 0)] ++ rsvBytes b (o + 4) (o + 8) ++
    [(o + 8, if id = 0x0402 then [1, 2, 4, 8].contains v else if id = 0x0404 then decide (v < 3) else decide (v < 2))]

/-- Applies one setting to a link; ACTION waits for the others. -/
def applyLink (l : Nat) (b : Bytes) (s : State) (o : Nat) : State :=
  let v := le b (o + 8) 40
  let k := s.link l
  match le b o 2 with
  | 0x0401 => configLink s l (v == 1) k.deep k.minWidth 0
  | 0x0402 => configLink s l k.enable k.deep (Nat.log2 v) 0
  | 0x0403 => configLink s l k.enable (v == 1) k.minWidth 0
  | _ => s

/-- The last ACTION of a list. -/
def linkAction (b : Bytes) (os : List Nat) : Nat :=
  os.foldl (fun a o => if le b o 2 = 0x0404 then le b (o + 8) 40 else a) 0

/-! PORT_CONFIG: the device (R464). -/

/-- INDEX limit and range of a device setting; addresses and SYSTEM_ID have a range of their own. -/
def devRange (id : Nat) : Option (Nat × Nat × Nat) :=
  match id with
  | 0x0207 => some (8, 0, 1) | 0x0208 => some (8, 0, 7)
  | 0x0501 => some (16, 0, 2 ^ 320) | 0x0502 => some (4, 0, 65535) | 0x0503 => some (16, 0, 2 ^ 320) | 0x0504 => some (4, 0, 65535)
  | 0x0505 => some (2, 0, 65535) | 0x0506 => some (1, 1, 255) | 0x0507 => some (1, 10, 10000) | 0x0508 => some (1, 0, 2 ^ 32 - 1)
  | 0x0509 => some (8, 0, 7) | 0x050A => some (64, 0, 7) | 0x050B => some (1, 1, 3600) | 0x050C => some (256, 0, 2 ^ 320)
  | 0x050D => some (1, 0, 2 ^ 64 - 1)
  | _ => none

/-- Fields of a device setting that are not legal. -/
def devFields (b : Bytes) (o : Nat) : List (Nat × Bool) :=
  let id := le b o 2
  let v := slice b (o + 8) 40
  match devRange id with
  | none => [(o, false)]
  | some (n, lo, hi) =>
    [(o + 2, decide (le b (o + 2) 2 < n))] ++ rsvBytes b (o + 4) (o + 8) ++
      [(o + 8, decide (lo ≤ le v 0 40) && decide (le v 0 40 ≤ hi) &&
          allZero (v.drop (if id = 0x0501 ∨ id = 0x0503 then 16 else if id = 0x050C then 18 else 40)))]

/-- An entry of a table of settings: 0 removes it (R463; for a UDP port, log 27). -/
def putOrDel (t : Tbl Nat) (k v : Nat) : Tbl Nat := Tbl.putD 0 t k v

/-- Applies one setting to the device. -/
def applyDev (b : Bytes) (d : DevCfg) (o : Nat) : DevCfg :=
  let i := le b (o + 2) 2
  let v := le b (o + 8) 40
  let a := be b (o + 8) 16
  match le b o 2 with
  | 0x0207 => { d with spray := setAt d.spray i v }
  | 0x0208 => { d with alpha := setAt d.alpha i v }
  | 0x0501 => { d with queryAddr := putOrDel d.queryAddr i a }
  | 0x0502 => { d with sqfPort := putOrDel d.sqfPort i v }
  | 0x0503 => { d with foldAddr := putOrDel d.foldAddr i a }
  | 0x0504 => { d with foldPort := putOrDel d.foldPort i v }
  | 0x0505 => { d with tpid := setAt d.tpid i v }
  | 0x0506 => { d with replyTtl := v }
  | 0x0507 => { d with helloPeriod := v }
  | 0x0508 => { d with hashSeed := v }
  | 0x0509 => { d with pcpMap := setAt d.pcpMap i v }
  | 0x050A => { d with dscpMap := setAt d.dscpMap i v }
  | 0x050B => { d with flowAge := v }
  | 0x050C => { d with collector := if a = 0 then Tbl.del d.collector i else Tbl.put d.collector i (a, le b (o + 24) 2) }
  | 0x050D => { d with systemId := v }
  | _ => d

/-- The settings of an argument block for a management port, a link or the device: checked, then applied in list order. -/
def configOther (s : State) (n : Nat) (b : Bytes) (k kind : Nat) : State :=
  let t := le b 0 2 % 4096
  let os := (upTo k).map (fun i => 8 + 48 * i)
  let head := match kind with | 1 => decide (t < 2) | 2 => decide (t < 7) | 3 => t == 0 | _ => false
  let fields := match kind with | 1 => mgmtFields b | 2 => linkFields b | _ => devFields b
  match firstBad ([(0, head)] ++ rsvBytes b 4 8 ++ os.flatMap fields) with
  | some o => s.finish n stInvalidArg (argAt o)
  | none =>
    (match kind with
     | 1 => os.foldl (applyMgmt t b) s
     | 2 =>
       let s := os.foldl (applyLink t b) s
       let x := s.link t
       configLink s t x.enable x.deep x.minWidth (linkAction b os)
     | _ => { s with dev := os.foldl (applyDev b) s.dev }).finish n stOk 0

/-- PORT_CONFIG (R463). -/
def execPortConfig (fn : Nat) (arg : Dma) (s : State) : Res :=
  onObj s (okFn fn)
    (match takeArg s fn 0x0031 (isPf fn) (fun n => decide (8 ≤ n) && decide (n ≤ 16777216)) arg with
     | .inl s => s
     | .inr (n, c, b) =>
       let k := le b 2 2
       let kind := le b 0 2 / 4096
       if 1 ≤ k ∧ k ≤ 256 ∧ c.argLen ≠ 8 + 48 * k then s.finish n stInvalidArg 0x18
       else if k = 0 ∨ 256 < k then s.finish n stInvalidArg (argAt (if 3 < kind then 0 else 2))
       else
         let t := le b 0 2
         let obj : ObjRef := match kind with
           | 0 => .port (bitsOf t 10 4) | 1 => .mgmt (t % 2) | 2 => .link (t % 8) | _ => .device
         startOn s fn n obj (fun s => if kind = 0 then configPort s n b k else configOther s n b k kind))

/-! ROUTE (R376, R394, R465). -/

/-- IPv4 keys are given as ::ffff:a.b.c.d (log 27). -/
def v4Key (a : Nat) : Bool := a / 2 ^ 32 == 0xFFFF

/-- Fields of a route entry at `o` that are not legal. -/
def routeFields (b : Bytes) (o : Nat) : List (Nat × Bool) :=
  let t := byteAt b o
  let add := byteAt b (o + 1) == 0
  let sc := le b (o + 2) 2
  let plen := byteAt b (o + 4)
  let vlanOk := decide (1 ≤ sc) && decide (sc ≤ 4094)
  let rk := byteAt b (o + 0x18)
  let lookup := t == 1 || t == 3 || t == 4
  [(o, decide (t < 7)), (o + 1, decide (byteAt b (o + 1) < 2)),
   (o + 2, match t with
     | 0 => decide (sc < 16) | 1 => vlanOk | 2 => vlanOk | 3 => decide (sc < 256) | 4 => decide (sc < 256) | 6 => decide (sc < 4096)
     | _ => true),
   (o + 4, match t with | 3 => decide (plen ≤ 32) | 4 => decide (plen ≤ 128) | _ => true),
   (o + 5, decide (byteAt b (o + 5) < 2)),
   (o + 6, !(t == 2 || (add && t == 5) || (add && t == 1 && rk == 2)) || portFieldOk (le b (o + 6) 2)),
   (o + 8, t != 3 || v4Key (be b (o + 8) 16)),
   (o + 0x18, !(lookup && add) || (decide (rk < 5) && (rk != 2 || t == 1))), (o + 0x19, byteAt b (o + 0x19) == 0),
   (o + 0x1A, !(lookup && add && rk == 1) || decide (le b (o + 0x1A) 2 < 4096)),
   (o + 0x22, !(add && t == 5) || decide (le b (o + 0x22) 2 ≤ 4094))] ++ rsvBytes b (o + 0x24) (o + 0x40)

/-- Table and key of a route entry, as the forwarding tables number them. -/
def routeKey (b : Bytes) (o : Nat) : Nat × Nat :=
  let t := byteAt b o
  let sc := le b (o + 2) 2
  let plen := byteAt b (o + 4)
  (t, match t with
    | 1 => sc * 2 ^ 48 + be b (o + 8) 6
    | 2 => sc * 1024 + portOf (le b (o + 6) 2)
    | 3 => ip4Key sc plen (prefixOf 32 (be b (o + 8) 16 % 2 ^ 32) plen)
    | 4 => ip6Key sc plen (prefixOf 128 (be b (o + 8) 16) plen)
    | 6 => sc * 256 + plen
    | _ => sc)

/-- Applies one route entry. A DELETE of an entry that is not there changes nothing (log 27). -/
def applyRoute (fn : Nat) (b : Bytes) (w : Fwd) (o : Nat) : Fwd :=
  let (t, k) := routeKey b o
  let rk := byteAt b (o + 0x18)
  let r : Route := { rkind := rk, result := if rk = 2 then portOf (le b (o + 6) 2) else le b (o + 0x1A) 2, fn := fn }
  let add := byteAt b (o + 1) == 0
  match t with
  | 0 => { w with routerMac := if add then Tbl.put w.routerMac k (be b (o + 8) 6) else Tbl.del w.routerMac k }
  | 1 => { w with l2 := if add then Tbl.put w.l2 k r else Tbl.del w.l2 k }
  | 2 => { w with vlan := if add then Tbl.put w.vlan k (bit (byteAt b (o + 5)) 0) else Tbl.del w.vlan k }
  | 3 => { w with ip4 := if add then Tbl.put w.ip4 k r else Tbl.del w.ip4 k }
  | 4 => { w with ip6 := if add then Tbl.put w.ip6 k r else Tbl.del w.ip6 k }
  | 5 => { w with nextHop := if add then Tbl.put w.nextHop k ⟨portOf (le b (o + 6) 2), le b (o + 0x1C) 6, le b (o + 0x22) 2⟩
                            else Tbl.del w.nextHop k }
  | _ => { w with ecmp := if add then Tbl.put w.ecmp k (le b (o + 0x1A) 2) else Tbl.del w.ecmp k }

/-- The tables keep the sizes of R376. -/
def fwdFits (w : Fwd) : Bool :=
  decide (w.l2.length ≤ 131072) && decide (w.ip4.length ≤ 262144) && decide (w.ip6.length ≤ 131072)

/-- ROUTE. -/
def execRoute (fn : Nat) (arg : Dma) (s : State) : Res :=
  onObj s (okFn fn)
    (match takeArg s fn 0x0032 (isPf fn) (fun n => decide (8 ≤ n) && decide (n ≤ 16777216)) arg with
     | .inl s => s
     | .inr (n, c, b) =>
       let k := le b 0 4
       if 1 ≤ k ∧ k ≤ 65536 ∧ c.argLen ≠ 8 + 64 * k then s.finish n stInvalidArg 0x18
       else if k = 0 ∨ 65536 < k then s.finish n stInvalidArg (argAt 0)
       else
         let os := (upTo k).map (fun i => 8 + 64 * i)
         match firstBad (rsvBytes b 4 8 ++ os.flatMap (routeFields b)) with
         | some o => s.finish n stInvalidArg (argAt o)
         | none =>
           startOn s fn n .routes (fun s =>
             let w := os.foldl (applyRoute fn b) s.fwd
             if !fwdFits w then s.finish n stResource 16
             else
               let s := os.foldl (fun s o => let (t, x) := routeKey b o; s.rewritten (.route t x)) { s with fwd := w }
               s.finish n stOk 0 k))

/-! STATS (R308, R336, R466). -/

/-- Counters of a scope; a management port keeps those of R375 but for PFC, a port all but WAKE_DROP. -/
def scopeCounters (scope : Nat) : List CName :=
  if scope = 2 then allCounters.filter (fun c => decide (26 ≤ c.spec.code) && decide (c.spec.code ≤ 43) && c.spec.idx.isNone)
  else allCounters.filter (fun c => c.spec.scope == scope && c != .wakeDrop)

/-- Names of the counters of a scope: counter, index, and name as the manual spells it. -/
def scopeNames (scope : Nat) : List (CName × Nat × String) :=
  (scopeCounters scope).flatMap (fun c => match c.spec.idx with
    | none => [(c, 0, c.spec.name)]
    | some (lo, hi) => ((upTo (hi + 1)).filter (fun i => decide (lo ≤ i))).map (fun i => (c, i, c.spec.name ++ "[" ++ toString i ++ "]")))

/-- A record: a name of up to 24 characters and a value. -/
def statRec (name : String) (v : Nat) : Bytes := padTo 24 ((ascii name).take 24) ++ leBytes 8 v

/-- Records of the objects a function owns. -/
def inventory (s : State) (fn : Nat) : List Bytes :=
  (List.filter (fun (p : Nat × Model) => p.2.owner == fn) s.models).map (fun p => statRec "MODEL_CTX" (p.1 + p.2.st * 2 ^ 16)) ++
  (List.filter (fun (p : Nat × Group) => p.2.owner == fn) s.groups).map (fun p => statRec "FOLD_GROUP" (p.1 + p.2.st * 2 ^ 16)) ++
  (List.filter (fun (p : Nat × Stake) =>
    if p.1 < 4096 then Tbl.has s.models p.1 && (s.model p.1).owner == fn
    else (match Tbl.find? s.groups (p.1 - 4096) with | some g => g.owner == fn | none => false)) s.place.stakes).map
    (fun p => statRec "STAKE" (p.1 % 4096 + p.1 / 4096 * 2 ^ 16))

/-- Counter records are written as far as OUT_LEN holds them whole; READ_CLEAR clears those it wrote. -/
def statsCounters (s : State) (n op scope obj room : Nat) : State :=
  let s := if op = 2 then s else settleAll s
  let t := if op = 2 then s.tu.latched.getD [] else s.counters
  let names := scopeNames scope
  let recs := names.map (fun x => statRec x.2.2 (cntGet t x.1 obj x.2.1))
  let recs := if op = 2 then statRec "LATCH_LIN" s.tu.latchLin :: recs else recs
  let w := min recs.length (room / 32)
  let s := if op = 1 then { s with counters := (names.take w).foldl (fun t x => Tbl.del t (cntKey x.1 obj x.2.1)) s.counters } else s
  s.finish n stOk 0 recs.length w (recs.take w).flatten

/-- A diagnostic read (R221, R308): the four kinds of content of a base-die window, of the caller's own objects. -/
def statsDiag (s : State) (fn n off len room : Nat) : State :=
  let k := s.freeCount
  let t := { s with freeCount := k + 1 }
  if !windowMine s fn k off len then t.finish n stInvalidArg (argAt 4)
  else t.finish n stOk 0 0 0 ((upTo (min len room)).map (fun i => windowAt s k (off + i)))

/-- Fields of the argument block that are not legal. -/
def statsBad (s : State) (b : Bytes) : Option Nat :=
  let scope := byteAt b 0
  let idx := le b 2 2
  let len := le b 8 4
  firstBad ([(0, decide (scope < 9)), (1, decide (byteAt b 1 < 3)),
    (2, match scope with
      | 1 => portNamed s idx | 2 => decide (idx < 2) | 3 => decide (idx < 7) | 5 => okCtx idx | 6 => okCtx idx | _ => true),
    (4, scope != 8 || decide (le b 4 4 < 2 ^ 31)), (8, scope != 8 || (decide (64 ≤ len) && decide (len ≤ 65536) && len % 64 == 0))] ++
    rsvBytes b 12 16)

/-- STATS. -/
def execStats (fn : Nat) (arg : Dma) (s : State) : Res :=
  onObj s (okFn fn)
    (match takeArg s fn 0x0052 true (· == 16) arg with
     | .inl s => s
     | .inr (n, c, b) =>
       let scope := byteAt b 0
       let op := byteAt b 1
       let idx := le b 2 2
       if c.outAddr % 64 ≠ 0 then s.finish n stInvalidArg 0x20
       else
         match statsBad s b with
         | some o => s.finish n stInvalidArg (argAt o)
         | none =>
           if scope < 5 ∧ isPf fn = false then s.finish n stInvalidArg notPermitted
           else
             startOn s fn n .none (fun s =>
               match scope with
               | 1 => statsCounters s n op 1 (portOf idx) c.outLen
               | 2 => statsCounters s n op 2 (65536 + idx) c.outLen
               | 3 => statsCounters s n op 3 idx c.outLen
               | 5 => if Tbl.has s.models idx && (s.model idx).owner == fn then statsCounters s n op 5 idx c.outLen
                      else s.finish n stNotFound 0
               | 6 => (match Tbl.find? s.groups idx with
                       | some g => if g.owner = fn then statsCounters s n op 6 idx c.outLen else s.finish n stNotFound 0
                       | none => s.finish n stNotFound 0)
               | 7 =>
                 let recs := inventory s fn
                 let w := min recs.length (c.outLen / 32)
                 s.finish n stOk 0 recs.length w (recs.take w).flatten
               | 8 => statsDiag s fn n (le b 4 4) (le b 8 4) c.outLen
               | _ => statsCounters s n op scope 0 c.outLen))

end Sys2Proof.Machine
end

