-- ==== Sys2Proof/Machine/Dispatch.lean ====
section
/-! DEFINITION. The meaning of each command: one arm per constructor, one call per arm. -/

namespace Sys2Proof.Machine

def exec (i : Instr) (s : State) : Host.Outcome State Fault Refusal :=
  match i with
  | .queryFrame port frame upset => Sys2Proof.Machine.execQueryFrame port frame upset s
  | .hostQuery fn ring req upset => Sys2Proof.Machine.execHostQuery fn ring req upset s
  | .commitVerdict req intact => Sys2Proof.Machine.execCommitVerdict req intact s
  | .retractSecondCopy req => Sys2Proof.Machine.execRetractSecondCopy req s
  | .gapWaitExpiry flow => Sys2Proof.Machine.execGapWaitExpiry flow s
  | .featurePresentation thread block prep => Sys2Proof.Machine.execFeaturePresentation thread block prep s
  | .treeLookup thread tree => Sys2Proof.Machine.execTreeLookup thread tree s
  | .combineMargin thread run => Sys2Proof.Machine.execCombineMargin thread run s
  | .replyBuild req read => Sys2Proof.Machine.execReplyBuild req read s
  | .replyPositionRelease req => Sys2Proof.Machine.execReplyPositionRelease req s
  | .egressTransmit port => Sys2Proof.Machine.execEgressTransmit port s
  | .streamStopTimeout port sent => Sys2Proof.Machine.execStreamStopTimeout port sent s
  | .hookBind thread => Sys2Proof.Machine.execHookBind thread s
  | .layerBind thread => Sys2Proof.Machine.execLayerBind thread s
  | .vseCyclesExceeded ctx => Sys2Proof.Machine.execVseCyclesExceeded ctx s
  | .addSubMul ctx => Sys2Proof.Machine.execAddSubMul ctx s
  | .andOrXor ctx => Sys2Proof.Machine.execAndOrXor ctx s
  | .shlShrSra ctx => Sys2Proof.Machine.execShlShrSra ctx s
  | .sltSltu ctx => Sys2Proof.Machine.execSltSltu ctx s
  | .minMax ctx => Sys2Proof.Machine.execMinMax ctx s
  | .faddFsubFmul ctx => Sys2Proof.Machine.execFaddFsubFmul ctx s
  | .ffma ctx => Sys2Proof.Machine.execFfma ctx s
  | .fdivFsqrt ctx => Sys2Proof.Machine.execFdivFsqrt ctx s
  | .fge ctx => Sys2Proof.Machine.execFge ctx s
  | .cvtfi ctx => Sys2Proof.Machine.execCvtfi ctx s
  | .cvtif ctx => Sys2Proof.Machine.execCvtif ctx s
  | .fexpFlog ctx => Sys2Proof.Machine.execFexpFlog ctx s
  | .rdfl ctx => Sys2Proof.Machine.execRdfl ctx s
  | .clrfl ctx => Sys2Proof.Machine.execClrfl ctx s
  | .addiShliSlti ctx => Sys2Proof.Machine.execAddiShliSlti ctx s
  | .movk ctx => Sys2Proof.Machine.execMovk ctx s
  | .vaddVsubVmul ctx => Sys2Proof.Machine.execVaddVsubVmul ctx s
  | .vfma ctx => Sys2Proof.Machine.execVfma ctx s
  | .vminVmax ctx => Sys2Proof.Machine.execVminVmax ctx s
  | .vdivVsqrt ctx => Sys2Proof.Machine.execVdivVsqrt ctx s
  | .vexpVlogVlgstVtanh ctx => Sys2Proof.Machine.execVexpVlogVlgstVtanh ctx s
  | .vandVorVxor ctx => Sys2Proof.Machine.execVandVorVxor ctx s
  | .vshlVshr ctx => Sys2Proof.Machine.execVshlVshr ctx s
  | .vcvt ctx => Sys2Proof.Machine.execVcvt ctx s
  | .vgeVeqVlt ctx => Sys2Proof.Machine.execVgeVeqVlt ctx s
  | .vmov ctx => Sys2Proof.Machine.execVmov ctx s
  | .vrsumVrmax ctx => Sys2Proof.Machine.execVrsumVrmax ctx s
  | .vpandVporVpnot ctx => Sys2Proof.Machine.execVpandVporVpnot ctx s
  | .viota ctx => Sys2Proof.Machine.execViota ctx s
  | .vshuf ctx => Sys2Proof.Machine.execVshuf ctx s
  | .ldl ctx => Sys2Proof.Machine.execLdl ctx s
  | .ldvl ctx => Sys2Proof.Machine.execLdvl ctx s
  | .gathl ctx => Sys2Proof.Machine.execGathl ctx s
  | .ldc ctx => Sys2Proof.Machine.execLdc ctx s
  | .stc ctx => Sys2Proof.Machine.execStc ctx s
  | .ldb ctx => Sys2Proof.Machine.execLdb ctx s
  | .ldvb ctx => Sys2Proof.Machine.execLdvb ctx s
  | .gathb ctx => Sys2Proof.Machine.execGathb ctx s
  | .asyncLoadComplete ctx tag bad => Sys2Proof.Machine.execAsyncLoadComplete ctx tag bad s
  | .br ctx => Sys2Proof.Machine.execBr ctx s
  | .bzBnzBltzBgez ctx => Sys2Proof.Machine.execBzBnzBltzBgez ctx s
  | .banyBnone ctx => Sys2Proof.Machine.execBanyBnone ctx s
  | .loopDec ctx => Sys2Proof.Machine.execLoopDec ctx s
  | .endRun ctx => Sys2Proof.Machine.execEndRun ctx s
  | .frd ctx => Sys2Proof.Machine.execFrd ctx s
  | .frdx ctx => Sys2Proof.Machine.execFrdx ctx s
  | .frdv ctx => Sys2Proof.Machine.execFrdv ctx s
  | .hout ctx => Sys2Proof.Machine.execHout ctx s
  | .emit ctx => Sys2Proof.Machine.execEmit ctx s
  | .refuse ctx => Sys2Proof.Machine.execRefuse ctx s
  | .geta ctx => Sys2Proof.Machine.execGeta ctx s
  | .puta ctx => Sys2Proof.Machine.execPuta ctx s
  | .gete ctx => Sys2Proof.Machine.execGete ctx s
  | .yieldIssue ctx => Sys2Proof.Machine.execYieldIssue ctx s
  | .waitg ctx => Sys2Proof.Machine.execWaitg ctx s
  | .waitall ctx => Sys2Proof.Machine.execWaitall ctx s
  | .arrayBatch block model layer => Sys2Proof.Machine.execArrayBatch block model layer s
  | .arrayPassDone block => Sys2Proof.Machine.execArrayPassDone block s
  | .arrayIdleGate block => Sys2Proof.Machine.execArrayIdleGate block s
  | .bagGatherComplete thread bag => Sys2Proof.Machine.execBagGatherComplete thread bag s
  | .contrib port frame poisoned => Sys2Proof.Machine.execContrib port frame poisoned s
  | .partialFrame port frame poisoned => Sys2Proof.Machine.execPartialFrame port frame poisoned s
  | .spillRestore die poisoned => Sys2Proof.Machine.execSpillRestore die poisoned s
  | .foldCheckVerdict group pos run => Sys2Proof.Machine.execFoldCheckVerdict group pos run s
  | .foldResult port rx => Sys2Proof.Machine.execFoldResult port rx s
  | .foldAck port frame => Sys2Proof.Machine.execFoldAck port frame s
  | .noticeResend port frame => Sys2Proof.Machine.execNoticeResend port frame s
  | .noticeResendResult port frame => Sys2Proof.Machine.execNoticeResendResult port frame s
  | .noticeExpel port frame => Sys2Proof.Machine.execNoticeExpel port frame s
  | .noticeHold port frame => Sys2Proof.Machine.execNoticeHold port frame s
  | .noticeReleased port frame => Sys2Proof.Machine.execNoticeReleased port frame s
  | .noticeDeleted port frame => Sys2Proof.Machine.execNoticeDeleted port frame s
  | .noticeRestart port frame => Sys2Proof.Machine.execNoticeRestart port frame s
  | .noticeIllegal port frame => Sys2Proof.Machine.execNoticeIllegal port frame s
  | .digest port frame => Sys2Proof.Machine.execDigest port frame s
  | .digestWaitExpiry group step => Sys2Proof.Machine.execDigestWaitExpiry group step s
  | .hello port frame => Sys2Proof.Machine.execHello port frame s
  | .helloTx => Sys2Proof.Machine.execHelloTx s
  | .neighbourMissing port => Sys2Proof.Machine.execNeighbourMissing port s
  | .noOtherPathExpiry group => Sys2Proof.Machine.execNoOtherPathExpiry group s
  | .treeRebuildDone group gen parent => Sys2Proof.Machine.execTreeRebuildDone group gen parent s
  | .lldp port frame => Sys2Proof.Machine.execLldp port frame s
  | .macFrameRx port frame codewords syms => Sys2Proof.Machine.execMacFrameRx port frame codewords syms s
  | .pause port frame => Sys2Proof.Machine.execPause port frame s
  | .pfc port frame => Sys2Proof.Machine.execPfc port frame s
  | .pauseTimerExpiry port cls => Sys2Proof.Machine.execPauseTimerExpiry port cls s
  | .pauseRefresh port cls => Sys2Proof.Machine.execPauseRefresh port cls s
  | .linkHoldExpiry port => Sys2Proof.Machine.execLinkHoldExpiry port s
  | .linkDown port cause => Sys2Proof.Machine.execLinkDown port cause s
  | .mgmtFrameRx mg frame => Sys2Proof.Machine.execMgmtFrameRx mg frame s
  | .wakePatternMatch mg frame => Sys2Proof.Machine.execWakePatternMatch mg frame s
  | .forwardFrame port frame => Sys2Proof.Machine.execForwardFrame port frame s
  | .flowAgeExpiry flow => Sys2Proof.Machine.execFlowAgeExpiry flow s
  | .cpTx fn data => Sys2Proof.Machine.execCpTx fn data s
  | .blpRd link pkt => Sys2Proof.Machine.execBlpRd link pkt s
  | .blpWr link pkt => Sys2Proof.Machine.execBlpWr link pkt s
  | .blpAtomic link pkt => Sys2Proof.Machine.execBlpAtomic link pkt s
  | .blpCpl link pkt => Sys2Proof.Machine.execBlpCpl link pkt s
  | .blpCplAbort link seq => Sys2Proof.Machine.execBlpCplAbort link seq s
  | .blpAck link pkt => Sys2Proof.Machine.execBlpAck link pkt s
  | .blpNak link pkt => Sys2Proof.Machine.execBlpNak link pkt s
  | .blpAckTimer link => Sys2Proof.Machine.execBlpAckTimer link s
  | .blpReplayTimeout link => Sys2Proof.Machine.execBlpReplayTimeout link s
  | .blpTimeout dev tag => Sys2Proof.Machine.execBlpTimeout dev tag s
  | .blpMsg link pkt => Sys2Proof.Machine.execBlpMsg link pkt s
  | .blpQmsg link rx => Sys2Proof.Machine.execBlpQmsg link rx s
  | .routeSwitch far => Sys2Proof.Machine.execRouteSwitch far s
  | .trainingSet link lane set => Sys2Proof.Machine.execTrainingSet link lane set s
  | .trainGoodStable link => Sys2Proof.Machine.execTrainGoodStable link s
  | .trainTimeout link => Sys2Proof.Machine.execTrainTimeout link s
  | .trainIdleEnd link => Sys2Proof.Machine.execTrainIdleEnd link s
  | .laneLost link lane viol => Sys2Proof.Machine.execLaneLost link lane viol s
  | .retrainTimeout link => Sys2Proof.Machine.execRetrainTimeout link s
  | .laneFreeze link lane => Sys2Proof.Machine.execLaneFreeze link lane s
  | .exerciseSequence link errs => Sys2Proof.Machine.execExerciseSequence link errs s
  | .deepEntry link set => Sys2Proof.Machine.execDeepEntry link set s
  | .deepRefused link => Sys2Proof.Machine.execDeepRefused link s
  | .deepRetry link => Sys2Proof.Machine.execDeepRetry link s
  | .deepExit link => Sys2Proof.Machine.execDeepExit link s
  | .warmTrainTimeout link => Sys2Proof.Machine.execWarmTrainTimeout link s
  | .prbsSync lane bits errors => Sys2Proof.Machine.execPrbsSync lane bits errors s
  | .actionPulse slot => Sys2Proof.Machine.execActionPulse slot s
  | .pulseEnd pin => Sys2Proof.Machine.execPulseEnd pin s
  | .actionPps slot => Sys2Proof.Machine.execActionPps slot s
  | .actionTrigger slot sample => Sys2Proof.Machine.execActionTrigger slot sample s
  | .actionEvent slot => Sys2Proof.Machine.execActionEvent slot s
  | .actionSnapshot slot => Sys2Proof.Machine.execActionSnapshot slot s
  | .actionStep slot => Sys2Proof.Machine.execActionStep slot s
  | .stepApply => Sys2Proof.Machine.execStepApply s
  | .holdoverStart => Sys2Proof.Machine.execHoldoverStart s
  | .tinCapture pin rising => Sys2Proof.Machine.execTinCapture pin rising s
  | .captureDeliver => Sys2Proof.Machine.execCaptureDeliver s
  | .hardScrub word a b c => Sys2Proof.Machine.execHardScrub word a b c s
  | .hardRestored word source => Sys2Proof.Machine.execHardRestored word source s
  | .hbmScrub granule uncorrectable => Sys2Proof.Machine.execHbmScrub granule uncorrectable s
  | .dataRestored ctx sec block hit bad => Sys2Proof.Machine.execDataRestored ctx sec block hit bad s
  | .ruleScrub block bank entry flip => Sys2Proof.Machine.execRuleScrub block bank entry flip s
  | .faultScrubDone block bank failed => Sys2Proof.Machine.execFaultScrubDone block bank failed s
  | .bankRelocated block bank reps => Sys2Proof.Machine.execBankRelocated block bank reps s
  | .testDue block => Sys2Proof.Machine.execTestDue block s
  | .testDeferExpiry block target => Sys2Proof.Machine.execTestDeferExpiry block target s
  | .blockTest block results => Sys2Proof.Machine.execBlockTest block results s
  | .blockFailure block fault => Sys2Proof.Machine.execBlockFailure block fault s
  | .blockRemapSteer block target => Sys2Proof.Machine.execBlockRemapSteer block target s
  | .sequencerHeartbeatMiss block => Sys2Proof.Machine.execSequencerHeartbeatMiss block s
  | .coreRestart core takeover => Sys2Proof.Machine.execCoreRestart core takeover s
  | .spFailover sp core => Sys2Proof.Machine.execSpFailover sp core s
  | .stackLost stack cause => Sys2Proof.Machine.execStackLost stack cause s
  | .clockStall domain die => Sys2Proof.Machine.execClockStall domain die s
  | .fenced cause unitKind unit => Sys2Proof.Machine.execFenced cause unitKind unit s
  | .eventCoalesceFlush key => Sys2Proof.Machine.execEventCoalesceFlush key s
  | .placementSample ctx measured add => Sys2Proof.Machine.execPlacementSample ctx measured add s
  | .migrationLoadDone mig => Sys2Proof.Machine.execMigrationLoadDone mig s
  | .flowHomeMove flow => Sys2Proof.Machine.execFlowHomeMove flow s
  | .migrationDone mig => Sys2Proof.Machine.execMigrationDone mig s
  | .shadowSwitch ctx => Sys2Proof.Machine.execShadowSwitch ctx s
  | .drainDeadline ctx => Sys2Proof.Machine.execDrainDeadline ctx s
  | .modelDrainEnd ctx => Sys2Proof.Machine.execModelDrainEnd ctx s
  | .flowRemoveDone flow => Sys2Proof.Machine.execFlowRemoveDone flow s
  | .ringPoll fn ring pi descs => Sys2Proof.Machine.execRingPoll fn ring pi descs s
  | .deviceRingCiPoll fn ring ci => Sys2Proof.Machine.execDeviceRingCiPoll fn ring ci s
  | .msixModerationExpiry fn ring => Sys2Proof.Machine.execMsixModerationExpiry fn ring s
  | .functionLevelReset fn => Sys2Proof.Machine.execFunctionLevelReset fn s
  | .busMasterClear fn => Sys2Proof.Machine.execBusMasterClear fn s
  | .modelLoad fn arg image place => Sys2Proof.Machine.execModelLoad fn arg image place s
  | .modelEnable fn arg => Sys2Proof.Machine.execModelEnable fn arg s
  | .modelDisable fn arg => Sys2Proof.Machine.execModelDisable fn arg s
  | .modelUnload fn arg => Sys2Proof.Machine.execModelUnload fn arg s
  | .flowConfig fn arg => Sys2Proof.Machine.execFlowConfig fn arg s
  | .groupCreate fn arg place => Sys2Proof.Machine.execGroupCreate fn arg place s
  | .groupMember fn arg => Sys2Proof.Machine.execGroupMember fn arg s
  | .groupDelete fn arg => Sys2Proof.Machine.execGroupDelete fn arg s
  | .groupDigest fn arg => Sys2Proof.Machine.execGroupDigest fn arg s
  | .groupRelease fn arg => Sys2Proof.Machine.execGroupRelease fn arg s
  | .portPlan fn arg => Sys2Proof.Machine.execPortPlan fn arg s
  | .portConfig fn arg => Sys2Proof.Machine.execPortConfig fn arg s
  | .route fn arg => Sys2Proof.Machine.execRoute fn arg s
  | .timeAction fn arg => Sys2Proof.Machine.execTimeAction fn arg s
  | .testRun fn arg => Sys2Proof.Machine.execTestRun fn arg s
  | .stake fn arg moves => Sys2Proof.Machine.execStake fn arg moves s
  | .stats fn arg => Sys2Proof.Machine.execStats fn arg s
  | .fwStage fn arg image => Sys2Proof.Machine.execFwStage fn arg image s
  | .fwActivate fn restarted => Sys2Proof.Machine.execFwActivate fn restarted s
  | .flashProgramDone ok => Sys2Proof.Machine.execFlashProgramDone ok s
  | .powerState fn arg => Sys2Proof.Machine.execPowerState fn arg s
  | .tuIncCommit fn value => Sys2Proof.Machine.execTuIncCommit fn value s
  | .tuStepArm fn value => Sys2Proof.Machine.execTuStepArm fn value s
  | .tuSnapLatch fn => Sys2Proof.Machine.execTuSnapLatch fn s
  | .blLaneCntLatch fn link lane => Sys2Proof.Machine.execBlLaneCntLatch fn link lane s
  | .tileLaneCntLatch fn tile lane => Sys2Proof.Machine.execTileLaneCntLatch fn tile lane s
  | .blockLiveLatch fn => Sys2Proof.Machine.execBlockLiveLatch fn s
  | .cntClr fn lane value => Sys2Proof.Machine.execCntClr fn lane value s
  | .inject fn lane value => Sys2Proof.Machine.execInject fn lane value s
  | .testModeWrite fn lane value => Sys2Proof.Machine.execTestModeWrite fn lane value s
  | .pushLenWrite fn value => Sys2Proof.Machine.execPushLenWrite fn value s
  | .pushImageDone image => Sys2Proof.Machine.execPushImageDone image s
  | .pwrReqWrite fn value => Sys2Proof.Machine.execPwrReqWrite fn value s
  | .ringEnable fn ring => Sys2Proof.Machine.execRingEnable fn ring s
  | .ringDisable fn ring => Sys2Proof.Machine.execRingDisable fn ring s
  | .qholdWrite fn value => Sys2Proof.Machine.execQholdWrite fn value s
  | .qholdShrinkDone => Sys2Proof.Machine.execQholdShrinkDone s
  | .standbyWrite fn value => Sys2Proof.Machine.execStandbyWrite fn value s
  | .testIntervalWrite fn value => Sys2Proof.Machine.execTestIntervalWrite fn value s
  | .testDeferWrite fn value => Sys2Proof.Machine.execTestDeferWrite fn value s
  | .registerWrite fn off value => Sys2Proof.Machine.execRegisterWrite fn off value s
  | .sysReset => Sys2Proof.Machine.execSysReset s
  | .effectiveRelease bootSrc boardPos profile => Sys2Proof.Machine.execEffectiveRelease bootSrc boardPos profile s
  | .bootFlash config image => Sys2Proof.Machine.execBootFlash config image s
  | .bootStartTimeout => Sys2Proof.Machine.execBootStartTimeout s
  | .vinApplied => Sys2Proof.Machine.execVinApplied s
  | .vinUv => Sys2Proof.Machine.execVinUv s
  | .vinOv => Sys2Proof.Machine.execVinOv s
  | .tileFault tile => Sys2Proof.Machine.execTileFault tile s
  | .overTemp kind die => Sys2Proof.Machine.execOverTemp kind die s
  | .keepaliveLoss => Sys2Proof.Machine.execKeepaliveLoss s
  | .telemetrySample sample => Sys2Proof.Machine.execTelemetrySample sample s
  | .stateEntry => Sys2Proof.Machine.execStateEntry s
  | .egressDrainExpiry => Sys2Proof.Machine.execEgressDrainExpiry s
  | .stateExit => Sys2Proof.Machine.execStateExit s
  | .wakeN => Sys2Proof.Machine.execWakeN s
  | .pcieWake hostPort => Sys2Proof.Machine.execPcieWake hostPort s
  | .pfAttachChange fn attach => Sys2Proof.Machine.execPfAttachChange fn attach s
  | .pcieLinkChange hostPort up => Sys2Proof.Machine.execPcieLinkChange hostPort up s
  | .clearFaults => Sys2Proof.Machine.execClearFaults s
  | .statusWord => Sys2Proof.Machine.execStatusWord s
  | .statusInput => Sys2Proof.Machine.execStatusInput s
  | .statusTemperature => Sys2Proof.Machine.execStatusTemperature s
  | .readVin => Sys2Proof.Machine.execReadVin s
  | .readIin => Sys2Proof.Machine.execReadIin s
  | .readPin => Sys2Proof.Machine.execReadPin s
  | .readTemperature1 => Sys2Proof.Machine.execReadTemperature1 s
  | .readTemperature2 => Sys2Proof.Machine.execReadTemperature2 s
  | .pmbusRevision => Sys2Proof.Machine.execPmbusRevision s
  | .mfrState => Sys2Proof.Machine.execMfrState s
  | .mfrFaultRecord => Sys2Proof.Machine.execMfrFaultRecord s
  | .mfrTileIin => Sys2Proof.Machine.execMfrTileIin s
  | .mfrSample => Sys2Proof.Machine.execMfrSample s
  | .pmbusUnsupported code => Sys2Proof.Machine.execPmbusUnsupported code s
  | .clockReturn domain => Sys2Proof.Machine.execClockReturn domain s
  | .laserLow tile milliwatt => Sys2Proof.Machine.execLaserLow tile milliwatt s
  | .noticeWindow port frame => Sys2Proof.Machine.execNoticeWindow port frame s
  | .noticeFailed port frame => Sys2Proof.Machine.execNoticeFailed port frame s
  | .foldTypeIllegal port frame => Sys2Proof.Machine.execFoldTypeIllegal port frame s
  | .blpIllegal link pkt => Sys2Proof.Machine.execBlpIllegal link pkt s
  | .blpPacketDiscard link pkt aborted viol => Sys2Proof.Machine.execBlpPacketDiscard link pkt aborted viol s
  | .apertureAccess fn off len write => Sys2Proof.Machine.execApertureAccess fn off len write s
  | .busMasterSet fn => Sys2Proof.Machine.execBusMasterSet fn s
  | .wakeNHigh => Sys2Proof.Machine.execWakeNHigh s
  | .hbmTrained => Sys2Proof.Machine.execHbmTrained s
  | .activateMigrationTimeout => Sys2Proof.Machine.execActivateMigrationTimeout s

end Sys2Proof.Machine
end

