-- ==== Sys2Proof/Machine/Idle.lean ====
section
/-! DEFINITION. What a CCLK cycle does when no command waits (log 2): time passes, register writes whose votes are
over take effect (R541), fold frames above RES are handled as room comes (R265). -/

namespace Sys2Proof.Machine

/-- One CCLK cycle of the block on its own. -/
def idleCycle (s : State) : State := drainFold (applyVotes (tickCycle s))

end Sys2Proof.Machine
end

