-- ==== Sys2Proof/Safety.lean ====
section
/-! DEFINITION. The terms the statements use: when a stage-program instruction issues and what it leaves alone, what every
command leaves alone, and the well-kept state. -/

namespace Sys2Proof.Machine

/-! What no command but a reset moves: time, the queue; and the parts of the state the whole-machine rules speak of. -/

/-- Time, the queue, HBM, FENCED and the boot state. -/
structure Steady where
  now : Nat
  cycle : Nat
  hbm : List Host.Cell
  fenced : Bool
  bootSt : Nat
  pending : List Instr
  deriving DecidableEq, Repr

/-- The steady part of a state. -/
def State.steady (s : State) : Steady := ⟨s.now, s.cycle, s.hbm, s.power.fenced, s.boot.st, s.pending⟩

/-- The command resets the device: SYS_RESET_N, or the loss of the lantern island's supply (R301, R486). -/
def isReset (c : Instr) : Bool :=
  match c with
  | .sysReset => true
  | .keepaliveLoss => true
  | _ => false

/-! Stage programs (R150 to R163). -/

/-- Instruction `q` issues on context `c`: fetched, not waiting, none of its registers owed by a load, the turn its own, its block
in service, its context cycle within MAX_CYCLES. -/
def Issues (s : State) (c : Nat) (q : Issue) : Prop :=
  okVctx c = true ∧ fetchV s c = some q ∧ mayIssue s q.x = true ∧ stallsOnLoad q.x q.ins = false ∧
    vTurn s c q.x = true ∧ (s.block (vBlock c)).fenced = false ∧ q.c ≤ q.hdr.maxCycles

/-- `s` with context `c` as `x` after an issue, which moves the round robin of its class on; contexts that gave way to `c` do so
no longer. -/
def State.ran (s : State) (c : Nat) (x : VCtx) : State :=
  { s with vseLast := Tbl.put s.vseLast (c / 64 * 4 + x.cls) (c % 64),
           vctx := Tbl.put (Tbl.mapVals s.vctx (fun _ y => { y with yieldOn := y.yieldOn.filter (· != c) })) c x }

/-- The run goes on: its binding, and the context cycle of the issue. -/
def SameRun (q : Issue) (x : VCtx) : Prop :=
  x.thread = q.x.thread ∧ x.prog = q.x.prog ∧ x.layerRun = q.x.layerRun ∧ x.vregs = q.x.vregs ∧ x.cyc = q.c

/-- Scalar registers but `rd` keep their value. -/
def KeepsS (q : Issue) (x : VCtx) (rd : Option Nat) : Prop := ∀ r, some r ≠ rd → x.getS r = q.x.getS r
/-- Vector registers but `rd` keep their lanes. -/
def KeepsV (q : Issue) (x : VCtx) (rd : Option Nat) : Prop := ∀ r, some r ≠ rd → ∀ i, x.lane r i = q.x.lane r i
/-- Predicates but `rd` keep their value. -/
def KeepsP (q : Issue) (x : VCtx) (rd : Option Nat) : Prop := ∀ r, some r ≠ rd → x.getP r = q.x.getP r
/-- Pending loads and waits stay. -/
def KeepsLoads (q : Issue) (x : VCtx) : Prop := x.tags = q.x.tags ∧ x.wait = q.x.wait

/-- An instruction that goes on to the next one and changes at most one register of each kind. -/
def Next (q : Issue) (x : VCtx) (s v p : Option Nat) : Prop :=
  SameRun q x ∧ x.pc = q.x.pc + 1 ∧ KeepsS q x s ∧ KeepsV q x v ∧ KeepsP q x p ∧ KeepsLoads q x

/-- s[rd] as a 64-bit word. -/
def VCtx.word (x : VCtx) (r : Nat) : BitVec 64 := BitVec.ofNat 64 (x.getS r)

/-- The integer scalar operations of R157 on 64-bit words: OP 0x00 to 0x0C. -/
def intScalar (op : Nat) (a b : BitVec 64) : BitVec 64 :=
  match op with
  | 0x00 => a + b
  | 0x01 => a - b
  | 0x02 => a * b
  | 0x03 => a &&& b
  | 0x04 => a ||| b
  | 0x05 => a ^^^ b
  | 0x06 => a <<< (b.toNat % 64)
  | 0x07 => a >>> (b.toNat % 64)
  | 0x08 => a.sshiftRight (b.toNat % 64)
  | 0x09 => if a.slt b then 1 else 0
  | 0x0A => if a.ult b then 1 else 0
  | 0x0B => if b.slt a then b else a
  | _ => if b.slt a then a else b

/-- The integer lane operations of R157 on 32-bit words, `u` for U32; d is the old destination lane. -/
def intLane (op : Nat) (u : Bool) (a b d : BitVec 32) : BitVec 32 :=
  match op with
  | 0x00 => a + b
  | 0x01 => a - b
  | 0x02 => a * b
  | 0x03 => a * b + d
  | 0x04 => if (if u then b.ult a else b.slt a) then b else a
  | 0x05 => if (if u then b.ult a else b.slt a) then a else b
  | 0x0C => a &&& b
  | 0x0D => a ||| b
  | 0x0E => a ^^^ b
  | 0x0F => a <<< (b.toNat % 32)
  | 0x10 => if u then a >>> (b.toNat % 32) else a.sshiftRight (b.toNat % 32)
  | _ => a

/-- Operand B of a vector instruction in lane i: v[VB], or s[VB][31:0] in every lane (R156). -/
def opB (x : VCtx) (vb : Nat) (bc : Bool) (i : Nat) : Nat := if bc then x.getS vb % 2 ^ 32 else x.lane vb i

/-! Fold frames (R173 to R177, R216). -/

/-- The frame is a legal, good fold frame of a TYPE, whose UDP payload is `x.p`, on a port that handles it. -/
def FoldArrives (s : State) (port : Nat) (frame : Bytes) (ty : Nat) (x : FoldIn) : Prop :=
  okPort port = true ∧ (∃ ip, foldFrame s port frame = some (ip, x) ∧ foldLegal frame ip x = true ∧
    foldGood s port frame ip = true) ∧ fTy x.p = ty ∧ rxBlocked s port = false ∧ (s.port port).st ≠ .opened

/-- The port takes the frame at once: it lies within its group's RES (R265). -/
def Takes (s : State) (port : Nat) (frame : Bytes) (ty : Nat) (x : FoldIn) : Prop :=
  FoldArrives s port frame ty x ∧ withinRes s (fGroup x.p) port = true

/-- `s` after the frame has spent its group's receive tokens (R265). -/
def State.took (s : State) (port : Nat) (frame : Bytes) (x : FoldIn) : State := spendRes s (fGroup x.p) port frame.length

/-- Elements without their places in the side table. -/
def placeless (t : Tbl Elem) : Tbl Elem := Tbl.mapVals t (fun _ e => { e with idx := 0 })

/-- The frame names a group of this device that has not failed and is not lost, in its generation unless `anyGen`. -/
def InGroup (s : State) (x : FoldIn) (anyGen : Bool) (g : Group) : Prop :=
  Tbl.find? s.groups (fGroup x.p) = some g ∧ s.place.lost.any (fun l => l.obj == .group (fGroup x.p)) = false ∧ g.st ≠ 3 ∧
    (anyGen = true ∨ g.gen = fGen x.p)

/-- The position of the block the frame names. -/
def FoldIn.pos (x : FoldIn) (g : Group) : Nat := fStep x.p * g.nblk + fBlock x.p

/-! Packets of the board-link protocol (R228 to R234). -/

/-- Packet `p` arrives on link `l` complete, with a good CRC and the SEQ that is next. -/
def Arrives (s : State) (l : Nat) (p : Bytes) : Prop :=
  okLink l = true ∧ linkRx s l = true ∧ blpCrcOk p = true ∧ pkSeq p = (s.link l).rxSeq

/-- What accepting a packet on link `l` may change: the link, and what it sends. -/
def Accepted (s u : State) (l : Nat) : Prop :=
  u = { s with links := u.links, outs := u.outs } ∧ (u.link l).rxSeq = ((s.link l).rxSeq + 1) % 65536 ∧
    ∀ k, k ≠ l → u.link k = s.link k

/-! Host commands (R436, R443, R445, R454). -/

/-- The device runs the commands of a function, the next of them is `n`, with this OPCODE and descriptor. -/
def Offers (s : State) (fn op n : Nat) (c : Cmd) : Prop :=
  okFn fn = true ∧ s.live = true ∧ (s.fn fn).bme = true ∧ headCmd s fn op = some (n, c) ∧ Tbl.find? s.cmds n = some c

/-- The command on offer starts on object `o`: no earlier one of its ring runs on it, its reserved bytes are 0, and `b` is
its argument block. -/
def Starts (s : State) (fn op n : Nat) (o : ObjRef) (c : Cmd) (b : Bytes) : Prop :=
  Offers s fn op n c ∧ objBusy s fn n o = false ∧ c.badOff = none ∧ b.length = c.argLen

/-- `s` with command `n` started on an object. -/
def State.starting (s : State) (n : Nat) (o : ObjRef) : State :=
  { s with cmds := Tbl.modify s.cmds n (fun c => { c with started := true, obj := o }) }

end Sys2Proof.Machine
end

