-- ==== Sys2Proof/WellFormed.lean ====
section
/-! DEFINITION. Which commands are well-formed: each operand names an object the device has (chapter 01, R24, R150, R228,
R251, R328, R369, R397, R433, R447, R530, R538). -/

namespace Sys2Proof

open Sys2Proof.Machine

/-- The operands of a command name objects of the device. -/
def Instr.wf : Instr → Bool
  | .queryFrame port _ _ | .egressTransmit port | .streamStopTimeout port _ | .contrib port _ _ | .partialFrame port _ _
  | .foldResult port _ | .foldAck port _ | .noticeResend port _ | .noticeResendResult port _ | .noticeExpel port _
  | .noticeHold port _ | .noticeReleased port _ | .noticeDeleted port _ | .noticeRestart port _
  | .noticeIllegal port _ | .digest port _ | .hello port _ | .neighbourMissing port | .lldp port _
  | .macFrameRx port _ _ _ | .pause port _ | .pfc port _ | .linkHoldExpiry port | .forwardFrame port _
  | .noticeWindow port _ | .noticeFailed port _ | .foldTypeIllegal port _ => okPort port
  | .hostQuery fn ring _ _ => okFn fn && decide (ring < 4)
  | .commitVerdict _ _ | .retractSecondCopy _ | .replyBuild _ _ | .replyPositionRelease _ | .helloTx | .stepApply
  | .holdoverStart | .captureDeliver | .eventCoalesceFlush _ | .migrationLoadDone _ | .migrationDone _
  | .flashProgramDone _ | .pushImageDone _ | .qholdShrinkDone | .sysReset | .bootFlash _ _ | .bootStartTimeout
  | .vinApplied | .vinUv | .vinOv | .keepaliveLoss | .telemetrySample _ | .stateEntry | .egressDrainExpiry
  | .stateExit | .wakeN | .clearFaults | .statusWord | .statusInput | .statusTemperature | .readVin | .readIin
  | .readPin | .readTemperature1 | .readTemperature2 | .pmbusRevision | .mfrState | .mfrFaultRecord | .mfrTileIin
  | .mfrSample | .wakeNHigh | .hbmTrained | .activateMigrationTimeout => true
  | .gapWaitExpiry flow | .flowAgeExpiry flow | .flowHomeMove flow | .flowRemoveDone flow => okFlow flow
  | .featurePresentation thread block _ => okThread thread && okBlock block
  | .treeLookup thread _ | .combineMargin thread _ | .hookBind thread | .layerBind thread => okThread thread
  | .vseCyclesExceeded ctx | .addSubMul ctx | .andOrXor ctx | .shlShrSra ctx | .sltSltu ctx | .minMax ctx
  | .faddFsubFmul ctx | .ffma ctx | .fdivFsqrt ctx | .fge ctx | .cvtfi ctx | .cvtif ctx | .fexpFlog ctx | .rdfl ctx
  | .clrfl ctx | .addiShliSlti ctx | .movk ctx | .vaddVsubVmul ctx | .vfma ctx | .vminVmax ctx | .vdivVsqrt ctx
  | .vexpVlogVlgstVtanh ctx | .vandVorVxor ctx | .vshlVshr ctx | .vcvt ctx | .vgeVeqVlt ctx | .vmov ctx
  | .vrsumVrmax ctx | .vpandVporVpnot ctx | .viota ctx | .vshuf ctx | .ldl ctx | .ldvl ctx | .gathl ctx | .ldc ctx
  | .stc ctx | .ldb ctx | .ldvb ctx | .gathb ctx | .br ctx | .bzBnzBltzBgez ctx | .banyBnone ctx | .loopDec ctx
  | .endRun ctx | .frd ctx | .frdx ctx | .frdv ctx | .hout ctx | .emit ctx | .refuse ctx | .geta ctx | .puta ctx
  | .gete ctx | .yieldIssue ctx | .waitg ctx | .waitall ctx => okVctx ctx
  | .asyncLoadComplete ctx tag _ => okVctx ctx && decide (tag < 4)
  | .arrayBatch block model _ => okBlock block && okCtx model
  | .arrayPassDone block | .arrayIdleGate block | .testDue block | .blockTest block _
  | .sequencerHeartbeatMiss block => okBlock block
  | .bagGatherComplete thread bag => okThread thread && decide (bag < 16)
  | .spillRestore die _ => decide (die < 2)
  | .foldCheckVerdict group _ _ | .digestWaitExpiry group _ | .noOtherPathExpiry group => okCtx group
  | .treeRebuildDone group gen _ => okCtx group && decide (gen < 65536)
  | .pauseTimerExpiry port cls | .pauseRefresh port cls => okPort port && decide (cls < 9)
  | .linkDown port cause => okPort port && decide (cause < 32)
  | .mgmtFrameRx mg _ | .wakePatternMatch mg _ => okMgmt mg
  | .cpTx fn _ | .functionLevelReset fn | .busMasterClear fn | .modelLoad fn _ _ _ | .modelEnable fn _
  | .modelDisable fn _ | .modelUnload fn _ | .flowConfig fn _ | .groupCreate fn _ _ | .groupMember fn _
  | .groupDelete fn _ | .groupDigest fn _ | .groupRelease fn _ | .portPlan fn _ | .portConfig fn _ | .route fn _
  | .timeAction fn _ | .testRun fn _ | .stake fn _ _ | .stats fn _ | .fwStage fn _ _ | .fwActivate fn _
  | .powerState fn _ | .tuIncCommit fn _ | .tuStepArm fn _ | .tuSnapLatch fn | .blockLiveLatch fn
  | .pushLenWrite fn _ | .pwrReqWrite fn _ | .qholdWrite fn _ | .standbyWrite fn _ | .testIntervalWrite fn _
  | .testDeferWrite fn _ | .pfAttachChange fn _ | .busMasterSet fn => okFn fn
  | .blpRd link _ | .blpWr link _ | .blpAtomic link _ | .blpCpl link _ | .blpCplAbort link _ | .blpAck link _
  | .blpNak link _ | .blpAckTimer link | .blpReplayTimeout link | .blpMsg link _ | .blpQmsg link _
  | .trainGoodStable link | .trainTimeout link | .trainIdleEnd link | .retrainTimeout link | .exerciseSequence link _
  | .deepEntry link _ | .deepRefused link | .deepRetry link | .deepExit link | .warmTrainTimeout link
  | .blpIllegal link _ | .blpPacketDiscard link _ _ _ => okLink link
  | .blpTimeout dev tag => decide (dev < 8) && decide (tag < 4096)
  | .routeSwitch far => decide (far.dev < 8) && far.peers.all (fun d => decide (d < 8))
  | .trainingSet link lane _ | .laneLost link lane _ | .laneFreeze link lane => okLink link && decide (lane < 8)
  | .prbsSync lane _ _ => okLane lane
  | .actionPulse slot | .actionPps slot | .actionTrigger slot _ | .actionEvent slot | .actionSnapshot slot
  | .actionStep slot => okSlot slot
  | .pulseEnd pin | .tinCapture pin _ => decide (pin < 4)
  | .hardScrub w _ _ _ => hardOk w.obj
  | .hardRestored w source => hardOk w.obj && decide (source < 3)
  | .hbmScrub granule _ => decide (granule < hbmSize / 64)
  | .dataRestored ctx _ block _ _ => okCtx ctx && okBlock block
  | .ruleScrub block bank entry _ => okBlock block && decide (bank < 64) && decide (entry < 1024)
  | .faultScrubDone block bank failed => okBlock block && decide (bank < 64) && (match failed with | some e => decide (e < 1024) | none => true)
  | .bankRelocated block bank _ => okBlock block && decide (bank < 64)
  | .testDeferExpiry block target => okBlock block && (match target with | some t => okBlock t | none => true)
  | .blockFailure block f => okBlock block && decide (f.cause < 4) &&
      (match f.vse with | some u => f.cause == 3 && decide (u < 4) | none => true)
  | .blockRemapSteer block target => okBlock block && okBlock target
  | .coreRestart core takeover => decide (core < 16) && decide (takeover < 16)
  | .spFailover sp core => decide (sp < 20) && decide (core < 16)
  | .stackLost stack cause => decide (stack < 4) && decide (cause < 3)
  | .clockStall domain _ | .clockReturn domain => decide (domain < 9)
  | .fenced cause unitKind unit => decide (cause < 3) && decide (unitKind < 7) && decide (unit < 32)
  | .placementSample ctx _ _ | .shadowSwitch ctx | .drainDeadline ctx | .modelDrainEnd ctx => okCtx ctx
  | .ringPoll fn ring _ _ => okRing fn ring && hostRing ring
  | .deviceRingCiPoll fn ring _ | .msixModerationExpiry fn ring => okRing fn ring && !hostRing ring
  | .blLaneCntLatch fn link lane => okFn fn && okLink link && decide (lane < 8)
  | .tileLaneCntLatch fn tile lane => okFn fn && decide (tile < 16) && decide (lane < 64)
  | .cntClr fn lane _ | .inject fn lane _ | .testModeWrite fn lane _ => okFn fn && okLane lane
  | .ringEnable fn ring | .ringDisable fn ring => okRing fn ring
  | .registerWrite fn off _ => okFn fn && decide (off < (if fn % 64 = 0 then 0x100000 else 0x20000))
  | .effectiveRelease bootSrc boardPos profile => decide (bootSrc < 4) && decide (boardPos < 8) && decide (profile < 4)
  | .tileFault tile => decide (tile < 4)
  | .overTemp kind die => decide (1 ≤ kind) && decide (kind < 7) && decide (die < 32)
  | .pcieWake hostPort | .pcieLinkChange hostPort _ => decide (hostPort < 4)
  | .pmbusUnsupported code => decide (code < 256) && !pmbusCodes.contains code
  | .laserLow tile _ => decide (tile < 16)
  | .apertureAccess fn off len _ => okFn fn && decide (0 < len) && decide (off + len ≤ 2 ^ 32)

end Sys2Proof
end

