-- ==== Sys2Proof/Certificates/Slice0/Obligations.lean ====
section
/-! DEFINITION. The statements for the provers: what the rules of the specification say each command does. -/

open Sys2Proof Sys2Proof.Machine

/-! Stage programs (R150 to R167). -/

/-- R157, ADD to MAX: the 64-bit result of each integer scalar operation, every other register, FLAGS and everything
outside the context as before; the result is usable 4 cycles later (R153). -/
def Obligations.IntegerScalarResults : Prop :=
  ∀ (s : State) (c : Nat) (q : Issue) (op sd sa sb : Nat),
    Issues s c q → q.ins = .sca op sd sa sb → op ≤ 0x0C →
    ∃ x, x.word sd = intScalar op (q.x.word sa) (q.x.word sb) ∧ Next q x (some sd) none none ∧ x.flags = q.x.flags ∧
      Tbl.getD x.ready sd 0 = q.c + 4 ∧
      (op ≤ 2 → exec (.addSubMul c) s = .next (s.ran c x)) ∧
      (3 ≤ op → op ≤ 5 → exec (.andOrXor c) s = .next (s.ran c x)) ∧
      (6 ≤ op → op ≤ 8 → exec (.shlShrSra c) s = .next (s.ran c x)) ∧
      (op = 9 ∨ op = 0x0A → exec (.sltSltu c) s = .next (s.ran c x)) ∧
      (op = 0x0B ∨ op = 0x0C → exec (.minMax c) s = .next (s.ran c x))

/-- R157, ADDI to SLTI, MOVK0 to MOVK3, RDFL, CLRFL: the immediate forms compute as their register forms with IMM11
sign-extended, a MOVK replaces one quarter of its register, RDFL and CLRFL read and clear FLAGS. -/
def Obligations.ImmediateAndFlagForms : Prop :=
  ∀ (s : State) (c : Nat) (q : Issue), Issues s c q →
    (∀ op sd sa v, q.ins = .imm op sd sa v → op ∈ immOps →
      ∃ x, exec (.addiShliSlti c) s = .next (s.ran c x) ∧
        x.word sd = intScalar (immToSca op) (q.x.word sa) (BitVec.ofInt 64 v) ∧
        Next q x (some sd) none none ∧ x.flags = q.x.flags) ∧
    (∀ h sd v, q.ins = .movk h sd v → h < 4 → v < 2 ^ 16 →
      ∃ x, exec (.movk c) s = .next (s.ran c x) ∧
        (∀ i, i < 64 → (x.word sd).getLsbD i = if i / 16 = h then v.testBit (i % 16) else (q.x.word sd).getLsbD i) ∧
        Next q x (some sd) none none ∧ x.flags = q.x.flags) ∧
    (∀ sd sa sb, q.ins = .sca 0x1B sd sa sb →
      ∃ x, exec (.rdfl c) s = .next (s.ran c x) ∧ x.getS sd = q.x.flags % 2 ^ 64 ∧ Next q x (some sd) none none ∧
        x.flags = q.x.flags) ∧
    (∀ sd sa sb, q.ins = .sca 0x1C sd sa sb →
      ∃ x, exec (.clrfl c) s = .next (s.ran c x) ∧ x.flags = 0 ∧ Next q x none none none)

/-- R154, R157, FADD to FLOG: the binary32 operation on bits [31:0], its condition bits ORed into FLAGS, the result usable
after 4 cycles, or 12 for FDIV, FSQRT, FEXP and FLOG (R153). -/
def Obligations.FloatScalarResults : Prop :=
  ∀ (s : State) (c : Nat) (q : Issue) (op sd sa sb : Nat),
    Issues s c q → q.ins = .sca op sd sa sb → 0x10 ≤ op → op ≤ 0x1A →
    let a := q.x.getS sa % 2 ^ 32
    let b := q.x.getS sb % 2 ^ 32
    let r : Nat × Nat := match op with
      | 0x10 => fp32.add a b
      | 0x11 => fp32.sub a b
      | 0x12 => fp32.mul a b
      | 0x13 => fp32.fma a b (q.x.getS sd % 2 ^ 32)
      | 0x14 => fp32.div a b
      | 0x15 => fp32.sqrt a
      | 0x16 => (if fp32.ge a b then 1 else 0, fp32.cmpFlags a b)
      | 0x17 => (wrap 64 (fp32.toInt (-(2 ^ 63)) (2 ^ 63 - 1) a).1, (fp32.toInt (-(2 ^ 63)) (2 ^ 63 - 1) a).2)
      | 0x18 => fp32.ofInt (q.x.word sa).toInt
      | 0x19 => fp32.exp a
      | _ => fp32.log a
    ∃ x, x.getS sd = r.1 % 2 ^ 64 ∧ x.flags = q.x.flags ||| r.2 ∧ Next q x (some sd) none none ∧
      Tbl.getD x.ready sd 0 = q.c + (if op ∈ [0x14, 0x15, 0x19, 0x1A] then 12 else 4) ∧
      (op ≤ 0x12 → exec (.faddFsubFmul c) s = .next (s.ran c x)) ∧
      (op = 0x13 → exec (.ffma c) s = .next (s.ran c x)) ∧
      (op = 0x14 ∨ op = 0x15 → exec (.fdivFsqrt c) s = .next (s.ran c x)) ∧
      (op = 0x16 → exec (.fge c) s = .next (s.ran c x)) ∧
      (op = 0x17 → exec (.cvtfi c) s = .next (s.ran c x)) ∧
      (op = 0x18 → exec (.cvtif c) s = .next (s.ran c x)) ∧
      (op = 0x19 ∨ op = 0x1A → exec (.fexpFlog c) s = .next (s.ran c x))

/-- R156, R157, VADD to VSHR and VMOV: each guarded lane gets the lane operation in ET, every other lane keeps its value,
the guarded lanes' conditions are ORed into FLAGS. VSHR of F32 lanes is a free value (log 8). R157, VIOTA, VSHUF,
VCVT: lane numbers, a lane permutation, a conversion of each guarded lane from ET to VB[1:0]. -/
def Obligations.VectorResults : Prop :=
  (∀ (s : State) (c : Nat) (q : Issue) (op vd va vb pg et : Nat) (bc : Bool),
    Issues s c q → q.ins = .vec op vd va vb pg et bc → op ≤ 0x10 ∨ op = 0x15 → et ≤ 2 →
    let f : Nat → Nat × Nat := fun i =>
      let a := q.x.lane va i
      let b := opB q.x vb bc i
      let d := q.x.lane vd i
      let int := (intLane op (et == 2) (BitVec.ofNat 32 a) (BitVec.ofNat 32 b) (BitVec.ofNat 32 d)).toNat
      match op with
      | 0x00 => if et = 0 then fp32.add a b else (int, 0)
      | 0x01 => if et = 0 then fp32.sub a b else (int, 0)
      | 0x02 => if et = 0 then fp32.mul a b else (int, 0)
      | 0x03 => if et = 0 then fp32.fma a b d else (int, 0)
      | 0x04 => if et = 0 then fp32.min a b else (int, 0)
      | 0x05 => if et = 0 then fp32.max a b else (int, 0)
      | 0x06 => fp32.div a b
      | 0x07 => fp32.sqrt a
      | 0x08 => fp32.exp a
      | 0x09 => fp32.log a
      | 0x0A => fp32.logistic a
      | 0x0B => fp32.tanh a
      | 0x10 => if et = 0 then ((Config.vshrF32 (BitVec.ofNat 32 a) (BitVec.ofNat 32 (b % 32))).toNat, 0) else (int, 0)
      | _ => (int, 0)
    ∃ x, Next q x none (some vd) none ∧
      (∀ i, i < 256 → x.lane vd i = if bit (q.x.getP pg) i then (f i).1 % 2 ^ 32 else q.x.lane vd i) ∧
      (∀ k, x.flags.testBit k = (q.x.flags.testBit k ||
        (List.range 256).any (fun i => bit (q.x.getP pg) i && (f i).2.testBit k))) ∧
      (op ≤ 2 → exec (.vaddVsubVmul c) s = .next (s.ran c x)) ∧
      (op = 3 → exec (.vfma c) s = .next (s.ran c x)) ∧
      (op = 4 ∨ op = 5 → exec (.vminVmax c) s = .next (s.ran c x)) ∧
      (op = 6 ∨ op = 7 → exec (.vdivVsqrt c) s = .next (s.ran c x)) ∧
      (8 ≤ op → op ≤ 0x0B → exec (.vexpVlogVlgstVtanh c) s = .next (s.ran c x)) ∧
      (0x0C ≤ op → op ≤ 0x0E → exec (.vandVorVxor c) s = .next (s.ran c x)) ∧
      (op = 0x0F ∨ op = 0x10 → exec (.vshlVshr c) s = .next (s.ran c x)) ∧
      (op = 0x15 → exec (.vmov c) s = .next (s.ran c x))) ∧
  (∀ (s : State) (c : Nat) (q : Issue) (op vd va vb pg et : Nat) (bc : Bool),
    Issues s c q → q.ins = .vec op vd va vb pg et bc → op = 0x1B ∨ op = 0x1C ∨ op = 0x11 →
    let f : Nat → Nat := fun i =>
      if op = 0x1B then i
      else if op = 0x1C then q.x.lane va (opB q.x vb bc i % 256)
      else (cvtLane et (vb % 4) (q.x.lane va i)).1
    ∃ x, Next q x none (some vd) none ∧
      (∀ i, i < 256 → x.lane vd i = if bit (q.x.getP pg) i then f i % 2 ^ 32 else q.x.lane vd i) ∧
      (op ≠ 0x11 → x.flags = q.x.flags) ∧
      (op = 0x1B → exec (.viota c) s = .next (s.ran c x)) ∧
      (op = 0x1C → exec (.vshuf c) s = .next (s.ran c x)) ∧
      (op = 0x11 → exec (.vcvt c) s = .next (s.ran c x)))

/-- R156, R157, VGE, VEQ, VLT, VPAND, VPOR, VPNOT: the lanes of the predicate written; a guarded-off lane of a compare
gives 0, of a predicate operation keeps its bit; p0 still reads as all ones. R154, R157, VRSUM, VRMAX: the binary-tree
reduction of the active lanes into s[VD], inactive lanes entering as 0 or the least value. -/
def Obligations.PredicatesAndReductions : Prop :=
  (∀ (s : State) (c : Nat) (q : Issue) (op vd va vb pg et : Nat) (bc : Bool),
    Issues s c q → q.ins = .vec op vd va vb pg et bc →
    (0x12 ≤ op → op ≤ 0x14 → et ≤ 2 →
      ∃ x, exec (.vgeVeqVlt c) s = .next (s.ran c x) ∧ Next q x none none (some (vd % 8)) ∧
        (vd % 8 = 0 → x.getP 0 = 2 ^ 256 - 1) ∧
        (vd % 8 ≠ 0 → ∀ i, i < 256 → (x.getP (vd % 8)).testBit i =
          (bit (q.x.getP pg) i &&
            (let a := q.x.lane va i
             let b := opB q.x vb bc i
             if et = 0 then (if op = 0x12 then fp32.ge a b else if op = 0x13 then fp32.eqv a b else fp32.lt a b)
             else if et = 1 then
               (if op = 0x12 then (BitVec.ofNat 32 b).sle (BitVec.ofNat 32 a)
                else if op = 0x13 then a == b else (BitVec.ofNat 32 a).slt (BitVec.ofNat 32 b))
             else (if op = 0x12 then decide (b ≤ a) else if op = 0x13 then a == b else decide (a < b)))))) ∧
    (0x18 ≤ op → op ≤ 0x1A →
      ∃ x, exec (.vpandVporVpnot c) s = .next (s.ran c x) ∧ Next q x none none (some (vd % 8)) ∧ x.flags = q.x.flags ∧
        (vd % 8 = 0 → x.getP 0 = 2 ^ 256 - 1) ∧
        (vd % 8 ≠ 0 → ∀ i, i < 256 → (x.getP (vd % 8)).testBit i =
          (let a := (q.x.getP (va % 8)).testBit i
           let b := (q.x.getP (vb % 8)).testBit i
           if (q.x.getP pg).testBit i then (if op = 0x18 then a && b else if op = 0x19 then a || b else !a)
           else (q.x.getP (vd % 8)).testBit i)))) ∧
  (∀ (s : State) (c : Nat) (q : Issue) (op vd va vb pg et : Nat) (bc : Bool),
    Issues s c q → q.ins = .vec op vd va vb pg et bc → op = 0x16 ∨ op = 0x17 →
    let g : Nat → Nat → Nat × Nat := fun a b => vecLane (if op = 0x17 then 5 else 0) et a b 0
    let l := (List.range 256).map (fun i => if bit (q.x.getP pg) i then q.x.lane va i
      else if op = 0x16 then 0 else if et = 0 then 0xFF800000 else if et = 1 then 0x80000000 else 0)
    ∃ x, exec (.vrsumVrmax c) s = .next (s.ran c x) ∧ Next q x (some vd) none none ∧
      x.getS vd = (treeReduce g 8 l).1 % 2 ^ 64 ∧ x.flags = q.x.flags ||| (treeReduce g 8 l).2 ∧
      Tbl.getD x.ready vd 0 = q.c + 12)

/-- R155, R157, BR to LOOP: where the program counter goes, counted from the branch itself, and the register LOOP counts
down. R157, R168, R169, REFUSE and END: the context is freed; REFUSE answers the query 0x21; a hook that gave every
output its HOOK entries name is done, a final LAYER run that emitted every score leaves a finished thread, one that
did not a faulted one (R88, R164); another LAYER run hands the thread to the next layer. R163, R166, R167,
VSE_CYCLES_EXCEEDED: a run that cannot issue within MAX_CYCLES, or has stalled past them on its own loads, ends: its
context is freed, the exception counted and its query answered 0x30. -/
def Obligations.ControlFlow : Prop :=
  (∀ (s : State) (c : Nat) (q : Issue) (op sa : Nat) (off : Int),
    Issues s c q → q.ins = .ctl op sa off → op ≤ 7 →
    let a := (q.x.word sa).toInt
    let taken := match op with
      | 0 => true
      | 1 => a == 0
      | 2 => a != 0
      | 3 => decide (a < 0)
      | 4 => decide (0 ≤ a)
      | 5 => q.x.getP (sa % 8) != 0
      | 6 => q.x.getP (sa % 8) == 0
      | _ => q.x.word sa - 1 != 0
    ∃ x, SameRun q x ∧ KeepsS q x (if op = 7 then some sa else none) ∧ KeepsV q x none ∧ KeepsP q x none ∧ KeepsLoads q x ∧
      x.flags = q.x.flags ∧ x.pc = (if taken then ((q.x.pc : Int) + off).toNat else q.x.pc + 1) ∧
      (op = 7 → x.word sa = q.x.word sa - 1) ∧
      (op = 0 → exec (.br c) s = .next (s.ran c x)) ∧
      (1 ≤ op → op ≤ 4 → exec (.bzBnzBltzBgez c) s = .next (s.ran c x)) ∧
      (op = 5 ∨ op = 6 → exec (.banyBnone c) s = .next (s.ran c x)) ∧
      (op = 7 → exec (.loopDec c) s = .next (s.ran c x))) ∧
  (∀ (s : State) (c : Nat) (q : Issue), Issues s c q →
    (∀ rd sa v, q.ins = .thr 5 rd sa v →
      ∃ t, exec (.refuse c) s = .next t ∧ Tbl.find? t.vctx c = none ∧ (∀ p ∈ t.vctx, p.2.thread ≠ q.x.thread) ∧
        ∃ y, Tbl.find? t.threads q.x.thread = some y ∧ y.invalid = true ∧ y.done = true ∧ y.status = 0x21) ∧
    (∀ sa off, q.ins = .ctl 8 sa off →
      ∃ t, exec (.endRun c) s = .next t ∧ Tbl.find? t.vctx c = none ∧
        (q.x.layerRun = true → nlayer q.img ≤ q.t.layer + 1 →
          ∃ y, Tbl.find? t.threads q.x.thread = some y ∧ y.done = true ∧
            ((upTo (imgNout q.img)).all (fun j => Tbl.has q.t.scores j) = true → y.fault = q.t.fault) ∧
            ((upTo (imgNout q.img)).all (fun j => Tbl.has q.t.scores j) = false → y.fault = true)) ∧
        (q.x.layerRun = true → q.t.layer + 1 < nlayer q.img →
          ∃ y, Tbl.find? t.threads q.x.thread = some y ∧ y.layer = q.t.layer + 1 ∧ y.waitFrom = s.cycle ∧ y.scores = [] ∧
            y.phase = (if (layerAt q.img (q.t.layer + 1)).lkind = 0 then .bags else .array)) ∧
        (q.x.layerRun = false → (hookOutputs (prepSec q.img)).any (fun o => !Tbl.has q.t.hookOut o) = true →
          ∃ y, Tbl.find? t.threads q.x.thread = some y ∧ y.fault = true ∧ y.done = true) ∧
        (q.x.layerRun = false → (hookOutputs (prepSec q.img)).any (fun o => !Tbl.has q.t.hookOut o) = false →
          ∃ y, Tbl.find? t.threads q.x.thread = some y ∧ y.hook = .done))) ∧
  (∀ (s : State) (c : Nat) (q : Issue), okVctx c = true → fetchV s c = some q →
    q.hdr.maxCycles < q.c ∨ ((q.x.wait.isSome || stallsOnLoad q.x q.ins) = true ∧
      q.hdr.maxCycles ≤ q.x.cyc + (s.cycle - q.x.since - 1)) →
    ∃ t y, exec (.vseCyclesExceeded c) s = .next t ∧ Tbl.find? t.vctx c = none ∧
      (∀ p ∈ t.vctx, p.2.thread ≠ q.x.thread) ∧
      Tbl.find? t.threads q.x.thread = some y ∧ y.fault = true ∧ y.done = true ∧
      cntGet t.counters .vseExc q.t.model = sat64 (cntGet s.counters .vseExc q.t.model + 1))

/-- R157, R158: what FRD, FRDX, FRDV, GETA, GETE, YIELD, WAITG and WAITALL deliver: a raw feature, I sign-extended and F as
its bits; FRDX at or beyond FCOUNT takes FEATURE (R166); a lane of FRDV past the last raw feature reads 0; GETA and GETE
give the elements of the array output row and of a pooled bag; YIELD gives way to every other context of its class on
the VSE that could issue; WAITG and WAITALL leave issue exactly while their tags are pending. R150, R157, R166, LDL,
LDVL, GATHL, LDC: little-endian bytes of the program's constants or of the thread context, usable 4 cycles later (R153);
an address at or past the end, or an aligned one that runs past it, takes BOUNDS, a misaligned one inside MISALIGN; the
lowest faulting lane of a gather decides (log 12). -/
def Obligations.ReadForms : Prop :=
  (∀ (s : State) (c : Nat) (q : Issue) (op rd sa v : Nat), Issues s c q → q.ins = .thr op rd sa v →
    let i := (q.x.getS sa + v) % 2 ^ 64
    let raw := fun (u : Nat) => if acceptI (imgAccept q.img) = true then ((BitVec.ofNat 32 u).signExtend 64).toNat else u % 2 ^ 64
    (op = 0 → ∃ x, exec (.frd c) s = .next (s.ran c x) ∧ Next q x (some rd) none none ∧ x.flags = q.x.flags ∧
      ∀ u, q.t.raw[v]? = some u → x.getS rd = raw u) ∧
    (op = 1 → i < q.t.fcount →
      ∃ x, exec (.frdx c) s = .next (s.ran c x) ∧ Next q x (some rd) none none ∧ x.flags = q.x.flags ∧
        ∀ u, q.t.raw[i]? = some u → x.getS rd = raw u) ∧
    (op = 1 → q.t.fcount ≤ i → exec (.frdx c) s = .next (vException s c q.x q.t.model 5)) ∧
    (op = 2 → ∃ x, exec (.frdv c) s = .next (s.ran c x) ∧ Next q x none (some rd) none ∧ x.flags = q.x.flags ∧
      ∀ k, k < 256 → x.lane rd k = if i + k < q.t.raw.length then q.t.raw.getD (i + k) 0 % 2 ^ 32 else 0) ∧
    (op = 6 → ∃ x, exec (.geta c) s = .next (s.ran c x) ∧ Next q x none (some rd) none ∧ x.flags = q.x.flags ∧
      ∀ k, k < 256 → 256 * v + k < q.t.outRow.length → x.lane rd k = q.t.outRow.getD (256 * v + k) 0 % 2 ^ 32) ∧
    (op = 8 → ∃ x, exec (.gete c) s = .next (s.ran c x) ∧ Next q x none (some rd) none ∧ x.flags = q.x.flags ∧
      ∀ k, k < 256 → 256 * (v / 16 % 4) + k < (Tbl.getD q.t.bags (v % 16) []).length →
        x.lane rd k = (Tbl.getD q.t.bags (v % 16) []).getD (256 * (v / 16 % 4) + k) 0 % 2 ^ 32) ∧
    (op = 9 → ∃ x, exec (.yieldIssue c) s = .next (s.ran c x) ∧ Next q x none none none ∧ x.flags = q.x.flags ∧
      ∀ k, k ∈ x.yieldOn ↔ k ≠ c ∧ k / 64 = c / 64 ∧ canIssue s k = true ∧ ∃ y, (k, y) ∈ s.vctx ∧ y.cls = q.x.cls) ∧
    (op = 0x0A → ∃ x, exec (.waitg c) s = .next (s.ran c x) ∧ SameRun q x ∧ x.pc = q.x.pc + 1 ∧ KeepsS q x none ∧
      KeepsV q x none ∧ KeepsP q x none ∧ x.flags = q.x.flags ∧ x.tags = q.x.tags ∧
      x.wait = (if Tbl.has q.x.tags (v % 4) then some (v % 4) else none)) ∧
    (op = 0x0B → ∃ x, exec (.waitall c) s = .next (s.ran c x) ∧ SameRun q x ∧ x.pc = q.x.pc + 1 ∧ KeepsS q x none ∧
      KeepsV q x none ∧ KeepsP q x none ∧ x.flags = q.x.flags ∧ x.tags = q.x.tags ∧
      x.wait = (if q.x.tags = [] then none else some 4))) ∧
  (∀ (s : State) (c : Nat) (q : Issue), Issues s c q →
    let bounds := fun (a n al lim : Nat) => lim ≤ a ∨ (a % al = 0 ∧ lim < a + n)
    let misaligned := fun (a al lim : Nat) => a < lim ∧ a % al ≠ 0
    let inside := fun (a n al lim : Nat) => a % al = 0 ∧ a + n ≤ lim
    (∀ rd sa off, q.ins = .mem 0 rd sa off →
      let a := (q.x.getS sa + 8 * off) % 2 ^ 64
      (inside a 8 8 q.hdr.ldm →
        ∃ x, exec (.ldl c) s = .next (s.ran c x) ∧ x.getS rd = le (ldmBytes q) a 8 % 2 ^ 64 ∧
          Tbl.getD x.ready rd 0 = q.c + 4 ∧ Next q x (some rd) none none ∧ x.flags = q.x.flags) ∧
      (bounds a 8 8 q.hdr.ldm → exec (.ldl c) s = .next (vException s c q.x q.t.model 1)) ∧
      (misaligned a 8 q.hdr.ldm → exec (.ldl c) s = .next (vException s c q.x q.t.model 2))) ∧
    (∀ rd sa off, q.ins = .mem 1 rd sa off →
      let a := (q.x.getS sa + 64 * off) % 2 ^ 64
      (inside a 1024 64 q.hdr.ldm →
        ∃ x, exec (.ldvl c) s = .next (s.ran c x) ∧ Next q x none (some rd) none ∧ x.flags = q.x.flags ∧
          Tbl.getD x.ready (64 + rd) 0 = q.c + 4 ∧
          ∀ i, i < 256 → x.lane rd i = le (ldmBytes q) (a + 4 * i) 4 % 2 ^ 32) ∧
      (bounds a 1024 64 q.hdr.ldm → exec (.ldvl c) s = .next (vException s c q.x q.t.model 1)) ∧
      (misaligned a 64 q.hdr.ldm → exec (.ldvl c) s = .next (vException s c q.x q.t.model 2))) ∧
    (∀ rd sa vi sc pg tag, q.ins = .gath 2 rd sa vi sc pg tag →
      let a := fun i => (q.x.getS sa + q.x.lane vi i * 2 ^ sc) % 2 ^ 64
      let on := fun i => bit (q.x.getP pg) i = true
      ((∀ i, i < 256 → on i → inside (a i) 4 4 q.hdr.ldm) →
        ∃ x, exec (.gathl c) s = .next (s.ran c x) ∧ Next q x none (some rd) none ∧ x.flags = q.x.flags ∧
          Tbl.getD x.ready (64 + rd) 0 = q.c + 4 ∧
          ∀ i, i < 256 → x.lane rd i =
            if bit (q.x.getP pg) i then le (ldmBytes q) (a i) 4 % 2 ^ 32 else q.x.lane rd i) ∧
      (∀ i, i < 256 → on i → (∀ k, k < i → on k → inside (a k) 4 4 q.hdr.ldm) →
        (bounds (a i) 4 4 q.hdr.ldm → exec (.gathl c) s = .next (vException s c q.x q.t.model 1)) ∧
        (misaligned (a i) 4 q.hdr.ldm → exec (.gathl c) s = .next (vException s c q.x q.t.model 2)))) ∧
    (∀ rd sa off, q.ins = .mem 4 rd sa off →
      let a := (q.x.getS sa + 8 * off) % 2 ^ 64
      (inside a 8 8 256 →
        ∃ x, exec (.ldc c) s = .next (s.ran c x) ∧ x.getS rd = le (ctxBytes s q.x.thread q.t) a 8 % 2 ^ 64 ∧
          Tbl.getD x.ready rd 0 = q.c + 4 ∧ Next q x (some rd) none none ∧ x.flags = q.x.flags) ∧
      (bounds a 8 8 256 → exec (.ldc c) s = .next (vException s c q.x q.t.model 1)) ∧
      (misaligned a 8 256 → exec (.ldc c) s = .next (vException s c q.x q.t.model 2))))

/-- R157, R159, R165, STC, HOUT, EMIT, PUTA: what each writes into the thread. STC writes eight bytes of SCRATCH; below 0x80 or
at or past 256 it takes BOUNDS, misaligned in between MISALIGN (R166). PUTA converts the register to the input format of
the layer that takes it: the one that follows, or the attention layer itself. -/
def Obligations.ThreadWrites : Prop :=
  ∀ (s : State) (c : Nat) (q : Issue), Issues s c q →
    (∀ rd sa off, q.ins = .mem 5 rd sa off →
      let a := (q.x.getS sa + 8 * off) % 2 ^ 64
      (0x80 ≤ a → a + 8 ≤ 256 → a % 8 = 0 →
        ∃ x b, exec (.stc c) s = .next ((s.ran c x).updThread q.x.thread (fun _ => { q.t with scratch := b })) ∧
          Next q x none none none ∧ x.flags = q.x.flags ∧
          ∀ i, i < 128 → byteAt b i = if a ≤ 128 + i ∧ 128 + i < a + 8 then q.x.getS rd / 256 ^ (128 + i - a) % 256
            else byteAt (q.t.scratch.take 128) i) ∧
      (a < 0x80 ∨ 256 ≤ a → exec (.stc c) s = .next (vException s c q.x q.t.model 1)) ∧
      (0x80 ≤ a → a < 256 → a % 8 ≠ 0 → exec (.stc c) s = .next (vException s c q.x q.t.model 2))) ∧
    (∀ rd sa v, q.ins = .thr 3 rd sa v →
      ∃ x, exec (.hout c) s = .next ((s.ran c x).updThread q.x.thread (fun _ =>
          { q.t with hookOut := Tbl.put q.t.hookOut (v % 16) (q.x.getS sa % 2 ^ 32) })) ∧ Next q x none none none ∧
        x.flags = q.x.flags) ∧
    (∀ rd sa v, q.ins = .thr 4 rd sa v →
      ∃ x, exec (.emit c) s = .next ((s.ran c x).updThread q.x.thread (fun _ =>
          { q.t with scores := Tbl.put q.t.scores (v % 64) (q.x.getS sa % 2 ^ 32) })) ∧ Next q x none none none ∧
        x.flags = q.x.flags) ∧
    (∀ rd sa v, q.ins = .thr 7 rd sa v →
      let l := layerAt q.img (if (layerAt q.img q.t.layer).lkind = 2 then q.t.layer else q.t.layer + 1)
      ∃ x, exec (.puta c) s = .next ((s.ran c x).updThread q.x.thread (fun _ =>
          { q.t with inRow := Tbl.put q.t.inRow v (toInput l.afmt l.iscale (q.x.getV rd)) })) ∧ Next q x none none none ∧
        x.flags = q.x.flags)

/-- R157, R158, R165, LDB, LDVB, GATHB: the load is pending on its tag with its addresses, its destination owed, registers and
FLAGS as before; a misaligned address takes MISALIGN, an aligned one beyond 48 bits or outside the regions granted
BOARD_ADDR (R166), the lowest faulting lane of a gather deciding (log 12). R158, R163, R166, R225, R280,
ASYNC_LOAD_COMPLETE: once every address of a load lies in HBM of this device, granted and unpoisoned, the little-endian
bytes are in the destination, the tag free, a wait for it over and the cycles the context stalled on it context cycles;
a poisoned granule takes POISON and is consumed, an address no longer granted or of a lost region takes POISON and is
reported; while a granule of another device has no completion nothing lands. -/
def Obligations.BoardLoads : Prop :=
  (∀ (s : State) (c : Nat) (q : Issue), Issues s c q →
    let ok := fun a n al => a % al = 0 ∧ a < 2 ^ 48 ∧
      granted s (s.model q.t.model).owner q.t.model (a / 2 ^ 45) (a % 2 ^ 45) n = true
    let denied := fun a n al => a % al = 0 ∧ (2 ^ 48 ≤ a ∨
      granted s (s.model q.t.model).owner q.t.model (a / 2 ^ 45) (a % 2 ^ 45) n = false)
    let pends := fun (x : VCtx) (tag : Nat) (p : Pend) => SameRun q x ∧ x.pc = q.x.pc + 1 ∧ KeepsS q x none ∧ KeepsV q x none ∧
      KeepsP q x none ∧ x.flags = q.x.flags ∧ x.wait = q.x.wait ∧ x.tags = Tbl.put q.x.tags tag p
    (∀ rd sa off tag, q.ins = .ldb 8 rd sa off tag →
      let a := (q.x.getS sa + 8 * off) % 2 ^ 64
      (ok a 8 8 → ∃ x, exec (.ldb c) s = .next (issueLoads (s.ran c x) c) ∧
        pends x tag { dst := rd, addrs := [(0, a)], size := 8 }) ∧
      (a % 8 ≠ 0 → exec (.ldb c) s = .next (vException s c q.x q.t.model 2)) ∧
      (denied a 8 8 → exec (.ldb c) s = .next (vException s c q.x q.t.model 3))) ∧
    (∀ rd sa off tag, q.ins = .ldb 9 rd sa off tag →
      let a := (q.x.getS sa + 64 * off) % 2 ^ 64
      (ok a 1024 64 → ∃ x, exec (.ldvb c) s = .next (issueLoads (s.ran c x) c) ∧
        pends x tag { dst := 64 + rd, addrs := [(0, a)], size := 1024 }) ∧
      (a % 64 ≠ 0 → exec (.ldvb c) s = .next (vException s c q.x q.t.model 2)) ∧
      (denied a 1024 64 → exec (.ldvb c) s = .next (vException s c q.x q.t.model 3))) ∧
    (∀ rd sa vi sc pg tag, q.ins = .gath 10 rd sa vi sc pg tag →
      let a := fun i => (q.x.getS sa + q.x.lane vi i * 2 ^ sc) % 2 ^ 64
      let on := fun i => bit (q.x.getP pg) i = true
      ((∀ i, i < 256 → on i → ok (a i) 4 4) →
        ∃ x, exec (.gathb c) s = .next (issueLoads (s.ran c x) c) ∧
          pends x tag { dst := 64 + rd, size := 4,
                        addrs := ((List.range 256).filter (fun i => bit (q.x.getP pg) i)).map (fun i => (i, a i)) }) ∧
      (∀ i, i < 256 → on i → (∀ k, k < i → on k → ok (a k) 4 4) →
        (a i % 4 ≠ 0 → exec (.gathb c) s = .next (vException s c q.x q.t.model 2)) ∧
        (denied (a i) 4 4 → exec (.gathb c) s = .next (vException s c q.x q.t.model 3))))) ∧
  (∀ (s : State) (c tag : Nat) (x : VCtx) (t : Thread) (p : Pend),
    okVctx c = true → tag < 4 → Tbl.find? s.vctx c = some x → Tbl.find? s.threads x.thread = some t →
    Tbl.find? x.tags tag = some p →
    let owner := (s.model t.model).owner
    let here := fun a => a / 2 ^ 45 = s.boot.boardPos
    let mine := fun a => granted s owner t.model s.boot.boardPos (a % 2 ^ 45) p.size = true ∧
      regionLost s s.boot.boardPos (a % 2 ^ 45) = false
    let good := fun (e : Nat × Nat) => here e.2 ∧ mine e.2 ∧ s.poisoned (e.2 % 2 ^ 45) p.size = false
    ((∀ e ∈ p.addrs, good e) →
      ∃ y u, exec (.asyncLoadComplete c tag []) s = .next u ∧ Tbl.find? u.vctx c = some y ∧
        (∀ k, k ≠ c → Tbl.find? u.vctx k = Tbl.find? s.vctx k) ∧ Tbl.find? y.tags tag = none ∧
        (∀ k, k ≠ tag → Tbl.find? y.tags k = Tbl.find? x.tags k) ∧
        (x.wait = some tag → tag ≠ 4 → y.wait = none) ∧ (x.wait = some 4 → (y.wait = none ↔ y.tags = [])) ∧
        y.cyc = (if stallsOn s c tag x then x.cyc + (s.cycle - x.since - 1) else x.cyc) ∧
        y.pc = x.pc ∧ y.flags = x.flags ∧ u.threads = s.threads ∧ u.hbm = s.hbm ∧
        (∀ rd a, p = { dst := rd, addrs := [(0, a)], size := 8 } → rd < 64 →
          y.getS rd = leVal (Memory.read s.hbm (a % 2 ^ 45) 8) % 2 ^ 64 ∧ ∀ r, r ≠ rd → y.getS r = x.getS r) ∧
        (∀ rd a, p = { dst := 64 + rd, addrs := [(0, a)], size := 1024 } →
          ∀ i, i < 256 → y.lane rd i = le (Memory.read s.hbm (a % 2 ^ 45) 1024) (4 * i) 4 % 2 ^ 32) ∧
        (∀ rd, p.dst = 64 + rd → p.size = 4 → (p.addrs.map Prod.fst).Nodup → ∀ i, i < 256 →
          (∀ a, (i, a) ∈ p.addrs → y.lane rd i = leVal (Memory.read s.hbm (a % 2 ^ 45) 4) % 2 ^ 32) ∧
          ((∀ e ∈ p.addrs, e.1 ≠ i) → y.lane rd i = x.lane rd i))) ∧
    (∀ pre i a post, p.addrs = pre ++ (i, a) :: post → (∀ e ∈ pre, good e) → here a →
      (mine a → s.poisoned (a % 2 ^ 45) p.size = true →
        exec (.asyncLoadComplete c tag []) s = .next (vException (s.consumePoison t.model (a % 2 ^ 45)) c x t.model 4)) ∧
      (¬ mine a →
        exec (.asyncLoadComplete c tag []) s = .next (vException (s.isoDeny owner 0 (objCode 1 t.model) a) c x t.model 4))) ∧
    (∀ i a g, p.addrs = [(i, a)] → 0 < p.size → here a → mine a → s.poisoned (a % 2 ^ 45) p.size = false →
      a % 2 ^ 45 < g * 64 + 64 → g * 64 < a % 2 ^ 45 + p.size → bit s.place.stackLive (stackOf (g * 64)) = true →
      exec (.asyncLoadComplete c tag [g]) s =
        .next (vException ((poisonGranule s g).consumePoison t.model (a % 2 ^ 45)) c x t.model 4)) ∧
    (∀ a, p.addrs = [(0, a)] → ¬ here a →
      (boardGranules a p.size).any (fun g => (remoteGot s (.load c x.seed tag) g).isNone) = true →
        exec (.asyncLoadComplete c tag []) s = .next (issueLoads s c)))

/-- R152, R154, R162, HOOK_BIND and LAYER_BIND: the oldest thread waiting for a block's VSEs, with room for its vector
registers, gets the lowest free context of the VSE in service with the most free contexts of its class, lowest number
on a tie, at the program's start with FLAGS clear. -/
def Obligations.RunsBind : Prop :=
  ∀ (s : State) (th : Nat) (t : Thread), okThread th = true → Tbl.find? s.threads th = some t →
    let img := (s.verOf t).image
    let fits := fun (b v n : Nat) => (boundOn s b v).foldl (fun a x => a + x.vregs) 0 + n ≤ 256
    let most := fun (b v cls : Nat) => v < 4 ∧ v ∉ (s.block b).retiredVses ∧ 0 < freeCtx (boundOn s b v) cls ∧
      ∀ w, w < 4 → w ∉ (s.block b).retiredVses → freeCtx (boundOn s b w) cls ≤ freeCtx (boundOn s b v) cls ∧
        (w < v → freeCtx (boundOn s b w) cls < freeCtx (boundOn s b v) cls)
    (∀ pr v k, t.hook = .waiting → t.done = false → (s.block (th / 4096)).fenced = false →
      oldestWaiting s th (waitsHook (th / 4096)) = true →
      hookProg img = some pr → most (th / 4096) v 1 → fits (th / 4096) v (progHdr img pr).vregs →
      Tbl.freeKey s.vctx ((th / 4096 * 4 + v) * 64) 64 = some k →
      ∃ u x y, exec (.hookBind th) s = .next u ∧ Tbl.find? s.vctx k = none ∧ Tbl.find? u.vctx k = some x ∧
        x.thread = th ∧ x.prog = pr ∧ x.layerRun = false ∧ x.vregs = (progHdr img pr).vregs ∧ x.flags = 0 ∧ x.pc = 0 ∧ x.cyc = 0 ∧
        (∀ j, j ≠ k → Tbl.find? u.vctx j = Tbl.find? s.vctx j) ∧
        Tbl.find? u.threads th = some y ∧ y.hook = .bound) ∧
    (∀ v k, t.phase = .vector → t.done = false → (s.block (layerBlock s th t)).fenced = false →
      oldestWaiting s th (waitsVector s (layerBlock s th t)) = true → most (layerBlock s th t) v 2 →
      fits (layerBlock s th t) v (progHdr img (layerAt img t.layer).prog).vregs →
      Tbl.freeKey s.vctx ((layerBlock s th t * 4 + v) * 64) 64 = some k →
      ∃ u x y, exec (.layerBind th) s = .next u ∧ Tbl.find? s.vctx k = none ∧ Tbl.find? u.vctx k = some x ∧
        x.thread = th ∧ x.prog = (layerAt img t.layer).prog ∧ x.layerRun = true ∧
        x.vregs = (progHdr img (layerAt img t.layer).prog).vregs ∧ x.flags = 0 ∧ x.pc = 0 ∧ x.cyc = 0 ∧
        (∀ j, j ≠ k → Tbl.find? u.vctx j = Tbl.find? s.vctx j) ∧
        Tbl.find? u.threads th = some y ∧ y.phase = .running)

/-! Queries, replies and trees (R34 to R71, R101 to R123, R241, R242, R259 to R290). -/

/-- R36, R38, R46, R71, QUERY_FRAME and HOST_QUERY: a legal request is entered under the next number with what its header
says and one record per located query, all 0x20 where its context does not admit it and its flow is unknown; a request
read that failed is answered with RSTATUS 1. -/
def Obligations.RequestsEnter : Prop :=
  (∀ (s : State) (port : Nat) (frame : Bytes) (ip : Ip) (upset : Upset),
    okPort port = true → rxAlive s port = true → 64 ≤ frame.length →
    queryIp s frame (parsePkt s.dev.tpid frame) = some ip → rxBlocked s port = false → (s.port port).st ≠ .opened →
    sqfOk (udpPayload frame ip) = true →
    let b := udpPayload frame ip
    let l := parseQueries (byteAt b 4 % 64 + 1) (b.drop 16)
    ∃ t q, exec (.queryFrame port frame upset) s = .next t ∧ Tbl.find? t.reqs s.nextReq = some q ∧ t.nextReq = s.nextReq + 1 ∧
      q.src = .port port ∧ q.model = be b 2 2 / 16 ∧ q.flowId = be b 8 4 ∧ q.seq = be b 12 4 ∧ q.verdict = none ∧
      q.tArrive = s.cycle ∧ q.missing = l.2 ∧ q.recs.map QRec.qid = l.1.map QHead.qid ∧
      (admitsPort s (be b 2 2 / 16) port (parsePkt s.dev.tpid frame) = false → findFlow s false ip.src (be b 8 4) = none →
        ∀ r ∈ q.recs, r.status = 0x20 ∧ r.ready = true)) ∧
  (∀ (s : State) (fn ring : Nat) (d : Bytes) (rest : List Bytes) (req : Dma) (upset : Upset),
    okFn fn = true → ring < 4 → Tbl.getD (s.fn fn).queryQ ring [] = d :: rest → s.live = true → s.power.st = 0 →
    s.power.transit = .none → le d 0 8 % 4 = 0 → 28 ≤ le d 8 4 → le d 8 4 ≤ 262672 → allZero (slice d 0x0C 4) = true →
    allZero (d.drop 0x18) = true →
    let s' := s.updFn fn (fun f => { f with queryQ := Tbl.put f.queryQ ring rest })
    (∀ b, req = .data b → sqfOk (padTo (le d 8 4) (b.take (le d 8 4))) = true →
      ∃ t q, exec (.hostQuery fn ring req upset) s = .next t ∧ Tbl.find? t.reqs s.nextReq = some q ∧
        q.src = .host fn ring (le d 0x10 8) ∧ q.verdict = some true ∧ Tbl.getD (t.fn fn).queryQ ring [] = rest) ∧
    (∀ e, req = .err e → exec (.hostQuery fn ring req upset) s =
      .next (queueHostReply s' fn ring ⟨replyDesc 1 0 0 (le d 0x10 8) 0 0 0, [], none⟩)))

/-- R47, R48, R49, R60, R63, R289, COMMIT_VERDICT, RETRACT_SECOND_COPY, GAP_WAIT_EXPIRY: a good verdict stands; a bad one
ends the request's threads, frees its hold and withdraws its queued replies; the second RETRACT falls due once;
NEXT_SEQ moves on to the lowest number held ahead of the gap. R26, R47, R50, R69, R242, REPLY_BUILD and
REPLY_POSITION_RELEASE: the next record of a request whose position has come is built and its thread's slot is free;
past its deadline an admitted query's becomes 0x11, any other keeps its status; a record whose thread's context reads with
bad parity is not built, its thread is evaluated again (R277); the home block releases the position. -/
def Obligations.RepliesSettle : Prop :=
  ((∀ (s : State) (r : Nat) (q : Request), Tbl.find? s.reqs r = some q → q.verdict = none →
    (q.checksGood = true → ∃ t, exec (.commitVerdict r true) s = .next t ∧
      ∀ q', Tbl.find? t.reqs r = some q' → q'.verdict = some true) ∧
    (∀ intact, (q.checksGood && intact) = false → ∃ t, exec (.commitVerdict r intact) s = .next t ∧
      (∀ p ∈ t.threads, p.2.req ≠ r) ∧ (∀ p ∈ t.ports, ∀ f ∈ p.2.replyQ, f.kind ≠ .reply r) ∧
      ∀ q', Tbl.find? t.reqs r = some q' → q'.verdict = some false ∧ q'.granules = 0)) ∧
  (∀ (s : State) (r w : Nat) (q : Request), Tbl.find? s.reqs r = some q → q.retractAt = some w → w ≤ s.now →
    ∃ t, exec (.retractSecondCopy r) s = .next t ∧ ∀ q', Tbl.find? t.reqs r = some q' → q'.retractAt = none) ∧
  (∀ (s : State) (h k : Nat) (f : Flow) (q : Request), okFlow h = true → Tbl.find? s.flows h = some f → f.gapEnd ≠ 0 →
    f.gapEnd ≤ s.cycle → (k, q) ∈ flowReqs s h → heldAhead f q = true →
    (∀ p ∈ flowReqs s h, heldAhead f p.2 = true → seqDiff f q.seq ≤ seqDiff f p.2.seq) →
    (∀ p ∈ flowReqs s h, p.2.verdict = none) →
    ∃ t f', exec (.gapWaitExpiry h) s = .next t ∧ Tbl.find? t.flows h = some f' ∧
      f'.nextSeq = wrap 32 ((f.nextSeq : Int) + seqDiff f q.seq))) ∧
  (∀ (s : State) (r : Nat) (q : Request), Tbl.find? s.reqs r = some q → mayBuild s r q = true →
    (∀ (qi : Nat) (c : QRec), q.allBuilt = false → q.verdict ≠ some false → q.released = true →
      (q.recs.take qi).all QRec.built = true → q.recs[qi]? = some c → c.ready = true → c.built = false →
      (∃ t, exec (.replyBuild r ⟨qi, false⟩) s = .next t ∧
        (∀ n, c.thread = some n → Tbl.find? t.threads n = none) ∧
        ∀ q', Tbl.find? t.reqs r = some q' → ∃ c', q'.recs[qi]? = some c' ∧ c'.built = true ∧ c'.thread = none ∧
          c'.qid = c.qid ∧
          (∀ n x, c.thread = some n → Tbl.find? s.threads n = some x → c.early = false → c.status ≠ 0x31 →
            c'.status = if x.tDeadline < s.cycle then 0x11 else c.status) ∧
          (c.thread = none ∨ c.early = true ∨ c.status = 0x31 → c'.status = c.status)) ∧
      (∀ n, c.thread = some n → ∃ t q' c', exec (.replyBuild r ⟨qi, true⟩) s = .next t ∧ Tbl.find? t.reqs r = some q' ∧
        q'.recs[qi]? = some c' ∧ c'.built = false ∧ c'.thread = some n)) ∧
    (∃ t, exec (.replyPositionRelease r) s = .next t ∧ Tbl.find? t.reqs r = some { q with released := true } ∧
      (∀ k, k ≠ r → Tbl.find? t.reqs k = Tbl.find? s.reqs k) ∧ t = { s with reqs := t.reqs }))

/-- R107, R108, R109, R111, R113, R115, FEATURE_PRESENTATION and TREE_LOOKUP: the feature's predicate bits are valid on the
block, and trees whose trigger has fired and with no predicate open are queued; once every bank of a lookup is free for it and
its output sums are, exactly one matching entry gives the tree's leaf, any other number a fault. -/
def Obligations.TreesMatch : Prop :=
  ∀ (s : State) (th : Nat) (t : Thread), okThread th = true → Tbl.find? s.threads th = some t →
    let img := (s.verOf t).image
    (∀ (b prep v : Nat) (x : Slice), okBlock b = true → sliceOf s t b = some x → Tbl.find? t.prepd prep = some v →
      (s.block b).fenced = false → (waitingPreps s t b).contains prep = true →
      lanesFree s b t.tArrive (lanesOf img x prep) = true → (x.comps.map CompPl.bit).Nodup →
      ∃ u y, exec (.featurePresentation th b prep) s = .next u ∧ Tbl.find? u.threads th = some y ∧
        y.presented = (b * 4096 + prep) :: t.presented ∧
        (∀ c ∈ x.comps, thrPrep img c.pred = prep →
          Tbl.getD y.pvec (b * 4096 + c.bit) false = predBit img (prepSec img) (imgAccept img) c.pred v) ∧
        (∀ pl ∈ x.trees, triggered img y b pl.tree = true → treeReady img y b pl.tree = true → pl.tree ∈ y.queued ∨ Tbl.has y.matched pl.tree = true) ∧
        ∀ k, k ≠ th → Tbl.find? u.threads k = Tbl.find? s.threads k) ∧
    (∀ (tree : Nat) (x : Slice) (pl : TreePl), treePlace s t tree = some (x, pl) → t.done = false →
      t.queued.contains tree = true → (s.block x.block).fenced = false →
      (∀ k ∈ treeBanks img pl, bankServes s x.block k = true ∧ bankTurn s x.block k t.tArrive = true) →
      (∀ b ∈ sumsNeeded img th t x.block, sumsFree s img t b = true) →
      let hits := treeHits s img x pl (treeKey img x tree (fun b => Tbl.getD t.pvec (x.block * 4096 + b) false))
      ∃ u y, exec (.treeLookup th tree) s = .next u ∧ Tbl.find? u.threads th = some y ∧ y.queued = t.queued.erase tree ∧
        (∀ e, hits = [e] → Tbl.find? y.matched tree = some (e - pl.first) ∧ y.fault = t.fault ∧ u.counters = s.counters ∧
          (imgOrdered img = false → x.block ∈ y.sums ∧ th / 4096 ∈ y.sums)) ∧
        (hits = [] → y.fault = true ∧
          cntGet u.counters .treeNomatch t.model = sat64 (cntGet s.counters .treeNomatch t.model + 1)) ∧
        (2 ≤ hits.length → y.fault = true ∧
          cntGet u.counters .treeMultimatch t.model = sat64 (cntGet s.counters .treeMultimatch t.model + 1)))

/-- R115 to R123, R167, R168, R256, R285, COMBINE_MARGIN: a SUM_ORDERED thread begins its additions, at most 16 on a block and
the oldest first; once the additions are over, and for SOFTMAX a context is free (R151, R152), margins within their bounds
give the linked scores and a ready record; an exception of the SOFTMAX firmware is counted and answers 0x30; the first
margin out of bounds replays the thread, the second answers 0x30 and makes the holding blocks' tests due; a thread that
has faulted before is answered with its fault. -/
def Obligations.MarginsCombine : Prop :=
  ∀ (s : State) (th : Nat) (t : Thread), okThread th = true → Tbl.find? s.threads th = some t → t.done = false →
    let img := (s.verOf t).image
    imgKind img = 0 → allLeaves s t img = true → t.hook ≠ .waiting → t.hook ≠ .bound →
    (t.fault = true → ∃ u y, exec (.combineMargin th ⟨[], none⟩) s = .next u ∧ Tbl.find? u.threads th = some y ∧ y.done = true ∧
      y.status = t.status) ∧
    (t.fault = false → imgOrdered img = true → t.sumFrom = none →
      (sumTurn s th t = true →
        ∃ u, exec (.combineMargin th ⟨[], none⟩) s = .next u ∧ Tbl.find? u.threads th = some { t with sumFrom := some s.cycle } ∧
          u = { s with threads := u.threads }) ∧
      (16 ≤ summing s (th / 4096) → exec (.combineMargin th ⟨[], none⟩) s = .next s)) ∧
    (t.fault = false → (imgOrdered img = true → t.sumFrom ≠ none) → summed s img t = true →
      (imgLink img = 3 → ∃ v, chooseVse s (th / 4096) 1 = some v) →
      ((∀ j, j < imgNout img → marginOk (marginOf img t j) (boundOf img j) = true) →
        (∀ exc, okExc exc = true → imgLink img ≠ 3 ∨ exc = none →
          ∃ u y, exec (.combineMargin th ⟨[], exc⟩) s = .next u ∧ Tbl.find? u.threads th = some y ∧ y.done = true ∧
            y.scores.map Prod.snd = linkScores img ((upTo (imgNout img)).map (marginOf img t)) ∧
            ∀ q c, Tbl.find? s.reqs t.req = some q → q.recs[t.qi]? = some c →
              ∃ q' c', Tbl.find? u.reqs t.req = some q' ∧ q'.recs[t.qi]? = some c' ∧ c'.ready = true ∧ c'.status = t.status ∧
                (t.status = 0 → c'.scores = y.scores.map Prod.snd)) ∧
        (∀ e, okExc (some e) = true → imgLink img = 3 →
          ∃ u y, exec (.combineMargin th ⟨[], some e⟩) s = .next u ∧ Tbl.find? u.threads th = some y ∧ y.fault = true ∧
            y.done = true ∧ cntGet u.counters .vseExc t.model = sat64 (cntGet s.counters .vseExc t.model + 1))) ∧
      (∀ j m, j < imgNout img → marginOk (m % 2 ^ 32) (boundOf img j) = false →
        (t.replayed = false →
          ∃ u y, exec (.combineMargin th ⟨[(j, m)], none⟩) s = .next u ∧ Tbl.find? u.threads th = some y ∧ y.replayed = true) ∧
        (t.replayed = true →
          ∃ u y, exec (.combineMargin th ⟨[(j, m)], none⟩) s = .next u ∧ Tbl.find? u.threads th = some y ∧ y.fault = true ∧
            y.done = true ∧ ∀ b ∈ holders s t, (u.block b).testDue = some s.now)))

/-- R268, R287, R357, EGRESS_TRANSMIT and STREAM_STOP_TIMEOUT: an idle port starts the frame service picks, for its length
with preamble and gap; a frame whose time is over and whose verdict is known leaves with its FCS; a stopped stream
leaves padded to 8 bytes with an inverted FCS, is counted, and a reply or RETRACT is queued again at the head (R289). -/
def Obligations.FramesLeave : Prop :=
  ∀ (s : State) (port : Nat), okPort port = true →
    (∀ f x how, (s.port port).cur = none → txAlive s port = true →
      pickFrame (fillTokens s port) port ((fillTokens s port).port port) = some (f, x, how) →
      ∃ t g, exec (.egressTransmit port) s = .next t ∧
        (t.port port).cur = some (g, s.now + bytesPs s port (wireLen f.bytes + 20)) ∧ g.kind = f.kind ∧ g.recs = f.recs) ∧
    (∀ f e, (s.port port).cur = some (f, e) → e ≤ s.now → awaitsVerdict s f = false →
      ∃ t l, exec (.egressTransmit port) s = .next t ∧
        t.outs = s.outs ++ .frame port (withFcs (!f.bad && frameVerdict s f != some false) f.bytes) :: l) ∧
    (∀ f e, (s.port port).cur = some (f, e) → s.now < e ∨ awaitsVerdict s f = true →
      exec (.egressTransmit port) s = .next s) ∧
    (∀ f e sent, (s.port port).cur = some (f, e) →
      ∃ t l, exec (.streamStopTimeout port sent) s = .next t ∧
        t.outs = s.outs ++ .frame port (withFcs false (padMul 8 (f.bytes.take sent))) :: l ∧ (t.port port).cur = none ∧
        cntGet t.counters .stumpTx 0 = sat64 (cntGet s.counters .stumpTx 0 + 1) ∧
        ∀ r, f.kind = .reply r ∨ f.kind = .retract r → (t.port port).replyQ = f :: (s.port port).replyQ)

/-- R143, R148, R162, R505, ARRAY_BATCH, ARRAY_PASS_DONE, ARRAY_IDLE_GATE: a batch takes up to 64 waiting rows of one version,
the oldest first, against start credit where the array is gated; its rows, once every column of the layer is there, go on to
the vector stage where the layer has a program, else to the next layer; 2 µs without a row gate the array against credit. -/
def Obligations.ArraysRun : Prop :=
  ∀ (s : State) (b : Nat), okBlock b = true →
    (∀ (m layer : Nat) (p : Nat × Thread) (rest : List (Nat × Thread)), okCtx m = true →
      arrayWaiters s b m layer = p :: rest →
      let l := ((p :: rest).filter (fun x => x.2.ver == p.2.ver)).take 64
      l.length = 64 ∨ p.2.waitFrom + batchWait (s.verOf p.2).image ≤ s.cycle → (s.block b).batch = none →
      (s.block b).fenced = false → s.power.throttle = false → s.power.st = 0 → s.power.fenced = false →
      ((s.block b).gated = false ∨ hasCredit s = true →
        ∃ t, exec (.arrayBatch b m layer) s = .next t ∧ (t.block b).gated = false ∧
          (t.block b).batch = some ⟨m, p.2.ver, layer, l.map Prod.fst⟩ ∧
          (∀ k ∈ l.map Prod.fst, ∀ y, Tbl.find? t.threads k = some y → y.phase = .batch) ∧
          ((s.block b).gated = true → t.power.starts = recentStarts s ++ [s.now])) ∧
      ((s.block b).gated = true → hasCredit s = false → exec (.arrayBatch b m layer) s = .next (waitCredit s b))) ∧
    (∀ x : Batch, (s.block b).batch = some x → x.threads.Nodup →
      ∃ t, exec (.arrayPassDone b) s = .next t ∧ (t.block b).batch = none ∧ (t.block b).lastRow = s.now ∧
        ∀ n y p, n ∈ x.threads → Tbl.find? s.threads n = some y → y.phase = .batch → y.layer = x.layer → b ∈ y.parts →
          layerPart s y b = some p →
          let img := (s.verOf y).image
          let l := layerAt img y.layer
          let col := fun j => if p.first ≤ j ∧ j < p.first + p.cols then some (layerCol img l y j) else Tbl.find? y.colRow j
          (l.lkind ≠ 1 ∨ (p.first = 0 ∧ l.n ≤ p.cols) →
            (l.prog ≠ 0xFFFF → ∃ z, Tbl.find? t.threads n = some z ∧ z.phase = .vector ∧ z.inRow = [] ∧ z.outRow = layerOut img l y) ∧
            (l.prog = 0xFFFF → y.layer + 1 < nlayer img → ∃ z, Tbl.find? t.threads n = some z ∧ z.layer = y.layer + 1 ∧
              z.waitFrom = s.cycle)) ∧
          (l.lkind = 1 → ¬ (p.first = 0 ∧ l.n ≤ p.cols) →
            ((upTo l.n).all (fun j => (col j).isSome) = false → ∃ z, Tbl.find? t.threads n = some z ∧ z.phase = .batch ∧
              ∀ j, Tbl.find? z.colRow j = col j) ∧
            ((upTo l.n).all (fun j => (col j).isSome) = true → l.prog ≠ 0xFFFF →
              ∃ z, Tbl.find? t.threads n = some z ∧ z.phase = .vector ∧ z.outRow = (upTo l.n).map (fun j => (col j).getD 0)))) ∧
    ((s.block b).gated = false → (s.block b).batch = none → (s.block b).lastRow + 2000000 ≤ s.now → hasCredit s = true →
      ∃ t, exec (.arrayIdleGate b) s = .next t ∧ (t.block b).gated = true ∧ t.power.starts = recentStarts s ++ [s.now])

/-- R144, R147, R225, R262, R280, BAG_GATHER_COMPLETE: the bag holds the rows of the copy its replica uses, pooled, and a
layer's last bag goes on to the vector stage; a poisoned row faults the query and its model context, a refused one the
query. -/
def Obligations.BagsPool : Prop :=
  ∀ (s : State) (th bag : Nat) (t : Thread), okThread th = true → bag < 16 → Tbl.find? s.threads th = some t →
    t.phase = .bags → t.done = false → Tbl.has t.bags bag = false →
    let v := s.verOf t
    let l := layerAt v.image t.layer
    let d := bagAt v.image t.layer bag
    let dim := etabDim v.image d.table
    let fmt := etabFmt v.image d.table
    let size := etabRowBytes dim fmt
    let rows := (bagRows v.image t.raw d).getD []
    let copies := Tbl.getD v.tables d.table []
    let base := copies.getD (t.replica % max 1 copies.length) 0
    let owner := (s.model t.model).owner
    let at_ := rows.map (fun r => (0, base + r * etabStride dim fmt))
    bag < l.nbag →
    (∀ e ∈ at_, e.2 / 2 ^ 45 = s.boot.boardPos ∨ (granted s owner t.model (e.2 / 2 ^ 45) (e.2 % 2 ^ 45) size = true ∧
      regionLost s (e.2 / 2 ^ 45) (e.2 % 2 ^ 45) = false)) →
    (∀ b, readBoard s (.bag t.req t.qi bag) owner t.model size at_ = .data b →
      let pooled := poolRows d.mean dim ((chunks size rows.length b).map (rowFp32 fmt dim))
      ∃ u y, exec (.bagGatherComplete th bag) s = .next u ∧ Tbl.find? u.threads th = some y ∧
        ((upTo l.nbag).all (fun j => j == bag || Tbl.has t.bags j) = false → y.bags = Tbl.put t.bags bag pooled ∧
          y.phase = .bags) ∧
        ((upTo l.nbag).all (fun j => j == bag || Tbl.has t.bags j) = true → l.prog ≠ 0xFFFF →
          y.phase = .vector ∧ y.outRow = (Tbl.put t.bags bag pooled).flatMap Prod.snd)) ∧
    (∀ a, readBoard s (.bag t.req t.qi bag) owner t.model size at_ = .poison a →
      ∃ u y, exec (.bagGatherComplete th bag) s = .next u ∧ Tbl.find? u.threads th = some y ∧ y.fault = true ∧
        y.done = true ∧ (u.model t.model).st = 4) ∧
    (∀ a, readBoard s (.bag t.req t.qi bag) owner t.model size at_ = .denied a →
      ∃ u y, exec (.bagGatherComplete th bag) s = .next u ∧ Tbl.find? u.threads th = some y ∧ y.fault = true ∧
        y.done = true)

/-! Ports and forwarding (R171 to R175, R187, R253, R254, R354 to R391, R452, R453). -/

/-- R253, R254, R358, R359, R428, LINK_HOLD_EXPIRY, LINK_DOWN and LASER_LOW: a port of a tile with light comes up in the state its
plan and neighbour ask for, or a remote fault is over; a port that goes down drops its queues, clears its pause timers and
counts LINK_DOWN; LASER_LOW stands from below 40 mW until above 45 mW, and brings down every port of its tile and no other. -/
def Obligations.PortsComeAndGo : Prop :=
  (∀ (s : State) (port : Nat), okPort port = true → portExists s port = true → (s.port port).cfg.enable = true →
    s.power.fenced = false → s.power.st ≤ 1 → s.place.lost.any (fun l => l.obj == .port port) = false →
    dark s (port / 64) = false → (s.port port).physSince + (s.port port).cfg.linkHold * 1000000000 ≤ s.now →
    (portUp (s.port port) = true →
      exec (.linkHoldExpiry port) s = .next (s.updPort port (fun y => { y with remoteFault := false }))) ∧
    (portUp (s.port port) = false →
      ∃ t, exec (.linkHoldExpiry port) s = .next t ∧ (t.port port).st = stateFor s port (neighStatus s port) ∧
        (t.port port).remoteFault = false ∧
        (∀ k ∈ lanesOfPort s port, (Tbl.getD t.tileLanes k {}).signal = true ∧ (Tbl.getD t.tileLanes k {}).lock = true))) ∧
  (∀ (s : State) (port cause : Nat), okPort port = true → cause < 32 → portExists s port = true →
    (s.port port).cfg.enable = true → portUp (s.port port) = true →
    (cause % 4 = 3 → exec (.linkDown port cause) s =
      .next (s.updPort port (fun y => { y with remoteFault := true, physSince := s.now }))) ∧
    (cause % 4 ≠ 3 →
      ∃ t, exec (.linkDown port cause) s = .next t ∧ (t.port port).st = .down ∧ (t.port port).cur = none ∧
        (t.port port).replyQ = [] ∧ (t.port port).classQ = [] ∧ (t.port port).groupQ = [] ∧ (t.port port).pauseQ = [] ∧
        (t.port port).pause = {} ∧ (t.port port).pfc = [] ∧ (t.port port).cfg = (s.port port).cfg ∧
        cntGet t.counters .linkDown port = sat64 (cntGet s.counters .linkDown port + 1) ∧ t.hbm = s.hbm)) ∧
  ∀ (s : State) (tile mw : Nat), tile < 16 →
    ∃ t, exec (.laserLow tile mw) s = .next t ∧ Tbl.find? t.laserIn tile = some mw ∧
      (mw < 40 → tile ∈ t.laserLow ∧ ∀ p, p / 64 = tile → portUp (t.port p) = false) ∧
      (45 < mw → tile ∉ t.laserLow) ∧ (40 ≤ mw → mw ≤ 45 → (tile ∈ t.laserLow ↔ tile ∈ s.laserLow)) ∧
      (∀ k, k ≠ tile → (k ∈ t.laserLow ↔ k ∈ s.laserLow)) ∧
      (∀ p, p / 64 ≠ tile → (t.port p).st = (s.port p).st)

/-- R355, R361 to R364, R366, R428, R429, MAC_FRAME_RX, PAUSE, PFC, PAUSE_TIMER_EXPIRY and PAUSE_REFRESH: each received
frame moves exactly one of four counters on, and codewords and corrected symbols count for the port and its lanes; a
PAUSE or PFC outside the port's mode is counted as ignored, another leaves a timer as it is for 12 cycles and then runs
for its quanta; a timer at zero is cleared, one that runs is not; XOFF is sent again after half its quanta. -/
def Obligations.MacControlObeyed : Prop :=
  ∀ (s : State) (port : Nat), okPort port = true →
    (∀ (frame : Bytes) (a b c : Nat) (syms : List Nat), ctlAlive s port = true → macControl s port frame = none →
      let o := if frame.length < 64 then CName.rxRunt else if (s.port port).cfg.maxFrame < frame.length then .rxOversize
        else if fcsOk frame = false then .rxFcs else .rxOk
      ∃ t, exec (.macFrameRx port frame (a, b, c) syms) s = .next t ∧ t = { s with counters := t.counters, tileLanes := t.tileLanes } ∧
        (∀ k, k ∉ lanesOfPort s port → Tbl.find? t.tileLanes k = Tbl.find? s.tileLanes k) ∧
        (∀ i k n : Nat, (lanesOfPort s port)[i]? = some k → syms[i]? = some n → n ≠ 0 →
          (Tbl.getD t.tileLanes k {}).fecSym = sat32 ((Tbl.getD s.tileLanes k {}).fecSym + n)) ∧
        cntGet t.counters .fecCw port = sat64 (cntGet s.counters .fecCw port + a) ∧
        cntGet t.counters .fecCwCorr port = sat64 (cntGet s.counters .fecCwCorr port + b) ∧
        cntGet t.counters .fecCwUncorr port = sat64 (cntGet s.counters .fecCwUncorr port + c) ∧
        cntGet t.counters o port = sat64 (cntGet s.counters o port + 1) ∧
        ∀ n ∈ [CName.rxRunt, .rxOversize, .rxFcs, .rxOk], n ≠ o → cntGet t.counters n port = cntGet s.counters n port) ∧
    (∀ frame, ctlAlive s port = true → macControl s port frame = some 1 →
      ((s.port port).cfg.fcMode ≠ 1 → exec (.pause port frame) s = .next (s.count .rxFcIgnored port 1)) ∧
      ((s.port port).cfg.fcMode = 1 →
        ∃ t, exec (.pause port frame) s = .next t ∧
          (∀ u, s.now + 9600 ≤ u → (t.port port).pause.runs u = decide (u < s.now + 9600 + be frame 16 2 * quantumPs s port)) ∧
          (∀ u, s.now ≤ u → u < s.now + 9600 → (t.port port).pause.runs u = (s.port port).pause.runs u) ∧
          (t.port port).pfc = (s.port port).pfc ∧
          cntGet t.counters .rxPause port = sat64 (cntGet s.counters .rxPause port + 1))) ∧
    (∀ frame, ctlAlive s port = true → macControl s port frame = some 0x0101 →
      ((s.port port).cfg.fcMode ≠ 2 → exec (.pfc port frame) s = .next (s.count .rxFcIgnored port 1)) ∧
      ((s.port port).cfg.fcMode = 2 →
        ∃ t, exec (.pfc port frame) s = .next t ∧ (t.port port).pause = (s.port port).pause ∧ ∀ c, c < 8 →
          (bit (be frame 16 2) c = true → bit (s.port port).cfg.pfcClasses c = true →
            (∀ u, s.now + 9600 ≤ u → (Tbl.getD (t.port port).pfc c {}).runs u =
              decide (u < s.now + 9600 + be frame (18 + 2 * c) 2 * quantumPs s port)) ∧
            (∀ u, s.now ≤ u → u < s.now + 9600 →
              (Tbl.getD (t.port port).pfc c {}).runs u = (Tbl.getD (s.port port).pfc c {}).runs u) ∧
            cntGet t.counters .rxPfc port c = sat64 (cntGet s.counters .rxPfc port c + 1)) ∧
          ((bit (be frame 16 2) c && bit (s.port port).cfg.pfcClasses c) = false →
            Tbl.find? (t.port port).pfc c = Tbl.find? (s.port port).pfc c ∧
            cntGet t.counters .rxPfc port c = cntGet s.counters .rxPfc port c))) ∧
    ((pausedNow s (s.port port) = true → exec (.pauseTimerExpiry port 8) s = .next s) ∧
      ((∀ q ∈ (s.port port).pause.loads, q.1 ≤ s.now) → pausedNow s (s.port port) = false →
        ∃ t, exec (.pauseTimerExpiry port 8) s = .next t ∧ (t.port port).pause.loads = [] ∧ (t.port port).pfc = (s.port port).pfc)) ∧
    (∀ c x, c < 8 → Tbl.find? (s.port port).pfc c = some x →
      (x.runs s.now = true → exec (.pauseTimerExpiry port c) s = .next s) ∧
      ((∀ q ∈ x.loads, q.1 ≤ s.now) → x.runs s.now = false →
        ∃ t, exec (.pauseTimerExpiry port c) s = .next t ∧ Tbl.find? (t.port port).pfc c = none ∧
          ∀ d, d ≠ c → Tbl.find? (t.port port).pfc d = Tbl.find? (s.port port).pfc d)) ∧
    (∀ c w, c < 9 → Tbl.find? (s.port port).xoff c = some w →
      (s.now < w + (s.port port).cfg.pauseQuanta * quantumPs s port / 2 → exec (.pauseRefresh port c) s = .next s) ∧
      (w + (s.port port).cfg.pauseQuanta * quantumPs s port / 2 ≤ s.now →
        ∃ t, exec (.pauseRefresh port c) s = .next t ∧ Tbl.find? (t.port port).xoff c = some s.now ∧
          ((s.port port).cfg.macAddr ≠ 0 → portUp (s.port port) = true →
            (t.port port).pauseQ.getLast? = some
              { bytes := pauseBytes (s.port port).cfg.macAddr c (s.port port).cfg.pauseQuanta,
                kind := .pause (if c = 8 then none else some c) true })))

/-- R187, R253, R254, R359, R373, R374, HELLO, HELLO_TX, LLDP and NEIGHBOUR_MISSING: what a neighbour says is kept for its
lifetime, and the port takes the state its plan and neighbour ask for; a HELLO goes out of every eligible port. -/
def Obligations.NeighboursSpeak : Prop :=
  (∀ (s : State) (port : Nat) (frame : Bytes), okPort port = true →
    (∀ ip x, foldFrame s port frame = some (ip, x) → foldLegal frame ip x = true → fTy x.p = 7 →
      (s.port port).cfg.foldEn = true → foldGood s port frame ip = true →
      helloIp s port frame ip = true →
      (tbcOk x.p = false → exec (.hello port frame) s = .next (s.count .foldTbcFail 0 1)) ∧
      (tbcOk x.p = true → byteAt x.p 40 / 16 = 1 ∨ byteAt x.p 40 / 16 = 2 →
        ∃ t n, exec (.hello port frame) s = .next t ∧ Tbl.find? t.neigh port = some n ∧ n.helloSys = be x.p 32 8 ∧
          n.helloRole = byteAt x.p 40 / 16 ∧ n.helloDev = byteAt x.p 41 ∧ n.helloPort = be x.p 42 2 &&& 0x7F07 ∧
          n.helloUntil = s.now + 3 * be x.p 44 2 * 1000000000 ∧ n.lldpUntil = (Tbl.getD s.neigh port {}).lldpUntil ∧
          (t.port port).st = stateFor t port (neighStatus t port))) ∧
    (rxAlive s port = true → macGood s port frame = true →
      let k := parsePkt s.dev.tpid frame
      let b := (frame.take (frame.length - 4)).drop k.l3
      k.etype = 0x88CC → k.dmac = 0x0180C200000E →
      (∀ c i ttl, lldpTlv 1 b.length b = some c → lldpTlv 2 b.length b = some i → lldpTlv 3 b.length b = some ttl →
        ∃ t n, exec (.lldp port frame) s = .next t ∧ Tbl.find? t.neigh port = some n ∧ n.chassis = c.drop 1 ∧
          n.portId = i.drop 1 ∧ n.lldpUntil = s.now + be ttl 0 2 * second ∧
          (t.port port).st = stateFor t port (neighStatus t port)) ∧
      (lldpTlv 1 b.length b = none ∨ lldpTlv 2 b.length b = none ∨ lldpTlv 3 b.length b = none →
        ∃ t, exec (.lldp port frame) s = .next t ∧
          cntGet t.counters .lldpBad port = sat64 (cntGet s.counters .lldpBad port + 1) ∧ t.neigh = s.neigh)) ∧
    (portUp (s.port port) = true → ∃ t, exec (.neighbourMissing port) s = .next t ∧
      (t.port port).st = stateFor s port (neighStatus s port)) ∧
    (portUp (s.port port) = false → exec (.neighbourMissing port) s = .next s)) ∧
  ∀ s : State, s.live = true → s.power.st ≤ 1 → Tbl.sorted s.ports = true →
    (∀ w, s.place.helloAt = some w → w + s.dev.helloPeriod * 1000000000 ≤ s.now) →
    ∃ t, exec .helloTx s = .next t ∧ t.place.helloAt = some s.now ∧ t.place.helloSeq = s.place.helloSeq + 1 ∧
      ∀ p x, Tbl.find? s.ports p = some x →
        (portExists s p = true → portUp x = true → x.cfg.foldEn = true → x.cfg.macAddr ≠ 0 →
          ∃ l, (t.port p).replyQ = x.replyQ ++ l ∧ (∀ f ∈ l, f.kind = .hello ∧ helloPayload s p <:+ f.bytes) ∧
            l.length = b2n (ownFold s false).isSome + b2n (ownFold s true).isSome) ∧
        ((portExists s p && portUp x && x.cfg.foldEn && x.cfg.macAddr != 0) = false → t.port p = x)

/-- R376 to R378, R382, R383, R388 to R391, FORWARD_FRAME: a frame of a port that may forward, neither for the device nor
MAC Control nor LLDP, is counted in BLOCKING; else routed to a live next hop, or counted with no route, no live next hop or no
TTL left, or dropped by a route that says so; bridged to the live port its address is learnt on; a frame of a group or an
unknown address is counted as flooded and reaches no port outside its VLAN. -/
def Obligations.FramesForward : Prop :=
  ∀ (s : State) (p : Nat) (frame : Bytes), okPort p = true → rxAlive s p = true → 64 ≤ frame.length →
    let k := parsePkt s.dev.tpid frame
    let body := (frame.take (s.port p).cfg.maxFrame).take (min frame.length (s.port p).cfg.maxFrame - 4)
    let c := frameClass s p k
    let room := fun ep (f : Bytes) => wireLen f ≤ (s.port ep).cfg.maxFrame ∧
      (queueCells (s.port ep) c : Int) * 16 < (poolCells s (dieOf ep) - (poolUsed s (dieOf ep) : Nat)) * 2 ^ s.dev.alpha.getD c 4
    let joins := fun ep (f : Bytes) => ∃ t g, exec (.forwardFrame p frame) s = .next t ∧
      Tbl.getD (t.port ep).classQ c [] = Tbl.getD (s.port ep).classQ c [] ++ [g] ∧ g.kind = .forwarded ∧ g.bad = false ∧
      g.ingress = some (p, c) ∧ ((∀ ip, (parsePkt s.dev.tpid f).ip = some ip → ip.tos % 4 = 0 ∨ ip.tos % 4 = 3) → g.bytes = f)
    k.etype ≠ 0x8808 → queryIp s frame k = none → foldIp s p frame k = none → badQueryHdr s k = false → isLldp k = false →
    (rxBlocked s p = true → exec (.forwardFrame p frame) s = .next (s.count .rxBlocked p 1)) ∧
    (rxBlocked s p = false → macGood s p frame = true → ptpEvent s.dev.tpid body = none → k.etype ≠ 0x88F7 →
      (∀ ip, k.ip = some ip → ip.v6 = true ∨ ip.hdrOk = true) → routerLost s k.dmac = false →
      (∀ ip, k.ip = some ip → routerMac s k.dmac = true →
        (lookupIp s (s.port p).cfg.vrf ip.v6 ip.dst = none →
          exec (.forwardFrame p frame) s = .next (s.count .fwdNoRoute p 1)) ∧
        (∀ tab key r, lookupIp s (s.port p).cfg.vrf ip.v6 ip.dst = some (tab, key, r) → entryLost s tab key = false →
          (ip.ttl ≤ 1 → ∃ t, exec (.forwardFrame p frame) s = .next t ∧
            cntGet t.counters .fwdTtl p = sat64 (cntGet s.counters .fwdTtl p + 1)) ∧
          (1 < ip.ttl → r.rkind = 4 → exec (.forwardFrame p frame) s = .next s) ∧
          (∀ n, 1 < ip.ttl → r.rkind = 0 → Tbl.find? s.fwd.nextHop r.result = some n → entryLost s 5 r.result = false →
            (fwdLive s n.port = false → exec (.forwardFrame p frame) s = .next (s.count .fwdNoPath p 1)) ∧
            (fwdLive s n.port = true → room n.port (routed s body k ip n c) → joins n.port (routed s body k ip n c))))) ∧
      (routerMac s k.dmac = false → k.tags = [] →
        let vlan := (s.port p).cfg.nativeVlan
        (∀ r, macGroup k.dmac = false → Tbl.find? s.fwd.l2 (vlan * 2 ^ 48 + k.dmac) = some r →
          entryLost s 1 (vlan * 2 ^ 48 + k.dmac) = false → r.rkind = 2 →
          (fwdLive s r.result = false → exec (.forwardFrame p frame) s = .next (s.count .fwdNoPath p 1)) ∧
          (fwdLive s r.result = true → entryLost s 2 (vlan * 1024 + r.result) = false → room r.result (bridged s body k vlan r.result) →
            joins r.result (bridged s body k vlan r.result))) ∧
        (macGroup k.dmac = true ∨ Tbl.find? s.fwd.l2 (vlan * 2 ^ 48 + k.dmac) = none →
          ∃ t, exec (.forwardFrame p frame) s = .next t ∧
            cntGet t.counters .fwdFlood p = sat64 (cntGet s.counters .fwdFlood p + 1) ∧
            (∀ ep, ep ≠ p → Tbl.has s.fwd.vlan (vlan * 1024 + ep) = false → ep < 1024 →
              (t.port ep).classQ = (s.port ep).classQ))))

/-- R369, R371, R452, R453, CP_TX and MGMT_FRAME_RX: the oldest transmit descriptor is sent, queued, held by a pause or
dropped and counted; a good frame on a management port goes to its owner's receive ring with its receive time. -/
def Obligations.ControlPlaneFrames : Prop :=
  (∀ (s : State) (fn : Nat) (d : Bytes) (rest : List Bytes) (b : Bytes), okFn fn = true → (s.fn fn).txQ = d :: rest →
    s.live = true →
    let s' := s.updFn fn (fun x => { x with txQ := rest })
    let f := padTo (le d 8 2) (b.take (le d 8 2))
    let pf := le d 10 2
    (∀ e, exec (.cpTx fn (.err e)) s = .next (s'.count .cpTxDrop 0 1)) ∧
    (cpTxBad s d = true → exec (.cpTx fn (.data b)) s = .next (s'.count .cpTxDrop 0 1)) ∧
    (cpTxBad s d = false → bit pf 15 = false → portUp (s.port (portOf pf)) = false →
      exec (.cpTx fn (.data b)) s = .next (s'.count .cpTxDrop 0 1)) ∧
    (cpTxBad s d = false → bit pf 15 = false → portExists s (portOf pf) = true → portUp (s.port (portOf pf)) = true →
      exec (.cpTx fn (.data b)) s = .next (enqueue s' (portOf pf) (byteAt d 12 % 8) none true
        { bytes := f, kind := .control, tsOrigin := bit (byteAt d 13) 0 })) ∧
    (∀ m, cpTxBad s d = false → bit pf 15 = true → Tbl.find? s.mgmts (pf % 2) = some m → m.owner = some (fn / 64) →
      bit (byteAt d 13) 0 = false →
      (m.pause.runs s.now = true → exec (.cpTx fn (.data b)) s = .next s) ∧
      (m.pause.runs s.now = false →
        exec (.cpTx fn (.data b)) s = .next ((s'.emit (.mgmt (pf % 2) (withFcs true f))).count .txOk (65536 + pf % 2) 1)))) ∧
  (∀ (s : State) (mg h : Nat) (frame : Bytes), okMgmt mg = true → s.live = true → s.power.st ≤ 2 → 64 ≤ frame.length →
    frame.length ≤ 9216 → fcsOk frame = true → be frame 12 2 ≠ 0x8808 → (Tbl.getD s.mgmts mg {}).owner = some h →
    let body := frame.take (frame.length - 4)
    exec (.mgmtFrameRx mg frame) s =
      .next (deliverRx (s.count .rxOk (65536 + mg) 1) (64 * h) 0 (32768 + mg) s.tu.views body) ∧
    (s.canWrite (64 * h) 12 = false → ∃ t r, exec (.mgmtFrameRx mg frame) s = .next t ∧
      (t.fn (64 * h)).rxQ = (s.fn (64 * h)).rxQ ++ [r] ∧ r.frame = body ∧ byteAt r.desc 1 = 0 ∧
      le r.desc 2 2 = 32768 + mg ∧ le r.desc 8 6 = s.tu.views.todSec % 2 ^ 48))

/-! Fold (R170 to R217, R230, R246). -/

/-- R176, R180, R182, R183, R191 to R193, R204, R206, R208, R211, R212, R216, CONTRIB and PARTIAL: a damaged, malformed, early,
late or repeated contribution is counted, and answered where the rules say so; one from a step the group holds back is told
HOLD once a second; one to a sent block gets the held RESULT again; any other joins its block, and is added exactly while
the block is not spilled and the side table has room. R265: a fold frame of any TYPE above its group's RES waits in its port's
buffer, and beyond the class's share is dropped where per-priority pause cannot hold its sender (log 134). -/
def Obligations.ContributionsGather : Prop :=
  (∀ (s : State) (port : Nat) (frame : Bytes) (x : FoldIn) (g : Group) (mem : Member) (child bad : Bool),
    Takes s port frame (if child then 2 else 1) x → InGroup s x false g →
    Tbl.find? g.members (fMember x.p) = some mem → mem.child = child → fromMember mem x = true →
    let i := if child then Instr.partialFrame port frame bad else .contrib port frame bad
    let s' := s.took port frame x
    let gn := fGroup x.p
    let m := fMember x.p
    let b := fBlock x.p
    let step := fStep x.p
    let pos := x.pos g
    let body := x.p.drop 32
    let n := if child then min 1024 (g.ecount b - 1024 * fSub x.p) else g.ecount b
    let off := if child then 1024 * fSub x.p else 0
    let vals := (foldElems (fFmt x.p) body n).map Prod.fst
    let legal := b < g.nblk ∧ fFmt x.p = (if child then 1 else g.inFmt) ∧ fEcount x.p = n ∧ n ≠ 0 ∧
      (child = false → fSub x.p = 0)
    let whole := bmaxOf ((foldElems (fFmt x.p) body (min (fEcount x.p) (fmtCap (fFmt x.p)))).map Prod.fst) = fBmax x.p
    let key := fun (h : Held) => (h.member, h.sub, h.payload, h.damaged)
    (tbcOk x.p = false → exec i s = .next (notice (s'.count .foldTbcFail gn 1) gn g m 1 0 step b (fSub x.p))) ∧
    (tbcOk x.p = true → ¬ legal → exec i s = .next (notice (s'.count .foldMalformed gn 1) gn g m 4 0 step b (fSub x.p))) ∧
    (tbcOk x.p = true → legal → ¬ whole →
      exec i s = .next (notice (s'.count .foldTbcFail gn 1) gn g m 1 0 step b (fSub x.p))) ∧
    (tbcOk x.p = true → legal → whole →
      (mem.activeAt step = false → exec i s = .next (s'.count .foldAlien gn 1)) ∧
      (mem.activeAt step = true → g.st = 2 → g.holdStep ≤ step →
        (∀ w, mem.holdAt = some w → s.now < w + 1000000000 → exec i s = .next s') ∧
        ((∀ w, mem.holdAt = some w → w + 1000000000 ≤ s.now) → exec i s = .next (notice (s'.updGroup gn (fun y =>
          { y with members := Tbl.modify y.members m (fun z => { z with holdAt := some s.now }) })) gn g m 7 0 g.holdStep 0 0))) ∧
      (mem.activeAt step = true → (g.st = 2 → step < g.holdStep) →
        (pos < g.oldest → exec i s = .next (s'.count .foldStale gn 1)) ∧
        (g.oldest + g.window ≤ pos → g.oldest ≤ pos →
          exec i s = .next (notice (s'.count .foldWindow gn 1) gn g m 3 0 step b 0)) ∧
        (g.oldest ≤ pos → pos < g.oldest + g.window →
          (∀ f, Tbl.find? g.blocks pos = some f →
            (f.st = .committed → exec i s = .next (s'.count .foldStale gn 1)) ∧
            (f.st ≠ .committed → f.st ≠ .sent → f.held.any (fun h => h.member == m && h.sub == fSub x.p) = true →
              exec i s = .next (s'.count .foldDup gn 1)) ∧
            (f.st = .ready ∨ f.st = .emitting → exec i s = .next (s'.count .foldDup gn 1)) ∧
            (∀ p, f.st = .sent → f.result = some p → f.resultBad = false → tbcOk p = true →
              exec i s = .next ((sendMember s' gn g mem (withMarks true (bit (byteAt p 1) 3) p)).count .foldReplay gn 1)) ∧
            (f.st = .sent → f.result = none → g.root = true → exec i s = .next s') ∧
            (f.st = .gathering → f.held.any (fun h => h.member == m && h.sub == fSub x.p) = false →
              ∃ t y, exec i s = .next t ∧ t.fblock gn pos = some y ∧
                y.held.map key = f.held.map key ++ [(m, fSub x.p, x.p, bad)] ∧
                (f.spilled = false → f.held.all (fun h => h.added) = true →
                  wideCount (addFrame f.elems off vals) - wideCount f.elems ≤ sideFree s (f.acc / 32) →
                  placeless y.elems = placeless (addFrame f.elems off vals)))) ∧
          (Tbl.find? g.blocks pos = none → s.place.spillPress = [] →
            ∃ t y, exec i s = .next t ∧ t.fblock gn pos = some y ∧ y.held.map key = [(m, fSub x.p, x.p, bad)] ∧
              y.acc = g.accOf pos ∧
              (fmtSlots g.inFmt ≤ slotsFree s (g.accOf pos / 32) →
                wideCount (addFrame [] off vals) ≤ sideFree s (g.accOf pos / 32) →
                y.slots = takeSlots s (g.accOf pos / 32) (fmtSlots g.inFmt) ∧ y.spilled = false ∧
                  placeless y.elems = placeless (addFrame [] off vals))))))) ∧
  (∀ (s : State) (port : Nat) (frame : Bytes) (x : FoldIn) (ty : Nat) (bad : Bool), FoldArrives s port frame ty x →
    withinRes s (fGroup x.p) port = false →
    let c := groupTc s (fGroup x.p)
    let k := ceilDiv frame.length 256
    let held := ((s.port port).cfg.fcMode = 2 ∧ lossless (s.port port) c = true) ∨
      foldCells s port c + k ≤ (s.port port).cfg.xoffTh.getD c 1024
    let waits := fun (i : Instr) (p : Bool) =>
      (held → ∃ t, exec i s = .next t ∧ t.foldIn = s.foldIn ++ [⟨port, fGroup x.p, k, p, x⟩] ∧ t.groups = s.groups) ∧
      (¬ held → exec i s = .next s)
    (ty = 1 → waits (.contrib port frame bad) bad) ∧ (ty = 2 → waits (.partialFrame port frame bad) bad) ∧
    (ty = 3 → waits (.foldResult port ⟨frame, bad⟩) bad) ∧ (ty = 4 → waits (.foldAck port frame) false) ∧
    (ty = 5 → waits (.digest port frame) false) ∧ (ty = 6 → fCode x.p = 7 → waits (.noticeHold port frame) false))

/-- R167, R192, R196 to R202, R205, SPILL_RESTORE and FOLD_CHECK_VERDICT: a block that passes leaves and keeps its result; the
first failure, an exception of the check program among them, stomps and rebuilds it; the same range failure again delivers
it with RANGE; any other retires the accumulating block; a block of a DEGRADED or FAILED group waits (R213). The spilled
block that misses least returns once it has room; a poisoned image is rebuilt from the held inputs, a bad held input fails
the group. -/
def Obligations.BlocksAreChecked : Prop :=
  (∀ (s : State) (gn pos : Nat) (bad : List Nat) (exc : Option Nat) (psn : Bool) (g : Group) (f : FBlock), okCtx gn = true →
    okExc exc = true → Tbl.find? s.groups gn = some g → Tbl.find? g.blocks pos = some f → f.st = .emitting →
    let i := Instr.foldCheckVerdict gn pos ⟨bad, exc, psn⟩
    let ends := checkEnds gn pos g f bad
    let range := ends.flatMap CheckEnd.range
    let fault := ends.any CheckEnd.fault || exc.isSome
    let frames := blockFrames gn g pos (blockValues g pos f)
    let open_ := (g.expected (g.stepAt pos)).any (fun m => !f.acks.contains m.1) = true
    (g.st = 1 ∨ g.st = 3 ∨ (s.block f.acc).fenced = true ∨ firstToLeave g pos f = false → exec i s = .next s) ∧
    (g.st ≠ 1 → g.st ≠ 3 → (s.block f.acc).fenced = false → firstToLeave g pos f = true →
      (range = [] → fault = false → open_ →
        ∃ t y, exec i s = .next t ∧ t.fblock gn pos = some y ∧ y.st = .sent ∧ y.left = true ∧
          (g.root = true → y.result = frames.head?.map (fun b => withMarks f.left false (withTbc true b)) ∧ y.resultBad = psn) ∧
          cntGet t.counters .foldCheckFail gn = cntGet s.counters .foldCheckFail gn) ∧
      (range ≠ [] ∨ fault = true →
        (f.lastFail = none →
          ∃ t y, exec i s = .next t ∧ t.fblock gn pos = some y ∧ y.left = true ∧
            y.lastFail = some (!fault, range) ∧
            cntGet t.counters .foldCheckFail gn = sat64 (cntGet s.counters .foldCheckFail gn + 1) ∧
            cntGet t.counters .stumpTx 0 = sat64 (cntGet s.counters .stumpTx 0 + frames.length)) ∧
        (f.lastFail = some (true, range) → fault = false → open_ →
          ∃ t y, exec i s = .next t ∧ t.fblock gn pos = some y ∧ y.st = .sent ∧
            (g.root = true → y.result = frames.head?.map (fun b => withMarks f.left true (withTbc true b))) ∧
            cntGet t.counters .foldRange gn = sat64 (cntGet s.counters .foldRange gn + 1)) ∧
        (∀ l, f.lastFail = some l → (l ≠ (true, range) ∨ fault = true) → (s.block f.acc).retired = false →
          ∃ t, exec i s = .next t ∧ (t.block f.acc).fenced = true ∧ (t.block f.acc).retired = true ∧
            cntGet t.counters .blockRetired 0 = sat64 (cntGet s.counters .blockRetired 0 + 1))))) ∧
  ∀ (s : State) (die : Nat), die < 2 →
    let l := (dieBlocks s die).filter (fun x => x.2.2.spilled)
    let miss : Nat × Nat × FBlock → Nat := fun x =>
      match Tbl.find? s.groups x.1 with | some g => missingOf g x.2.1 x.2.2 | none => 0
    let key := fun (h : Held) => (h.member, h.sub, h.payload, h.damaged)
    (∀ bad, l = [] → exec (.spillRestore die bad) s = .next s) ∧
    ∀ gn pos f g, (sortBy miss l).head? = some (gn, pos, f) → s.fblock gn pos = some f → Tbl.find? s.groups gn = some g →
      let n := fmtSlots g.inFmt
      let room := n ≤ slotsFree s die ∧ wideCount f.elems ≤ sideFree s die
      (∀ bad, ¬ room → exec (.spillRestore die bad) s = .next s) ∧
      (room → f.held.all (fun h => h.added) = true →
        ∃ t y, exec (.spillRestore die false) s = .next t ∧ t.fblock gn pos = some y ∧ y.spilled = false ∧
          y.slots = takeSlots s die n ∧ placeless y.elems = placeless f.elems) ∧
      (room → f.badHeld = false →
        ∃ t y, exec (.spillRestore die true) s = .next t ∧ t.fblock gn pos = some y ∧ y.held.map key = f.held.map key ∧
          cntGet t.counters .poisonConsumed 0 = sat64 (cntGet s.counters .poisonConsumed 0 + 1)) ∧
      (room → ∀ bad, f.held.any (fun h => (h.damaged || !tbcOk h.payload) && (bad || !h.added)) = true →
        ∃ t, exec (.spillRestore die bad) s = .next t ∧ (Tbl.find? t.groups gn).map Group.st = some 3)

/-- R183, R184, R203, R204, R216, FOLD_RESULT and FOLD_ACK: the first good result of a sent block is kept; every block an ACK
names is noted as acknowledged by its member; with the last acknowledgement the oldest block leaves the window; what the
group does not know, or does not verify, is counted; an ACK that names no block or crosses its step is counted too (log
23). -/
def Obligations.ResultsCommit : Prop :=
  ∀ (s : State) (port : Nat) (frame : Bytes) (x : FoldIn) (g : Group) (psn : Bool), InGroup s x false g →
    let s' := s.took port frame x
    let gn := fGroup x.p
    let pos := x.pos g
    let m := fMember x.p
    (Takes s port frame 3 x →
      (fromParent g x = false → exec (.foldResult port ⟨frame, psn⟩) s = .next (s'.count .foldAlien gn 1)) ∧
      (fromParent g x = true → g.nblk ≤ fBlock x.p ∨ pos < g.oldest ∨ Tbl.find? g.blocks pos = none →
        exec (.foldResult port ⟨frame, psn⟩) s = .next (s'.count .foldStale gn 1)) ∧
      (∀ f, fromParent g x = true → fBlock x.p < g.nblk → g.oldest ≤ pos → Tbl.find? g.blocks pos = some f →
        (f.st ≠ .sent → exec (.foldResult port ⟨frame, psn⟩) s = .next (s'.count .foldStale gn 1)) ∧
        (f.st = .sent → tbcOk x.p = false → ∃ t, exec (.foldResult port ⟨frame, psn⟩) s = .next t ∧ t.groups = s.groups ∧
          cntGet t.counters .foldTbcFail gn = sat64 (cntGet s.counters .foldTbcFail gn + 1)) ∧
        (f.st = .sent → tbcOk x.p = true → (g.expected (g.stepAt pos)).any (fun q => !f.acks.contains q.1) = true →
          ∃ t y, exec (.foldResult port ⟨frame, psn⟩) s = .next t ∧ t.fblock gn pos = some y ∧ y.st = .sent ∧
            y.result = some (f.result.getD x.p) ∧ (f.result = none → y.resultBad = psn)))) ∧
    (Takes s port frame 4 x → ∀ mem, Tbl.find? g.members m = some mem →
      (fromMember mem x = false → exec (.foldAck port frame) s = .next (s'.count .foldAlien gn 1)) ∧
      (fromMember mem x = true → tbcOk x.p = false → exec (.foldAck port frame) s = .next (s'.count .foldTbcFail gn 1)) ∧
      (fromMember mem x = true → tbcOk x.p = true → fEcount x.p = 0 ∨ g.nblk < fBlock x.p + fEcount x.p →
        exec (.foldAck port frame) s = .next (s'.count .foldBadack gn 1)) ∧
      (fromMember mem x = true → tbcOk x.p = true → fBlock x.p + fEcount x.p ≤ g.nblk → 0 < fEcount x.p →
        ∃ t, exec (.foldAck port frame) s = .next t ∧
          (∀ i f, i < fEcount x.p → g.oldest ≤ pos + i → Tbl.find? g.blocks (pos + i) = some f → f.st = .sent → f.result ≠ none →
            (g.expected (g.stepAt pos)).any (fun q => q.1 != m && !f.acks.contains q.1) = true →
            ∃ y, t.fblock gn (pos + i) = some y ∧ y.st = .sent ∧ m ∈ y.acks ∧ ∀ k, k ≠ m → (k ∈ y.acks ↔ k ∈ f.acks)) ∧
          (∀ f, fEcount x.p = 1 → g.oldest ≤ pos → Tbl.find? g.blocks pos = some f → f.st = .sent →
            (f.result = none → t = s'.count .foldBadack gn 1) ∧
            (f.result ≠ none → (g.expected (g.stepAt pos)).all (fun q => q.1 == m || f.acks.contains q.1) = true →
              pos = g.oldest → ∃ y, Tbl.find? t.groups gn = some y ∧ pos < y.oldest ∧ Tbl.find? y.blocks pos = none))))

/-- R177, R183, R185, R200, R202, R204, R206, R211 to R216, the notices and FOLD_TYPE_ILLEGAL: what each tells the group takes
effect; a replica is excluded from its step on; a held result or the partial sums of a sent block go out again, and a held
frame that no longer verifies fails the group; a restarted group discards its step and the ones before it; one from a
device that may not send it, one that does not verify and an illegal one are counted. -/
def Obligations.NoticesTakeEffect : Prop :=
  (∀ (s : State) (port : Nat) (frame : Bytes) (x : FoldIn) (g : Group), Takes s port frame 6 x →
    let s' := s.took port frame x
    let gn := fGroup x.p
    let pos := x.pos g
    let step := fStep x.p
    let tree := fromParent g x = true ∨ g.members.any (fun m => m.2.child && fromMember m.2 x) = true
    let cmd : Nat → Instr := fun c => match c with
      | 1 => .noticeResend port frame
      | 2 => .noticeResendResult port frame
      | 3 => .noticeWindow port frame
      | 5 => .noticeExpel port frame
      | 7 => .noticeHold port frame
      | 8 => .noticeReleased port frame
      | 9 => .noticeDeleted port frame
      | 0x0A => .noticeFailed port frame
      | 0x0B => .noticeRestart port frame
      | _ => .noticeIllegal port frame
    (InGroup s x false g →
      (∀ c ∈ [1, 3, 5, 7, 8, 0x0B], fCode x.p = c →
        (fromParent g x = false → exec (cmd c) s = .next (s'.count .foldAlien gn 1)) ∧
        (fromParent g x = true → tbcOk x.p = false → exec (cmd c) s = .next (s'.count .foldTbcFail gn 1))) ∧
      (∀ c ∈ [2, 9, 0x0A], fCode x.p = c → ¬ tree → exec (cmd c) s = .next (s'.count .foldAlien gn 1)) ∧
      (∀ c ∈ [9, 0x0A], fCode x.p = c → tree → tbcOk x.p = false → exec (cmd c) s = .next (s'.count .foldTbcFail gn 1)) ∧
      (fromParent g x = true → tbcOk x.p = true →
        (fCode x.p = 7 → (2 ≤ g.st → exec (.noticeHold port frame) s = .next s') ∧
          (g.st < 2 → ∃ t y, exec (.noticeHold port frame) s = .next t ∧ Tbl.find? t.groups gn = some y ∧ y.st = 2 ∧
            y.holdStep = step)) ∧
        (fCode x.p = 8 → (g.st ≠ 2 → exec (.noticeReleased port frame) s = .next s') ∧
          (g.st = 2 → ∃ t y, exec (.noticeReleased port frame) s = .next t ∧ Tbl.find? t.groups gn = some y ∧ y.st ≤ 1 ∧
            (g.missing = [] → y.st = 0))) ∧
        (fCode x.p = 5 → Tbl.sorted g.members = true →
          ∃ t y, exec (.noticeExpel port frame) s = .next t ∧ Tbl.find? t.groups gn = some y ∧
            ∀ k mem, Tbl.find? g.members k = some mem → Tbl.find? y.members k =
              some (if !mem.child && mem.replica == fArg x.p % 65536 && mem.lastsTo step then
                { mem with untilStep := some step } else mem)) ∧
        (∀ f, Tbl.find? g.blocks pos = some f →
          (f.st ≠ .sent → (fCode x.p = 1 → exec (.noticeResend port frame) s = .next s') ∧
            (fCode x.p = 3 → exec (.noticeWindow port frame) s = .next s')) ∧
          (f.st = .sent → f.badHeld = true →
            (fCode x.p = 1 → ∃ t y, exec (.noticeResend port frame) s = .next t ∧ Tbl.find? t.groups gn = some y ∧ y.st = 3) ∧
            (fCode x.p = 3 → f.result = none →
              ∃ t y, exec (.noticeWindow port frame) s = .next t ∧ Tbl.find? t.groups gn = some y ∧ y.st = 3)) ∧
          (f.st = .sent → f.badHeld = false →
            (fCode x.p = 1 → fSub x.p < g.subs (g.blockAt pos) → ∃ t, exec (.noticeResend port frame) s = .next t ∧
              t.groups = s.groups ∧ cntGet t.counters .foldReplay gn = sat64 (cntGet s.counters .foldReplay gn + 1)) ∧
            (fCode x.p = 3 → f.result = none → 0 < g.subs (g.blockAt pos) →
              ∃ t, exec (.noticeWindow port frame) s = .next t ∧ t.groups = s.groups ∧
                cntGet t.counters .foldReplay gn =
                  sat64 (cntGet s.counters .foldReplay gn + g.subs (g.blockAt pos)))))) ∧
      (tree → tbcOk x.p = true → fCode x.p = 9 → (2 ≤ g.st → exec (.noticeDeleted port frame) s = .next s') ∧
        (g.st < 2 → ∃ t y, exec (.noticeDeleted port frame) s = .next t ∧ Tbl.find? t.groups gn = some y ∧ y.st = 2 ∧
          y.holdStep = g.effective)) ∧
      (tree → tbcOk x.p = true → fCode x.p = 0x0A →
        ∃ t y, exec (.noticeFailed port frame) s = .next t ∧ Tbl.find? t.groups gn = some y ∧ y.st = 3) ∧
      (∀ mem f p, Tbl.find? g.members (fMember x.p) = some mem → mem.child = true → fromMember mem x = true →
        tbcOk x.p = true → fCode x.p = 2 → Tbl.find? g.blocks pos = some f → f.result = some p →
        (f.badResult p = false → exec (.noticeResendResult port frame) s =
          .next ((sendMember s' gn g mem (withMarks true (bit (byteAt p 1) 3) p)).count .foldReplay gn 1)) ∧
        (f.badResult p = true → ∃ t y, exec (.noticeResendResult port frame) s = .next t ∧ Tbl.find? t.groups gn = some y ∧
          y.st = 3))) ∧
    (InGroup s x true g → fromParent g x = true → tbcOk x.p = true → fCode x.p = 0x0B →
      ∃ t y, exec (.noticeRestart port frame) s = .next t ∧ Tbl.find? t.groups gn = some y ∧ y.gen = fGen x.p ∧
        y.oldest = step * g.nblk ∧ y.st = (if g.st = 1 then 0 else g.st) ∧ y.missing = [] ∧
        (∀ q, q < (step + 1) * g.nblk → Tbl.find? y.blocks q = none) ∧
        (∀ q, (step + 1) * g.nblk ≤ q → q < g.oldest → Tbl.find? y.blocks q = some { st := .committed }) ∧
        ∀ q, (step + 1) * g.nblk ≤ q → g.oldest ≤ q → Tbl.find? y.blocks q = Tbl.find? g.blocks q) ∧
    (tbcOk x.p = false → fCode x.p ∈ [0, 4, 6] ∨ 0x0B < fCode x.p →
      exec (.noticeIllegal port frame) s = .next (s'.count .foldTbcFail gn 1)) ∧
    (tbcOk x.p = true → fCode x.p = 0 ∨ 0x0B < fCode x.p →
      exec (.noticeIllegal port frame) s = .next (s'.count .foldMalformed gn 1)) ∧
    (tbcOk x.p = true → fCode x.p = 4 ∨ fCode x.p = 6 → exec (.noticeIllegal port frame) s = .next s')) ∧
  ∀ (s : State) (port : Nat) (frame : Bytes) (ip : Ip) (x : FoldIn), okPort port = true →
    foldFrame s port frame = some (ip, x) → foldLegal frame ip x = false → rxBlocked s port = false →
    (s.port port).st ≠ .opened →
    exec (.foldTypeIllegal port frame) s = .next (s.count .foldMalformed (fGroup x.p) 1)

/-- R209, R210, R214, R216, R254, DIGEST, DIGEST_WAIT_EXPIRY, NO_OTHER_PATH_EXPIRY and TREE_REBUILD_DONE: an inner device relays
a digest, the root keeps it, counting one it cannot use; when the wait is over a majority excludes the replicas that differ
or are silent, from the first step no member can have contributed to, and without one the group holds; after 100 ms without
another path a group holds; a rebuilt tree starts its oldest step again under its new generation, at the release where the
group is in such a HOLD. -/
def Obligations.RefereeDecides : Prop :=
  (∀ (s : State) (port : Nat) (frame : Bytes) (x : FoldIn) (g : Group), Takes s port frame 5 x → InGroup s x false g →
    let s' := s.took port frame x
    let gn := fGroup x.p
    let r := fArg x.p % 65536
    let step := fStep x.p
    (g.members.any (fun m => fromMember m.2 x) = false → exec (.digest port frame) s = .next (s'.count .foldAlien gn 1)) ∧
    (g.members.any (fun m => fromMember m.2 x) = true →
      (tbcOk x.p = false → exec (.digest port frame) s = .next (s'.count .foldTbcFail gn 1)) ∧
      (tbcOk x.p = true →
        (fEcount x.p ≠ g.digestLen → exec (.digest port frame) s = .next (s'.count .foldMalformed gn 1)) ∧
        (fEcount x.p = g.digestLen → g.root = false → exec (.digest port frame) s = .next (sendParent s' gn g x.p)) ∧
        (fEcount x.p = g.digestLen → g.root = true → g.k ≠ 0 → g.k ≤ step → step % g.k = 0 → r < g.nreplica →
          (∀ l, Tbl.find? g.decided step = some l → l.contains r = true →
            exec (.digest port frame) s = .next (s'.count .foldDup gn 1)) ∧
          (Tbl.has g.decided step = false →
            let d := (Tbl.find? g.digests step).getD ([], s.now)
            (Tbl.has d.1 r = true → exec (.digest port frame) s = .next (s'.count .foldDup gn 1)) ∧
            (Tbl.has d.1 r = false → d.1.length + 1 < g.nreplica →
              ∃ t y, exec (.digest port frame) s = .next t ∧ Tbl.find? t.groups gn = some y ∧
                Tbl.find? y.digests step = some (Tbl.put d.1 r (slice x.p 32 g.digestLen), d.2))))))) ∧
  (∀ (s : State) (gn : Nat) (g : Group), okCtx gn = true → Tbl.find? s.groups gn = some g →
    (∀ (step w : Nat) (d : Tbl Bytes), Tbl.find? g.digests step = some (d, w) →
      (s.now < w + g.digestWait * 1000000000 → exec (.digestWaitExpiry gn step) s = .next s) ∧
      (w + g.digestWait * 1000000000 ≤ s.now →
        ∃ t y, exec (.digestWaitExpiry gn step) s = .next t ∧ Tbl.find? t.groups gn = some y ∧
          Tbl.find? y.digests step = none ∧ Tbl.find? y.decided step = some (d.map Prod.fst) ∧
          ((∀ v ∈ d.map Prod.snd, 2 * (d.filter (fun p => p.2 == v)).length ≤ g.nreplica) → g.st < 2 →
            y.st = 2 ∧ y.holdStep = g.effective) ∧
          (∀ v ∈ d.map Prod.snd, g.nreplica < 2 * (d.filter (fun p => p.2 == v)).length → d.length ≤ g.nreplica →
            (g.st ≠ 2 ∨ g.holdStep ≠ g.effective) → Tbl.sorted g.members = true →
            ∀ k mem, Tbl.find? g.members k = some mem → Tbl.find? y.members k =
              some (if !mem.child && decide (mem.replica < g.nreplica) && Tbl.find? d mem.replica != some v &&
                mem.lastsTo g.effective then { mem with untilStep := some g.effective } else mem)))) ∧
    (∀ p w, (p, w) ∈ g.missing → w + 100000000000 ≤ s.now → otherPath s p = none → g.st = 1 →
      ∃ t y, exec (.noOtherPathExpiry gn) s = .next t ∧ Tbl.find? t.groups gn = some y ∧ y.st = 2 ∧
        y.holdStep = g.effective ∧ y.cause = 2) ∧
    (∀ gen parent, gen < 65536 → g.st ≠ 3 →
      ∃ t y, exec (.treeRebuildDone gn gen parent) s = .next t ∧ Tbl.find? t.groups gn = some y ∧ y.gen = gen ∧
        y.missing = [] ∧
        (g.st = 2 → g.cause = 2 → y.st = 2 ∧ y.oldest = g.oldest ∧ y.blocks = g.blocks) ∧
        (¬ (g.st = 2 ∧ g.cause = 2) → y.oldest = g.stepAt g.oldest * g.nblk ∧
          ∀ q, q < (g.stepAt g.oldest + 1) * g.nblk → Tbl.find? y.blocks q = none) ∧
        ∀ p a u m, parent = some (p, a, u, m) → y.root = false ∧ y.parentPort = p ∧ y.parentAddr = a ∧ y.parentUdp = u ∧
          y.pmember = m))

/-! Board links: the protocol (R218 to R238). -/

/-- R228, R234 to R236, R399, BLP_PACKET_DISCARD, BLP_ILLEGAL, BLP_ACK, BLP_NAK, BLP_ACK_TIMER and BLP_REPLAY_TIMEOUT: a packet
with a code violation, a bad CRC or out of sequence is answered with a NAK of the last good one, and the copy of it that was on
its way to another device ends with the inverted CRC; an illegal one is acknowledged and counted; an ACK empties the replay
buffer up to its SEQ; a NAK or 8 µs of silence send the rest again, eight times in a row at most, then the link resets. -/
def Obligations.PacketsAreSequenced : Prop :=
  (∀ (s : State) (l : Nat) (p : Bytes) (viol : List Nat), okLink l = true → linkRx s l = true →
    let k := s.link l
    let nak := Out.blp l (withCrc (withSeq (blpHdr 7 s.boot.boardPos k.farPos false 0 0 0 0) ((k.rxSeq + 65535) % 65536)))
    let ack := Out.blp l (withCrc (withSeq (blpHdr 6 s.boot.boardPos k.farPos false 0 0 0 0) ((k.rxSeq + 65535) % 65536)))
    let rest := ackedRest (pkSeq p) k.replay
    let again := fun (r : List BlpPkt) => r.map (fun q => Out.blp l (withCrc q.bytes))
    ((blpCrcOk p = false ∨ (∃ n ∈ viol, n ≠ 0) ∨ (pkSeq p ≠ k.rxSeq ∧ pkTy p ≠ 6 ∧ pkTy p ≠ 7)) →
      ∃ t, exec (.blpPacketDiscard l p false viol) s = .next t ∧ t.outs.getLast? = some nak ∧ (t.link l).rxSeq = k.rxSeq ∧
        (blpCrcOk p = true ∨ pkDst p = s.boot.boardPos → t.outs = s.outs ++ [nak] ∧ t.counters = s.counters) ∧
        (∀ i n, i < 8 → viol[i]? = some n → n ≠ 0 → (t.blLane l i).viol = sat32 ((s.blLane l i).viol + n) ∧
          (t.blLane l i).violAt = some s.now) ∧
        ∀ j, 20 ≤ p.length → blpCrcOk p = false → pkDst p ≠ s.boot.boardPos → pkRelay p = false → 1 ≤ pkTy p → pkTy p < 10 →
          pkTy p ≠ 6 → pkTy p ≠ 7 → pkSeq p = k.rxSeq → linkTo s (pkDst p) = some j → j ≠ l → (s.link j).waiting = [] →
          (s.link j).maySend (p.take (p.length - 4)) = true →
          ∃ q, t.outs = s.outs ++ [Out.blp j (withBadCrc q), nak] ∧ q.length + 4 = p.length ∧
            q.drop 4 = (p.take (p.length - 4)).drop 4 ∧ pkSeq q = (s.link j).txSeq % 65536 ∧ pkRelay q = true ∧
            cntGet t.counters .stumpTx 0 = sat64 (cntGet s.counters .stumpTx 0 + 1) ∧ (t.link j).txSeq = (s.link j).txSeq) ∧
    (blpCrcOk p = true → viol.all (· == 0) = true → pkSeq p = k.rxSeq ∨ pkTy p = 6 ∨ pkTy p = 7 →
      ∃ t, exec (.blpPacketDiscard l p false viol) s = .next t ∧ t.outs = s.outs ∧ (t.link l).rxSeq = k.rxSeq) ∧
    (∃ t, exec (.blpPacketDiscard l p true viol) s = .next t ∧ (t.link l).rxSeq = k.rxSeq ∧
      (blpCrcOk p = true ∨ pkDst p = s.boot.boardPos → t.outs = s.outs) ∧
      cntGet t.counters .blpAbort l = sat64 (cntGet s.counters .blpAbort l + 1)) ∧
    (blpCrcOk p = true → blpBad p = true →
      (pkSeq p = k.rxSeq → ∃ u, exec (.blpIllegal l p) s = .next (u.count .blpIllegal l 1) ∧ Accepted s u l) ∧
      (pkSeq p ≠ k.rxSeq → ∃ t, exec (.blpIllegal l p) s = .next t ∧ t.outs = s.outs ++ [nak] ∧
        (t.link l).rxSeq = k.rxSeq ∧ t.counters = s.counters)) ∧
    (k.waiting = [] → k.deepSince = none → blpCrcOk p = true →
      (pkTy p = 6 → k.resume = false → ∃ t, exec (.blpAck l p) s = .next t ∧ (t.link l).replay = rest ∧
        (t.link l).lastAck = s.now ∧ t.outs = s.outs) ∧
      (pkTy p = 6 → k.resume = true → ∃ t, exec (.blpAck l p) s = .next t ∧ (t.link l).replay = rest ∧
        (t.link l).resume = false ∧ t.outs = s.outs ++ again rest) ∧
      (pkTy p = 7 → rest.length < k.replay.length ∨ k.replays < 8 →
        ∃ t, exec (.blpNak l p) s = .next t ∧ (t.link l).replay = rest ∧ t.outs = s.outs ++ again rest)) ∧
    (blpCrcOk p = true → pkTy p = 7 → rest = k.replay → rest ≠ [] → 8 ≤ k.replays →
      ∃ u, exec (.blpNak l p) s = .next (pumpOn (resetLink u l) l) ∧ u = { s with links := u.links } ∧ (u.link l).replay = rest) ∧
    (0 < k.unacked → k.unackedAt + 1000000 ≤ s.now →
      ∃ t, exec (.blpAckTimer l) s = .next t ∧ t.outs = s.outs ++ [ack] ∧ (t.link l).unacked = 0) ∧
    (k.unacked = 0 ∨ s.now < k.unackedAt + 1000000 → exec (.blpAckTimer l) s = .next s) ∧
    (k.resume = true ∨ s.now < k.lastAck + 8000000 → exec (.blpReplayTimeout l) s = .next s) ∧
    (k.resume = false → k.lastAck + 8000000 ≤ s.now →
      (k.replay = [] → exec (.blpReplayTimeout l) s = .next s) ∧
      (k.replay ≠ [] → 8 ≤ k.replays → exec (.blpReplayTimeout l) s = .next (resetLink s l)) ∧
      (k.replay ≠ [] → k.replays < 8 → ∃ t, exec (.blpReplayTimeout l) s = .next t ∧ t.outs = s.outs ++ again k.replay ∧
        (t.link l).replays = k.replays + 1 ∧ (t.link l).lastAck = s.now))) ∧
  ∀ (s : State) (l : Nat), okLink l = true → (∀ q ∈ s.blpReqs, q.2.link ≠ l) → qmsgWaiters s l = [] →
    (∀ q ∈ s.groups, q.2.treeOn (65536 + l) = false ∧ ∀ m ∈ q.2.members, m.2.child = true ∨ m.2.port ≠ 65536 + l) →
    ∃ u, resetLink s l = u ∧ (u.link l).st = .exiting ∧ (u.link l).warm = true ∧ (u.link l).replay = [] ∧
      (u.link l).waiting = [] ∧ (u.link l).txSeq = 0 ∧ (u.link l).rxSeq = 0 ∧ (∀ j, j ≠ l → u.link j = s.link j) ∧
      cntGet u.counters .blReset l = sat64 (cntGet s.counters .blReset l + 1)

/-- R218, R219, R221 to R226, R230, R233, R237, R279, R527, BLP_RD, BLP_WR and BLP_ATOMIC: a granted or control read gives the
granule and its poison, a control write stores its 64 bytes and clears poison, an atomic stores what its OP gives of the old
value; a tenant's write and what is not granted are denied, an absent address is answered ADDR; a window and a register copy are
read as they stand and the copy is written word by word; a packet for another device is relayed once. R225 to R227, R230 to
R233, R235 to R237, BLP_CPL, BLP_TIMEOUT, BLP_CPL_ABORT, BLP_MSG, BLP_QMSG, ROUTE_SWITCH and APERTURE_ACCESS: a completion or
its timeout reaches what waits for the request and frees its TAG; an aborted completion is sent again as POISON; a message is
fold traffic of its link; partial sums, leaf values and a layer's columns join their thread, features and an input row their
slice, and with the last of them its answer leaves; a new route waits for the requests on the old one; the aperture reads what its
function may, here or at another device. -/
def Obligations.BoardProtocolServes : Prop :=
  (∀ (s : State) (l : Nat) (p : Bytes), Arrives s l p → blpLenOk p = true → blpBad p = false → pkTy p = 1 ∨ pkTy p = 2 ∨ pkTy p = 3 →
    let i := if pkTy p = 1 then Instr.blpRd l p else if pkTy p = 2 then .blpWr l p else .blpAtomic l p
    let g := pkAddr p % 2 ^ 45 / 64 * 64
    let w := pkAddr p % 2 ^ 45 / 8 * 8
    let here := pkAddr p / 2 ^ 45 = s.boot.boardPos
    (pkDst p ≠ s.boot.boardPos → ∃ u, Accepted s u l ∧
      (∀ k, pkRelay p = false → linkTo s (pkDst p) = some k →
        exec i s = .next (sendBlp u k ((p.take (p.length - 4)).take 1 ++ beBytes 1 (byteAt (p.take (p.length - 4)) 1 ||| 2) ++
          (p.take (p.length - 4)).drop 2))) ∧
      (pkRelay p = true ∨ linkTo s (pkDst p) = none → exec i s = .next (sendCpl u p 5 4 []))) ∧
    (pkDst p = s.boot.boardPos →
      (∃ u, Accepted s u l ∧
        (pkTy p = 1 → here → localAt s g = .hbm → ridKind p = 2 ∨ tenantMay s p g = true →
          exec i s = .next (sendCpl u p 4 (if s.poisoned g 64 then 3 else 0) (readGranule s g))) ∧
        (pkTy p = 1 → ridKind p ≠ 2 → ¬ here ∨ localAt s g ≠ .hbm ∨ tenantMay s p g = false →
          exec i s = .next (sendCpl (u.count .isoDeny 0 1) p 5 2 [])) ∧
        (pkTy p = 1 → ridKind p = 2 → ¬ here ∨ localAt s g = .none → exec i s = .next (sendCpl u p 5 1 [])) ∧
        (pkTy p = 1 → ridKind p = 2 → here → localAt s g = .window →
          exec i s = .next (sendCpl { u with freeCount := s.freeCount + 1 } p 4 0
            ((upTo 64).map (fun i => windowAt s s.freeCount (g - 0x100000000000 + i))))) ∧
        (∀ fn off, pkTy p = 1 → ridKind p = 2 → here → localAt s g = .regs fn off → s.votes = [] →
          exec i s = .next (sendCpl (readWords fn off 16 u).1 p 4 0 (readWords fn off 16 u).2)) ∧
        (pkTy p ≠ 1 → ridKind p ≠ 2 → exec i s = .next (sendCpl (u.count .isoDeny 0 1) p 5 2 [])) ∧
        (pkTy p = 2 → ridKind p = 2 → ¬ here ∨ localAt s g = .none → exec i s = .next (sendCpl u p 5 1 [])) ∧
        (pkTy p = 2 → ridKind p = 2 → here → localAt s g = .window → exec i s = .next (sendCpl (u.count .isoDeny 0 1) p 5 2 [])) ∧
        (∀ fn off, pkTy p = 2 → ridKind p = 2 → here → localAt s g = .regs fn off →
          exec i s = .next (sendCpl (writeWords fn off 16 (pkBody p) u) p 5 0 [])) ∧
        (pkTy p = 3 → ridKind p = 2 → 4 ≤ pkCode p ∨ pkCode p = 0 → exec i s = .next (sendCpl u p 5 6 [])) ∧
        (pkTy p = 3 → ridKind p = 2 → 1 ≤ pkCode p → pkCode p ≤ 3 →
          (¬ here ∨ localAt s w = .none → exec i s = .next (sendCpl u p 5 1 [])) ∧
          (here → localAt s w = .hbm → s.poisoned w 8 = true →
            exec i s = .next (sendCpl u p 4 3 (padTo 64 (Memory.read s.hbm w 8)))))) ∧
      (pkTy p = 2 → ridKind p = 2 → here → localAt s g = .hbm →
        ∃ u, exec i s = .next (sendCpl u p 5 0 []) ∧
          (∀ j, Memory.get u.hbm j = if g ≤ j ∧ j < g + 64 then (pkBody p).getD (j - g) 0 else Memory.get s.hbm j) ∧
          (∀ n, n ∈ u.poison ↔ n ∈ s.poison ∧ n ≠ g / 64)) ∧
      (pkTy p = 3 → ridKind p = 2 → here → localAt s w = .hbm → s.poisoned w 8 = false →
        let old := beVal (Memory.read s.hbm w 8)
        let a := be (pkBody p) 0 8
        let b := be (pkBody p) 8 8
        ∀ v, (pkCode p = 1 ∧ v = (old + a) % 2 ^ 64) ∨ (pkCode p = 2 ∧ v = a) ∨ (pkCode p = 3 ∧ v = if old = a then b else old) →
        ∃ u, exec i s = .next (sendCpl u p 4 0 (padTo 64 (Memory.read s.hbm w 8))) ∧ u.poison = s.poison ∧
          ∀ j, Memory.get u.hbm j = if w ≤ j ∧ j < w + 8 then (beBytes 8 v).getD (j - w) 0 else Memory.get s.hbm j))) ∧
  (∀ (s : State) (w : BlpWait) (st : Nat) (data : Bytes), st < 7 → st ≠ 2 →
    (srcAlive s w.src = false → endReq s w st data = s) ∧
    (srcAlive s w.src = true →
      ((∃ c n tag, w.src = .load c n tag) ∨ (∃ r q e, w.src = .bag r q e) →
        endReq s w st data = { s with blpGot := s.blpGot ++ [⟨w.src, w.addr, st, data⟩] }) ∧
      (∀ b, w.src = .write b → endReq s w st data =
        if st = 4 ∨ st = 5 then { s with blpWait := s.blpWait ++ [{ w with src := .check b }] } else s) ∧
      (∀ b, w.src = .check b → endReq s w st data =
        if st = 4 ∨ st = 5 then { s with blpWait := s.blpWait ++ [{ w with src := .check b }] }
        else if st = 0 ∧ data ≠ b then { s with blpWait := s.blpWait ++ [{ w with src := .write b }] } else s))) ∧
  (∀ (s : State) (w : BlpWait), s.blpWait = [w] → srcAlive s w.src = true → populated s (w.addr / 2 ^ 45) = true →
    (∀ r q e, w.src = .bag r q e → bagReads s r q < 2048) →
    ∀ l k, routeOf s (w.addr / 2 ^ 45) = some l → Tbl.freeKey s.blpReqs (w.addr / 2 ^ 45 * 4096) 4096 = some k →
      (outstandingElsewhere s (w.addr / 2 ^ 45) l = true → pumpBlp s = s) ∧
      (outstandingElsewhere s (w.addr / 2 ^ 45) l = false → pumpBlp s =
        sendBlp { s with blpWait := [], blpRoute := Tbl.put s.blpRoute (w.addr / 2 ^ 45) l,
                         blpReqs := Tbl.put s.blpReqs k ⟨w.src, w.addr, w.rid, l, none⟩ } l
          (blpHdr w.src.ty s.boot.boardPos (w.addr / 2 ^ 45) false (k % 4096) 0 w.addr w.rid ++ w.src.body))) ∧
  ((∀ (s : State) (l : Nat) (p : Bytes), Arrives s l p → blpLenOk p = true → blpBad p = false → pkDst p = s.boot.boardPos →
    (pkTy p = 4 ∨ pkTy p = 5 →
      ∃ u, Accepted s u l ∧
        (Tbl.find? s.blpReqs (pkSrc p * 4096 + pkTag p) = none → exec (.blpCpl l p) s = .next u) ∧
        ∀ r, Tbl.find? s.blpReqs (pkSrc p * 4096 + pkTag p) = some r →
          exec (.blpCpl l p) s = .next (pumpBlp (endReq { u with blpReqs := Tbl.del s.blpReqs (pkSrc p * 4096 + pkTag p) }
            ⟨r.src, r.addr, r.rid⟩ (pkCode p) (if pkTy p = 4 then pkBody p else [])))) ∧
    (pkTy p = 8 → ∃ u, Accepted s u l ∧
      (s.live = true → s.power.st = 0 → exec (.blpMsg l p) s = .next (foldHandle false u ⟨65536 + l, 0, pkBody p⟩)) ∧
      (s.live = false ∨ s.power.st ≠ 0 → exec (.blpMsg l p) s = .next u)) ∧
    (pkTy p = 9 →
      let b := pkBody p
      let tid := be b 0 4 % 2 ^ 18
      let h := pkSrc p * 64 + byteAt b 10 % 64
      let n := be b 8 2
      (∀ (held : Option GuestSlice) (t : Thread), Tbl.find? s.threads tid = some t → be b 0 4 / 2 ^ 21 = s.boot.boardPos →
        be b 4 2 = t.model → t.done = false → t.remoteGot.contains h = false → pkAddr p / 65536 % 16 ≠ 1 →
        (ridCtx p ≠ t.model ∨ ridOwner p % 256 ≠ (s.model t.model).owner ∨ ridKind p ≠ 0 →
          ∃ u, Accepted s u l ∧ exec (.blpQmsg l ⟨p, held⟩) s =
            .next (u.isoDeny (ridOwner p % 256) (ridKind p) (objCode 1 (ridCtx p)) 0)) ∧
        ∀ (r : Replica) (x : Slice), ridCtx p = t.model → ridOwner p % 256 = (s.model t.model).owner → ridKind p = 0 →
          replicaOf s t = some r → r.slices.find? (fun y => y.dev == some (pkSrc p) && y.block == byteAt b 10 % 64) = some x →
          (pkAddr p / 65536 % 16 = 2 → imgOrdered (s.verOf t).image = false →
            ∃ u, exec (.blpQmsg l ⟨p, held⟩) s = .next u ∧ Tbl.find? u.threads tid = some { t with
              remoteGot := h :: t.remoteGot, sums := (tid / 4096) :: t.sums.erase (tid / 4096),
              remoteSum := (partialSums (b.drop 16) n).foldl
                (fun (a : Tbl Int) v => Tbl.put a v.1 (Tbl.getD a v.1 0 + v.2)) t.remoteSum }) ∧
          (pkAddr p / 65536 % 16 = 3 → imgOrdered (s.verOf t).image = true →
            ∃ u y, exec (.blpQmsg l ⟨p, held⟩) s = .next u ∧ Tbl.find? u.threads tid = some y ∧
              y.remoteLeaf = (leafItems (b.drop 16) n).foldl (fun (a : Tbl Nat) v => Tbl.put a v.1 v.2) t.remoteLeaf ∧
              (y.remoteGot = h :: t.remoteGot ∨ y.remoteGot = t.remoteGot) ∧
              (y.remoteGot = h :: t.remoteGot ↔ x.trees.all (fun q => (leafValues (s.verOf t).image (treeDir (s.verOf t).image q.tree) 0).all
                (fun v => Tbl.has y.remoteLeaf (q.tree * 64 + v.1))) = true)) ∧
          (∀ q, pkAddr p / 65536 % 16 = 4 → x.layers.find? (fun q => q.layer == byteAt b 11) = some q → byteAt b 11 = t.layer →
            t.phase = .array →
            let c := (((upTo n).map (fun i => (be b 6 2 + i, be b (16 + 4 * i) 4))).filter
              (fun i => decide (q.first ≤ i.1) && decide (i.1 < q.first + q.cols))).foldl (fun (c : Tbl Nat) i => Tbl.put c i.1 i.2) t.colRow
            let lay := layerAt (s.verOf t).image t.layer
            ∃ u y, exec (.blpQmsg l ⟨p, held⟩) s = .next u ∧ Tbl.find? u.threads tid = some y ∧
              ((∃ j, j < lay.n ∧ Tbl.has c j = false) → y = { t with colRow := c }) ∧
              ((∀ j, j < lay.n → Tbl.has c j = true) → lay.prog ≠ 0xFFFF →
                y.phase = .vector ∧ y.outRow = (upTo lay.n).map (fun j => Tbl.getD c j 0)))) ∧
      (pkAddr p / 65536 % 16 = 1 →
        (∀ held : Option GuestSlice, (∀ g, held = some g → ridKind p ≠ 0 ∨ ridOwner p % 256 ≠ g.fn ∨ ridCtx p ≠ g.ctx ∨
            be b 4 2 ≠ g.ctx ∨ g.slice.block ≠ byteAt b 10 % 64) →
          ∃ u, Accepted s u l ∧ exec (.blpQmsg l ⟨p, held⟩) s =
            .next (u.isoDeny (ridOwner p % 256) (ridKind p) (objCode 1 (ridCtx p)) 0)) ∧
        ∀ g : GuestSlice, ridKind p = 0 → ridOwner p % 256 = g.fn → ridCtx p = g.ctx → be b 4 2 = g.ctx →
          g.slice.block = byteAt b 10 % 64 → inService s g.slice.block = true →
          let raw := ((upTo n).map (fun i => (be b 6 2 + i, be b (16 + 4 * i) 4))).foldl
            (fun (t : Tbl Nat) q => Tbl.put t q.1 q.2) (Tbl.getD s.guests (be b 0 4 * 64 + g.slice.block) {}).raw
          ∃ u, exec (.blpQmsg l ⟨p, some g⟩) s = .next u ∧
            ((∃ i, i < imgNraw g.image ∧ Tbl.has raw i = false) → ∃ v, Accepted s v l ∧
              u = { v with guests := Tbl.put s.guests (be b 0 4 * 64 + g.slice.block) { raw := raw } }) ∧
            ((∀ i, i < imgNraw g.image → Tbl.has raw i = true) → ∃ v, Accepted s v l ∧
              ∀ w, guestLeaves g.image g.slice ((upTo (imgNraw g.image)).map (fun i => Tbl.getD raw i 0)) = w →
                (w = none → u = { v with guests := Tbl.del s.guests (be b 0 4 * 64 + g.slice.block) }) ∧
                ∀ a k ps, w = some a → guestAnswer g.image a = (k, ps) →
                  u = ps.foldl (fun s q => (sendQmsg s (pkSrc p) k g.fn g.ctx
                    (qmsgBody (be b 0 4) g.ctx 0 q.1 g.slice.block 0 q.2)).getD s)
                      { v with guests := Tbl.del s.guests (be b 0 4 * 64 + g.slice.block) })) ∧
      (pkAddr p / 65536 % 16 = 4 → be b 0 4 / 2 ^ 21 ≠ s.boot.boardPos →
        ∀ (g : GuestSlice) (q : LayerPl), ridKind p = 0 → ridOwner p % 256 = g.fn → ridCtx p = g.ctx → be b 4 2 = g.ctx →
          g.slice.block = byteAt b 10 % 64 → inService s g.slice.block = true →
          g.slice.layers.find? (fun y => y.layer == byteAt b 11 && guestLayer (layerAt g.image y.layer)) = some q →
          let lay := layerAt g.image q.layer
          let k := be b 0 4 * 64 + g.slice.block
          let raw := ((upTo n).map (fun i => (q.layer * 65536 + (be b 6 2 + i), be b (16 + 4 * i) 4))).foldl
            (fun (t : Tbl Nat) y => Tbl.put t y.1 y.2) (Tbl.getD s.guests k {}).raw
          ∃ u v, exec (.blpQmsg l ⟨p, some g⟩) s = .next u ∧ Accepted s v l ∧
            ((∃ i, i < lay.k ∧ Tbl.has raw (q.layer * 65536 + i) = false) → u = { v with guests := Tbl.put s.guests k { raw := raw } }) ∧
            ((∀ i, i < lay.k → Tbl.has raw (q.layer * 65536 + i) = true) → 0 < q.cols → q.cols ≤ 1024 →
              let t : Thread := { (default : Thread) with
                inRow := toRow lay ((upTo lay.k).map (fun i => Tbl.getD raw (q.layer * 65536 + i) 0)) }
              let w : State := { v with guests := Tbl.del s.guests k }
              u = (sendQmsg w (pkSrc p) 4 g.fn g.ctx (qmsgBody (be b 0 4) g.ctx q.first q.cols g.slice.block q.layer
                ((upTo q.cols).flatMap (fun i => beBytes 4 (layerCol g.image lay t (q.first + i)))))).getD w)))) ∧
  (∀ (s : State) (dev tag : Nat) (r : BlpReq), dev < 8 → tag < 4096 → Tbl.find? s.blpReqs (dev * 4096 + tag) = some r →
    (r.issued = none → exec (.blpTimeout dev tag) s = .next s) ∧
    ∀ w, r.issued = some w →
      (s.now < w + 100000000 → exec (.blpTimeout dev tag) s = .next s) ∧
      (w + 100000000 ≤ s.now → exec (.blpTimeout dev tag) s =
        .next (pumpBlp (endReq { s with blpReqs := Tbl.del s.blpReqs (dev * 4096 + tag) } ⟨r.src, r.addr, r.rid⟩ 5 [])))) ∧
  (∀ (s : State) (l seq : Nat) (p : BlpPkt), okLink l = true → linkRx s l = true →
    (s.link l).replay.find? (fun p => p.seq == seq && pkTy p.bytes == 4 && pkCode p.bytes == 0 &&
      pkSrc p.bytes == s.boot.boardPos) = some p →
    (beingSent l p.bytes s.outs = false → exec (.blpCplAbort l seq) s = .next s) ∧
    (beingSent l p.bytes s.outs = true → pkAddr p.bytes % 2 ^ 45 < hbmSize →
      ∃ t, exec (.blpCplAbort l seq) s = .next t ∧ pkAddr p.bytes % 2 ^ 45 / 64 ∈ t.poison ∧
        t.outs.getLast? = some (.blp l (withCrc (p.bytes.take 4 ++ beBytes 2 (pkTag p.bytes * 16 + 3) ++ p.bytes.drop 6))))) ∧
  (∀ (s : State) (dev : Nat) (peers : List Nat), dev < 8 → (∀ d ∈ peers, d < 8) →
    let u := { s with peerUp := Tbl.put s.peerUp dev peers }
    (routeOf u dev = none → exec (.routeSwitch ⟨dev, peers⟩) s = .next (pumpBlp u)) ∧
    ∀ l, routeOf u dev = some l →
      (outstandingElsewhere s dev l = true → exec (.routeSwitch ⟨dev, peers⟩) s = .next (pumpBlp u)) ∧
      (outstandingElsewhere s dev l = false →
        exec (.routeSwitch ⟨dev, peers⟩) s = .next (pumpBlp { u with blpRoute := Tbl.put s.blpRoute dev l })) ∧
      (s.blpWait = [] → pumpBlp u = u)) ∧
  ∀ (s : State) (fn off len : Nat), okFn fn = true → 0 < len → off + len ≤ 2 ^ 32 →
    let a := (s.fn fn).apertureHi * 2 ^ 32 + off
    let g := a % 2 ^ 45
    let may := grantedTo s (s.boot.boardPos * 256 + fn) none s.boot.boardPos g len && !regionLost s s.boot.boardPos g
    (s.live = false → exec (.apertureAccess fn off len true) s = .next s) ∧
    (s.live = true → exec (.apertureAccess fn off len true) s = .next (s.isoDeny fn 1 0 a)) ∧
    (s.live = false ∨ apertureLost s fn = true → exec (.apertureAccess fn off len false) s = .next (s.emit (.barAbort fn))) ∧
    (s.live = true → apertureLost s fn = false → a / 2 ^ 45 = s.boot.boardPos →
      (may = true → s.poisoned g len = false →
        exec (.apertureAccess fn off len false) s = .next (s.emit (.bar fn (Memory.read s.hbm g len)))) ∧
      (may = true → s.poisoned g len = true →
        exec (.apertureAccess fn off len false) s = .next (s.emit (.barPoison fn (Memory.read s.hbm g len)))) ∧
      (may = false → exec (.apertureAccess fn off len false) s = .next ((s.isoDeny fn 1 0 a).emit (.barAbort fn)))) ∧
    (s.live = true → apertureLost s fn = false → a / 2 ^ 45 ≠ s.boot.boardPos →
      let src := BlpSrc.aperture s.freeCount fn a len
      let u := { s with freeCount := s.freeCount + 1 }
      exec (.apertureAccess fn off len false) s = .next (issueReads u src (ridOf 1 fn 0) len [a]) ∧
      (a % 64 + len ≤ 64 → s.blpWait = [] → (∀ q ∈ s.blpReqs, q.2.src ≠ src) → (∀ q ∈ s.blpGot, q.src ≠ src) →
        (populated s (a / 2 ^ 45) = true → ∀ l k, routeOf s (a / 2 ^ 45) = some l →
          outstandingElsewhere s (a / 2 ^ 45) l = false → Tbl.freeKey s.blpReqs (a / 2 ^ 45 * 4096) 4096 = some k →
          exec (.apertureAccess fn off len false) s =
            .next (sendBlp { u with blpRoute := Tbl.put s.blpRoute (a / 2 ^ 45) l,
                                    blpReqs := Tbl.put s.blpReqs k ⟨src, a / 64 * 64, ridOf 1 fn 0, l, none⟩ } l
              (blpHdr 1 s.boot.boardPos (a / 2 ^ 45) false (k % 4096) 0 (a / 64 * 64) (ridOf 1 fn 0)))) ∧
        (populated s (a / 2 ^ 45) = false → ∃ t, exec (.apertureAccess fn off len false) s = .next t ∧
          t.outs.getLast? = some (.barAbort fn) ∧ cntGet t.counters .isoDeny 0 = sat64 (cntGet s.counters .isoDeny 0 + 1)) ∧
        ∀ st data, st < 7 → st ≠ 2 → ∃ t, endReq s ⟨src, a / 64 * 64, ridOf 1 fn 0⟩ st data = t ∧ t.blpGot = s.blpGot ∧
          t.outs = s.outs ++ [if st = 0 then .bar fn (slice (padTo 64 (data.take 64)) (a % 64) len)
            else if st = 3 then .barPoison fn (slice (padTo 64 (data.take 64)) (a % 64) len) else .barAbort fn])))

/-! Board links and lanes (R403 to R431). -/

/-- R399, R403 to R407, R410 to R415, the training rows: a lane is good after 64 sets wired straight or reversed and without a
code violation; stable lanes send TS2; agreement gives SEEN and then ACTIVE at the agreed width; 2 ms without it is a failure
and 1 ms of electrical idle; a lost lane retrains the link on what is left, or resets it; a lane that sees only idle sets holds
its coefficients until other symbols or an exercise come. R416, R417, the rows of the deep state: both ends asked and nothing is
owed, so the link goes deep; 1 ms without agreement refuses it for 100 ms; it leaves by warm training with its coefficients, cold
after 100 µs. -/
def Obligations.LinksTrainAndSleep : Prop :=
  (∀ (s : State) (l lane : Nat), okLink l = true → lane < 8 →
    let k := s.link l
    let y := s.blLane l lane
    (∀ b, tsOk b = true → linksHeld s = false → k.st = .training ∨ k.st = .exiting ∨ k.st = .retrain → k.idleUntil = none →
      let from_ := byteAt b 3 % 8
      let rev := if k.good = 0 then from_ != lane else k.reversed
      let u := learnTs s l lane b
      let a := (u.link l).common s.now
      ((u.link l).st = k.st ∧ (u.blLane l lane).tsCount = min (y.tsCount + 1) 64 ∧ (u.blLane l lane).aligned = true ∧
        (u.blLane l lane).coeffs = .adapting ∧ (u.link l).farGood = byteAt b 4 ∧ (u.link l).farPos = byteAt b 2 % 8 ∧
        (u.link l).farLink = byteAt b 2 / 16 % 8 ∧ (u.link l).farValid = decide (byteAt b 2 % 8 ≠ s.boot.boardPos) ∧
        (u.link l).good = (if 63 ≤ y.tsCount ∧ from_ = (if rev then 7 - lane else lane) ∧ y.noisy s.now = false
          then k.good ||| 2 ^ lane else k.good) ∧
        (byteAt b 2 % 8 = s.boot.boardPos → k.miswire = false → (u.link l).miswire = true ∧
          cntGet u.counters .blMiswire l = sat64 (cntGet s.counters .blMiswire l + 1))) ∧
      (byteAt b 1 = 1 → exec (.trainingSet l lane b) s = .next u) ∧
      (byteAt b 1 = 2 →
        let ok := (u.link l).sendTs2 = true ∧ mirror (u.link l).reversed (byteAt b 4) &&& (u.link l).goodAt s.now = a ∧
          (u.link l).farValid = true ∧ (u.link l).choose s.now = some (byteAt b 5 % 4)
        (¬ ok → ∃ t, exec (.trainingSet l lane b) s = .next t ∧ (t.link l).agree = 0 ∧ (t.link l).st = k.st) ∧
        (ok → k.seen = false →
          let n := if a = k.common s.now then min (k.agree + 1) 8 else 1
          ∃ t, exec (.trainingSet l lane b) s = .next t ∧ (t.link l).agree = n ∧ (t.link l).st = k.st ∧
            (t.link l).seen = decide (8 ≤ n) ∧ (t.link l).seenAt = s.now ∧
            (t.link l).farSeen = (k.farSeen || bit (byteAt b 6) 2)) ∧
        (ok → k.seen = true → k.farSeen = true ∨ bit (byteAt b 6) 2 = true → k.seenAt + 80000 ≤ s.now →
          ∃ v, exec (.trainingSet l lane b) s = .next (enterActive v l) ∧ v = { u with links := v.links } ∧
            (v.link l).common s.now = a ∧ (v.link l).choose s.now = some (byteAt b 5 % 4)) ∧
        (ok → k.seen = true → (k.farSeen = false ∧ bit (byteAt b 6) 2 = false) ∨ s.now < k.seenAt + 80000 →
          ∃ t, exec (.trainingSet l lane b) s = .next t ∧ (t.link l).st = k.st ∧ (t.link l).seen = true))) ∧
    (∀ b, tsOk b = false → linksHeld s = false → k.st ≠ .disabled → k.st ≠ .deep → k.idleUntil = none →
      ∃ t, exec (.trainingSet l lane b) s = .next t ∧ (t.blLane l lane).tsCount = 0 ∧ (t.link l).good = k.good) ∧
    (∀ b, linksHeld s = true ∨ k.st = .disabled ∨ k.st = .deep ∨ k.idleUntil ≠ none → exec (.trainingSet l lane b) s = .next s) ∧
    (∀ w, k.choose s.now = some w → k.st ≠ .retrain ∨ k.deepRcvd = false →
      ∃ t, enterActive s l = t ∧ (t.link l).st = .active ∧ (t.link l).width = w ∧
        (t.link l).activeMask = lowLanes (k.common s.now) (2 ^ w) ∧ (t.link l).warm = false) ∧
    (k.st = .training ∨ k.st = .exiting → k.goodAt s.now ≠ 0 → k.sendTs2 = false → k.idleUntil = none → k.choose s.now ≠ none →
      k.farValid = true → k.goodSince + (if k.warm then 2000000 else 16000000) ≤ s.now →
      ∃ t, exec (.trainGoodStable l) s = .next t ∧ (t.link l).sendTs2 = true ∧ (t.link l).st = k.st ∧
        ∃ f : Nat → Bytes, t.outs = s.outs ++ (upTo 8).map (fun i => Out.train l true (f i)) ∧ ∀ i, i < 8 → byteAt (f i) 1 = 2) ∧
    (k.goodAt s.now = 0 ∨ s.now < k.goodSince + (if k.warm then 2000000 else 16000000) → exec (.trainGoodStable l) s = .next s) ∧
    (k.st = .training → k.idleUntil = none → k.trainStart + 2000000000 ≤ s.now → linksHeld s = false →
      ∃ t, exec (.trainTimeout l) s = .next t ∧ (t.link l).idleUntil = some (s.now + 1000000000) ∧ (t.link l).good = 0 ∧
        cntGet t.counters .blTrainFail l = sat64 (cntGet s.counters .blTrainFail l + 1)) ∧
    (s.now < k.trainStart + 2000000000 → exec (.trainTimeout l) s = .next s) ∧
    (∀ w, k.idleUntil = some w → (s.now < w → exec (.trainIdleEnd l) s = .next s) ∧
      (w ≤ s.now → ∃ t, exec (.trainIdleEnd l) s = .next t ∧ (t.link l).st = .training ∧ (t.link l).idleUntil = none ∧
        (t.link l).good = 0 ∧ (t.link l).trainStart = s.now ∧ ∀ j, (t.blLane l j).coeffs = .cold)) ∧
    (∀ v,
      let left : Link := { k with good := k.good &&& (255 - 2 ^ lane), lanes := Tbl.put k.lanes lane (countViol s.now y v) }
      let rest := k.st = .active ∨ k.st = .retrain
      (¬ rest ∨ bit k.activeMask lane = false → ∃ t, exec (.laneLost l lane v) s = .next t ∧ (t.link l).st = k.st ∧
        (t.link l).good = left.good ∧ (v ≠ 0 → (t.blLane l lane).viol = sat32 (y.viol + v))) ∧
      (rest → bit k.activeMask lane = true → left.choose s.now ≠ none → left.goodAt s.now &&& k.activeMask ≠ 0 →
        ∃ t, exec (.laneLost l lane v) s = .next t ∧ (t.link l).st = .retrain ∧ (t.link l).lostLane = some lane ∧
          (t.link l).good = left.good ∧ (t.blLane l lane).lost = true ∧ t.blpReqs = s.blpReqs) ∧
      (rest → bit k.activeMask lane = true → left.choose s.now = none ∨ left.goodAt s.now &&& k.activeMask = 0 →
        ∃ u : State, exec (.laneLost l lane v) s = .next (resetLink (u.integ
          { fcode := 0x0153, sev := 2, unitKind := 6, unit := l * 8 + lane, detail := 0 }) l) ∧ u = { s with links := u.links } ∧
          (u.blLane l lane).lost = true)) ∧
    (k.st ≠ .retrain ∨ s.now < k.retrainStart + 1000000000 → exec (.retrainTimeout l) s = .next s) ∧
    (k.st = .retrain → k.retrainStart + 1000000000 ≤ s.now →
      (k.lostLane = none → exec (.retrainTimeout l) s = .next (resetLink s l)) ∧
      (∀ n, k.lostLane = some n → exec (.retrainTimeout l) s = .next (resetLink (s.integ
        { fcode := 0x0153, sev := 2, unitKind := 6, unit := l * 8 + n, detail := 0 }) l))) ∧
    (k.st ≠ .active → exec (.laneFreeze l lane) s = .next s) ∧
    (k.st = .active → ∃ t, exec (.laneFreeze l lane) s = .next t ∧ (t.blLane l lane).frozen = true ∧
      (t.blLane l lane).coeffs = y.coeffs.hold s.cycle ∧ ∀ j, j ≠ lane → t.blLane l j = s.blLane l j) ∧
    (∀ errs : List Nat, k.st ≠ .active ∨ s.now < k.idleSince + 8000000 → exec (.exerciseSequence l errs) s = .next s) ∧
    (k.st = .active → k.idleSince + 8000000 ≤ s.now → ∀ errs : List Nat, ∃ t, exec (.exerciseSequence l errs) s = .next t ∧
      (∀ i, i < 8 → (t.blLane l i).frozen = false ∧
        ((s.blLane l i).frozen = true → (t.blLane l i).coeffs = .adapting) ∧
        ∀ n, errs[i]? = some n → n ≠ 0 → (t.blLane l i).exErr = sat32 ((s.blLane l i).exErr + n)) ∧
      t.outs = s.outs ++ [.exercise l (((upTo 8).filter (fun i => bit k.activeMask i)).map
        (fun i => (i, (prbs15Bytes 256 (0x7F00 + i)).2)))] ∧
      (t.link l).idleSince = s.now ∧ (t.link l).exUntil = s.now + 80625)) ∧
  (∀ (s : State) (l : Nat), okLink l = true →
    let k := s.link l
    (∀ b, tsOk b = true → byteAt b 1 = 2 → bit (byteAt b 6) 1 = true →
      (k.st = .active → k.replay = [] → k.owed = 0 → ∃ t, exec (.deepEntry l b) s = .next t ∧ (t.link l).st = .deep ∧
        (t.link l).deepSince = none ∧ cntGet t.counters .blDeepEntry l = sat64 (cntGet s.counters .blDeepEntry l + 1) ∧
        ∀ j, (t.blLane l j).coeffs = (s.blLane l j).coeffs.hold s.cycle) ∧
      (k.st = .active → k.replay ≠ [] ∨ k.owed ≠ 0 → ∃ t, exec (.deepEntry l b) s = .next t ∧ (t.link l).st = .active ∧
        (t.link l).deepRcvd = true ∧ (t.link l).deepSince = some (k.deepSince.getD s.now)) ∧
      (k.st = .retrain → ∃ t, exec (.deepEntry l b) s = .next t ∧ (t.link l).st = .retrain ∧ (t.link l).deepRcvd = true) ∧
      (k.st ≠ .active → k.st ≠ .retrain → exec (.deepEntry l b) s = .next s)) ∧
    (∀ w, k.deepSince = some w → k.st = .active → (s.now < w + 1000000000 → exec (.deepRefused l) s = .next s) ∧
      (w + 1000000000 ≤ s.now → ∃ t, exec (.deepRefused l) s = .next t ∧ (t.link l).deepRefused = true ∧
        (t.link l).deepSince = none ∧ (t.link l).deepRetry = some (s.now + 100000000000) ∧
        cntGet t.counters .blDeepRefused l = sat64 (cntGet s.counters .blDeepRefused l + 1))) ∧
    (∀ w, k.deepRetry = some w →
      (s.now < w → exec (.deepRetry l) s = .next s) ∧
      (w ≤ s.now → wantsDeep s l = false → ∃ t, exec (.deepRetry l) s = .next t ∧ (t.link l).deepRetry = none ∧
        (t.link l).deepSince = k.deepSince) ∧
      (w ≤ s.now → wantsDeep s l = true → k.st = .active → k.deepSince = none → k.deepRcvd = false →
        ∃ t, exec (.deepRetry l) s = .next t ∧ (t.link l).deepRetry = none ∧ (t.link l).deepSince = some s.now)) ∧
    (k.st = .deep → ∃ t, exec (.deepExit l) s = .next t ∧ (t.link l).st = .exiting ∧ (t.link l).warm = true ∧
      ∀ j, (t.blLane l j).coeffs = (s.blLane l j).coeffs) ∧
    (k.st ≠ .deep → exec (.deepExit l) s = .next s) ∧
    (k.st ≠ .exiting ∨ s.now < k.trainStart + 100000000 → exec (.warmTrainTimeout l) s = .next s) ∧
    (k.st = .exiting → k.trainStart + 100000000 ≤ s.now → ∃ t, exec (.warmTrainTimeout l) s = .next t ∧
      (t.link l).st = .training ∧ (t.link l).warm = false ∧ (∀ j, (t.blLane l j).coeffs = .cold) ∧
      cntGet t.counters .blWarmFail l = sat64 (cntGet s.counters .blWarmFail l + 1)))

/-- R419, R420, R422, R425, R427, R428, the lane-test rows: a PF alone changes a lane; a mode is taken only where the link
or port is disabled; the checker gains sync on 128 clean bits and loses it on 65 errors in 1,024; a read of the first
word latches all counts. -/
def Obligations.LanesAreTested : Prop :=
  (∀ (s : State) (x : LaneRef) (bits errors : Nat), okLane x = true →
    (∀ l k, x = .board l k → (s.blLane l k).test = 1 ∨ (s.blLane l k).test = 2 →
      ∃ t, exec (.prbsSync x bits errors) s = .next t ∧
        ((s.blLane l k).prbsSync = false → (t.blLane l k).prbsSync = (decide (128 ≤ bits) && errors == 0) ∧
          (t.blLane l k).prbsBits = (s.blLane l k).prbsBits ∧ (t.blLane l k).prbsErr = (s.blLane l k).prbsErr) ∧
        ((s.blLane l k).prbsSync = true → (t.blLane l k).prbsSync = !(decide (64 < errors) && decide (bits ≤ 1024)) ∧
          (t.blLane l k).prbsBits = min ((s.blLane l k).prbsBits + bits) (2 ^ 48 - 1) ∧
          (t.blLane l k).prbsErr = min ((s.blLane l k).prbsErr + errors) (2 ^ 32 - 1))) ∧
    (∀ l k, x = .board l k → (s.blLane l k).test = 0 ∨ 3 ≤ (s.blLane l k).test → exec (.prbsSync x bits errors) s = .next s) ∧
    (∀ i k, x = .tile i k → (s.tileLane i k).test ≠ 0 → ∃ t, exec (.prbsSync x bits errors) s = .next t ∧
      ((s.tileLane i k).prbsSync = false → (t.tileLane i k).prbsSync = (decide (128 ≤ bits) && errors == 0) ∧
        (t.tileLane i k).prbsBits = (s.tileLane i k).prbsBits ∧ (t.tileLane i k).prbsErr = (s.tileLane i k).prbsErr) ∧
      ((s.tileLane i k).prbsSync = true → (t.tileLane i k).prbsSync = !(decide (64 < errors) && decide (bits ≤ 1024)) ∧
        (t.tileLane i k).prbsBits = min ((s.tileLane i k).prbsBits + bits) (2 ^ 48 - 1) ∧
        (t.tileLane i k).prbsErr = min ((s.tileLane i k).prbsErr + errors) (2 ^ 32 - 1))) ∧
    (∀ i k, x = .tile i k → (s.tileLane i k).test = 0 → exec (.prbsSync x bits errors) s = .next s)) ∧
  ∀ (s : State) (fn v : Nat) (x : LaneRef), okFn fn = true → okLane x = true →
    (fn % 64 ≠ 0 ∨ s.live = false → exec (.cntClr fn x v) s = .next s ∧ exec (.inject fn x v) s = .next s ∧
      exec (.testModeWrite fn x v) s = .next s ∧
      (∀ l k, x = .board l k → exec (.blLaneCntLatch fn l k) s = .next (s.emit (.bar fn (zeros 4)))) ∧
      ∀ i k, x = .tile i k → exec (.tileLaneCntLatch fn i k) s = .next (s.emit (.bar fn (zeros 4)))) ∧
    (fn % 64 = 0 → s.live = true →
      (bit v 0 = false → exec (.cntClr fn x v) s = .next s ∧ exec (.inject fn x v) s = .next s) ∧
      (∀ l k, x = .board l k →
        (bit v 0 = true → exec (.cntClr fn x v) s =
          .next (s.updBlLane l k (fun y => { y with exErr := 0, viol := 0, prbsBits := 0, prbsErr := 0 }))) ∧
        (bit v 0 = true → ∃ t, exec (.inject fn x v) s = .next t ∧
          (t.blLane l k).inject = ((s.blLane l k).inject || (s.blLane l k).test == 1)) ∧
        (v % 8 = 0 → exec (.testModeWrite fn x v) s = .next (s.updBlLane l k (fun y => { y with test := 0, prbsSync := false }))) ∧
        (v % 8 ≠ 0 → 4 ≤ v % 8 ∨ (s.link l).enable = true →
          exec (.testModeWrite fn x v) s = .next (s.updBlLane l k (fun y => { y with testDenied := true }))) ∧
        (1 ≤ v % 8 → v % 8 < 4 → (s.link l).enable = false →
          exec (.testModeWrite fn x v) s = .next (s.updBlLane l k (fun y => { y with test := v % 8, prbsSync := false }))) ∧
        ∃ t, exec (.blLaneCntLatch fn l k) s = .next t ∧ t = { s with fns := t.fns, outs := t.outs } ∧
          t.outs = s.outs ++ [.bar fn (leBytes 4 (s.blLane l k).prbsErr)] ∧
          Tbl.find? (t.fn fn).laneLatch (l * 8 + k) = some ((s.blLane l k).exErr * 2 ^ 128 + (s.blLane l k).viol * 2 ^ 96 +
            (s.blLane l k).prbsBits * 2 ^ 32 + (s.blLane l k).prbsErr)) ∧
      (∀ i k, x = .tile i k →
        (bit v 0 = true → exec (.cntClr fn x v) s =
          .next (s.updTileLane i k (fun y => { y with prbsBits := 0, prbsErr := 0, fecSym := 0 }))) ∧
        (bit v 0 = true → (s.tileLane i k).test ≠ 0 →
          exec (.inject fn x v) s = .next (s.updTileLane i k (fun y => { y with inject := true }))) ∧
        ((s.tileLane i k).test = 0 → exec (.inject fn x v) s = .next s) ∧
        (v % 4 = 0 → exec (.testModeWrite fn x v) s = .next (s.updTileLane i k (fun y => { y with test := 0, prbsSync := false }))) ∧
        (v % 4 = 3 ∨ (v % 4 ≠ 0 ∧ (s.port (laneOwner s i k)).st ≠ .disabled) →
          exec (.testModeWrite fn x v) s = .next (s.updTileLane i k (fun y => { y with testDenied := true }))) ∧
        (v % 4 = 1 ∨ v % 4 = 2 → (s.port (laneOwner s i k)).st = .disabled →
          exec (.testModeWrite fn x v) s = .next (s.updTileLane i k (fun y => { y with test := v % 4, prbsSync := false }))) ∧
        ∃ t, exec (.tileLaneCntLatch fn i k) s = .next t ∧ t = { s with fns := t.fns, outs := t.outs } ∧
          t.outs = s.outs ++ [.bar fn (leBytes 4 (s.tileLane i k).prbsErr)] ∧
          Tbl.find? (t.fn fn).laneLatch (1024 + i * 64 + k) =
            some ((s.tileLane i k).fecSym * 2 ^ 96 + (s.tileLane i k).prbsBits * 2 ^ 32 + (s.tileLane i k).prbsErr)))

/-! The time unit (R309 to R350). -/

/-- R331, R333, R334, R336 to R338, R543, the ACTION rows and PULSE_END: a due slot acts once; a slot with no period or no firing
left leaves the table, another moves on by as many periods as lead past LIN; a PPS slot stays; what is not due does nothing;
pulses that overlap become one. R319, R328 to R332, TIME_ACTION: from the owner alone; kind 0 frees the slot, a target out of range is RANGE, one that has passed
fires late or is skipped, any other waits in its slot; the completion carries LIN. -/
def Obligations.ActionsAct : Prop :=
  (∀ (s : State) (i : Nat) (x : Sample), okSlot i = true →
    let rows := [(1, Instr.actionPulse i), (3, .actionTrigger i x), (4, .actionEvent i), (5, .actionSnapshot i)]
    let own := tuOwner s
    (∀ r ∈ rows, dueSlot s i r.1 = none → exec r.2 s = .next s) ∧
    (∀ r ∈ rows, ∀ c, dueSlot s i r.1 = some c →
      ∃ t, exec r.2 s = .next t ∧ t.tu.views = s.tu.views ∧
        (∀ j, j ≠ i → Tbl.find? t.tu.slots j = Tbl.find? s.tu.slots j) ∧
        (c.param = 0 → Tbl.find? t.tu.slots i = none) ∧
        (c.count ≠ 0 → c.count ≤ c.fired + 1 → Tbl.find? t.tu.slots i = none) ∧
        (c.param ≠ 0 → c.count = 0 ∨ c.fired + 1 < c.count →
          let next := wrap 64 ((c.target : Int) + c.param)
          let k := if d64 s.tu.views.linNs next < 0 then 0 else (d64 s.tu.views.linNs next).toNat / c.param + 1
          Tbl.find? t.tu.slots i = some { c with target := wrap 64 ((next : Int) + k * c.param), fired := c.fired + 1,
                                                 late := decide (0 < k), skipped := k }) ∧
        (r.1 = 1 → bit s.tu.pin c.pin = false ∨ lostReg s 0x3004 = true → t.tu.toutUntil = s.tu.toutUntil) ∧
        (r.1 = 1 → bit s.tu.pin c.pin = true → lostReg s 0x3004 = false →
          let a := s.tu.ticks + 2
          (Tbl.find? s.tu.toutUntil c.pin = none → Tbl.find? t.tu.toutUntil c.pin = some [(a, a + c.width)]) ∧
          ∀ f e, Tbl.find? s.tu.toutUntil c.pin = some [(f, e)] →
            (e ≤ a → Tbl.find? t.tu.toutUntil c.pin = some [(f, e), (a, a + c.width)]) ∧
            (a < e → f < a + c.width → Tbl.find? t.tu.toutUntil c.pin = some [(min a f, max (a + c.width) e)] ∧
              cntGet t.counters .pulseOverlap 0 = sat64 (cntGet s.counters .pulseOverlap 0 + 1))) ∧
        (r.1 = 3 → c.line = 0 → t.tu.latchLin = s.tu.views.linNs ∧ t.tu.latched ≠ none) ∧
        (r.1 = 3 → c.line = 1 → t.power.trig = x ∧ t.power.trigCount = (s.power.trigCount + 1) % 65536) ∧
        (r.1 = 4 ∨ (r.1 = 5 ∧ c.notify = false) → s.canWrite own 2 = false → (s.fn own).events.length < 256 →
          (t.fn own).events = (s.fn own).events ++ [timeBody s.tu (if r.1 = 4 then 0x0210 else 0x0213) i (b2n c.late)
            (if r.1 = 4 then c.skipped else 0) (d64 s.tu.views.linNs c.target) 0 s.place.evseq] ∧
          t.place.evseq = (s.place.evseq + 1) % 2 ^ 32)) ∧
    (∀ c, dueSlot s i 2 = some c →
      (s.tu.secCarry = false ∨ c.fired = s.tu.ticks + 1 → exec (.actionPps i) s = .next s) ∧
      (s.tu.secCarry = true → c.fired ≠ s.tu.ticks + 1 → ∃ t, exec (.actionPps i) s = .next t ∧
        Tbl.find? t.tu.slots i = some { c with late := false, fired := s.tu.ticks + 1 } ∧
        (bit s.tu.pin c.pin = true → lostReg s 0x3004 = false → Tbl.find? s.tu.toutUntil c.pin = none →
          Tbl.find? t.tu.toutUntil c.pin = some [(s.tu.ticks, s.tu.ticks + c.width)]))) ∧
    (dueSlot s i 2 = none → exec (.actionPps i) s = .next s) ∧
    (∀ pin, pin < 4 →
      (Tbl.find? s.tu.toutUntil pin = none → exec (.pulseEnd pin) s = .next s) ∧
      (∀ l, Tbl.find? s.tu.toutUntil pin = some l → ∃ t, exec (.pulseEnd pin) s = .next t ∧
        Tbl.getD t.tu.toutUntil pin [] = l.filter (fun q => decide (s.tu.ticks < q.2)) ∧
        ∀ q, q ≠ pin → Tbl.find? t.tu.toutUntil q = Tbl.find? s.tu.toutUntil q))) ∧
  (∀ (s : State) (fn n : Nat) (c : Cmd) (b : Bytes), Starts s fn 0x0040 n (.slot (byteAt b 0x10)) c b → b.length = 32 →
    let i := byteAt b 0x10
    let lin := s.tu.views.linNs
    let d := d64 (le b 0 8) lin
    (fn ≠ tuOwner s → exec (.timeAction fn (.data b)) s = .next (s.finish n stInvalidArg notPermitted)) ∧
    (fn = tuOwner s →
      (∀ o, slotBad b = some o → exec (.timeAction fn (.data b)) s = .next (s.finish n stInvalidArg (argAt o))) ∧
      (slotBad b = none → byteAt b 0x11 % 16 = 0 → ∃ u : State, exec (.timeAction fn (.data b)) s = .next (u.finish n stOk 0 lin) ∧
        Tbl.find? u.tu.slots i = none) ∧
      (slotBad b = none → byteAt b 0x11 % 16 ≠ 0 →
        (d < -(2 ^ 39) ∨ d > 2 ^ 39 - 1 → ∃ u : State, exec (.timeAction fn (.data b)) s = .next (u.finish n stRange 0) ∧ u.tu = s.tu) ∧
        (0 < d → d ≤ 2 ^ 39 - 1 → ∃ u : State, exec (.timeAction fn (.data b)) s = .next (u.finish n stOk 0 lin) ∧
          Tbl.find? u.tu.slots i = some { slotOf b false with since := s.tu.ticks } ∧ ∀ j, j ≠ i → Tbl.find? u.tu.slots j = Tbl.find? s.tu.slots j) ∧
        (d ≤ 0 → -(2 ^ 39) ≤ d → bit (byteAt b 0x12) 0 = false →
          ∃ u : State, exec (.timeAction fn (.data b)) s = .next (u.finish n stOk 0 lin) ∧
            Tbl.find? u.tu.slots i = some { slotOf b true with since := s.tu.ticks }) ∧
        (d ≤ 0 → -(2 ^ 39) ≤ d → bit (byteAt b 0x12) 0 = true →
          ∃ u : State, exec (.timeAction fn (.data b)) s = .next (u.finish n stOk 0 lin) ∧ Tbl.find? u.tu.slots i = none ∧
            cntGet u.counters .actSkipped 0 = sat64 (cntGet s.counters .actSkipped 0 + 1)))))

/-- R314 to R316, R335, R336, R349, R543, ACTION_STEP, STEP_APPLY and HOLDOVER_START: a step moves both views by its offset and
a negative one EPOCH; a STEP action and a register step of the same tick are added; a negative step cancels guarded slots, and
slots that a step makes due or moves out of range leave the table; without INC writes holdover begins. -/
def Obligations.StepsApply : Prop :=
  (∀ s : State,
    (∀ i, okSlot i = true → dueSlot s i 6 = none → exec (.actionStep i) s = .next s) ∧
    (∀ i c, okSlot i = true → dueSlot s i 6 = some c → (∀ p ∈ s.tu.slots, p.1 ≠ i → p.2.kind ≠ 6) →
      let own := sext 64 c.param * 2 ^ 32
      ((∀ off, s.tu.armed ≠ some (off, 0)) → ∃ t, exec (.actionStep i) s = .next t ∧ Tbl.find? t.tu.slots i = none ∧
        t.tu.armed = s.tu.armed ∧ t.tu.views = viewsAdd s.tu.views (own * 256) ∧
        t.tu.epoch = if own < 0 then (s.tu.epoch + 1) % 65536 else s.tu.epoch) ∧
      (∀ off, s.tu.armed = some (off, 0) → ∃ t, exec (.actionStep i) s = .next t ∧ Tbl.find? t.tu.slots i = none ∧
        t.tu.armed = none ∧ t.tu.views = viewsAdd s.tu.views ((own + off) * 256) ∧
        t.tu.epoch = if own + off < 0 then (s.tu.epoch + 1) % 65536 else s.tu.epoch)) ∧
    (∀ off, s.tu.armed = some (off, 0) → (∀ p ∈ s.tu.slots, p.2.kind ≠ 6) → ∃ t, exec .stepApply s = .next t ∧ t.tu.armed = none ∧
      t.tu.views = viewsAdd s.tu.views (off * 256) ∧ t.tu.inc = s.tu.inc ∧ t.tu.free = s.tu.free ∧
      t.tu.epoch = (if off < 0 then (s.tu.epoch + 1) % 65536 else s.tu.epoch) ∧
      (Tbl.sorted s.tu.slots = true → ∀ i c, Tbl.find? s.tu.slots i = some c →
        (off < 0 → c.guard = true → Tbl.find? t.tu.slots i = none) ∧
        (0 ≤ d64 t.tu.views.linNs c.target → c.kind ≠ 2 → c.param = 0 → Tbl.find? t.tu.slots i = none) ∧
        (d64 c.target t.tu.views.linNs > 2 ^ 39 - 1 → d64 t.tu.views.linNs c.target < 0 → Tbl.find? t.tu.slots i = none))) ∧
    (∀ off w, s.tu.armed = some (off, w + 1) → exec .stepApply s = .next s) ∧
    (s.tu.armed = none → exec .stepApply s = .next s) ∧
    (s.tu.hoMs ≠ 0 → s.tu.holdover = false → lostReg s 0x3008 = false → s.tu.hoMs * 500000 ≤ s.tu.sinceInc →
      ∃ t, exec .holdoverStart s = .next t ∧ t.tu.holdover = true ∧ t.tu.hoSeen = true ∧ t.tu.views = s.tu.views) ∧
    (s.tu.hoMs = 0 ∨ s.tu.holdover = true ∨ lostReg s 0x3008 = true ∨ s.tu.sinceInc < s.tu.hoMs * 500000 →
      exec .holdoverStart s = .next s))

/-- R312 to R317, R319, R327, R339, R340, TU_INC_COMMIT, TU_STEP_ARM, TU_SNAP_LATCH, TIN_CAPTURE and CAPTURE_DELIVER: the
owner's writes within range take effect, others are refused and noted; the snapshot is latched whole; a selected edge
is captured, a second one in a tick is lost, and the oldest capture goes to the owner's event ring. -/
def Obligations.TimeRegistersAct : Prop :=
  ∀ (s : State) (fn v : Nat), okFn fn = true →
    (s.live = false ∨ isPf fn = false → exec (.tuIncCommit fn v) s = .next s ∧ exec (.tuStepArm fn v) s = .next s) ∧
    (s.live = true → isPf fn = true →
      (tuWriter s fn = false →
        exec (.tuIncCommit fn v) s = .next (s.updTu (fun t => { t with writeDenied := true })) ∧
        exec (.tuStepArm fn v) s = .next (s.updTu (fun t => { t with writeDenied := true }))) ∧
      (tuWriter s fn = true →
        let inc := v % 65536 * 2 ^ 32 + s.tu.incLow
        (inc < 0x010000000000 ∨ 0x030000000000 < inc ∨ lostReg s 0x3010 = true →
          exec (.tuIncCommit fn v) s = .next (s.updTu (fun t => { t with incRefused := true }))) ∧
        (0x010000000000 ≤ inc → inc ≤ 0x030000000000 → lostReg s 0x3010 = false →
          ∃ t, exec (.tuIncCommit fn v) s = .next t ∧ t.tu.inc = inc ∧ t.tu.sinceInc = 0 ∧ t.tu.holdover = false ∧
            t.tu.views = s.tu.views ∧ (s.tu.holdover = false → t.fns = s.fns)) ∧
        (s.tu.armed ≠ none → exec (.tuStepArm fn v) s = .next (s.updTu (fun t => { t with stepRefused := true }))) ∧
        (s.tu.armed = none → exec (.tuStepArm fn v) s = .next (s.updTu (fun t =>
          { t with armed := some (sext 96 (v % 2 ^ 32 * 2 ^ 64 + s.tu.stepMid * 2 ^ 32 + s.tu.stepLow), 8) })))) ∧
      ∃ t, exec (.tuSnapLatch fn) s = .next t ∧ (t.fn fn).snap = snapBytes s.tu ∧
        t.outs = s.outs ++ [.bar fn (leBytes 4 (s.tu.views.linNs % 2 ^ 32))] ∧ t.tu = s.tu) ∧
    (∀ pin rising, pin < 4 → tclkRuns s = false ∨ lostReg s 0x3004 = true → exec (.tinCapture pin rising) s = .next s) ∧
    (∀ pin rising, pin < 4 → tclkRuns s = true → lostReg s 0x3004 = false →
      let sel := bit (bitsOf s.tu.pin (2 * pin + 9) (2 * pin + 8)) (if rising then 0 else 1)
      (sel = false → exec (.tinCapture pin rising) s = .next s) ∧
      (sel = true → Tbl.find? s.tu.tinTick pin = some s.tu.ticks → exec (.tinCapture pin rising) s = .next (s.count .tinLost 0 1)) ∧
      (sel = true → Tbl.find? s.tu.tinTick pin ≠ some s.tu.ticks → s.tu.ring.length < 1024 →
        ∃ t, exec (.tinCapture pin rising) s = .next t ∧ t.tu.ring = s.tu.ring ++ [⟨timeBody s.tu 0x0201 pin
          (if s.tu.gapNext then setBits (if rising then 0 else 4) 1 1 1 else if rising then 0 else 4) 0 0 0 0⟩] ∧
          Tbl.find? t.tu.tinTick pin = some s.tu.ticks) ∧
      (sel = true → Tbl.find? s.tu.tinTick pin ≠ some s.tu.ticks → 1024 ≤ s.tu.ring.length →
        ∃ t, exec (.tinCapture pin rising) s = .next t ∧ t.tu.ring = s.tu.ring ∧ t.tu.capOvf = true ∧
          t.tu.capDrop = min (s.tu.capDrop + 1) 0xFFFFFFFF)) ∧
    (s.tu.ring = [] → exec .captureDeliver s = .next s) ∧
    (∀ c r, s.tu.ring = c :: r → (s.canWrite (tuOwner s) 2 = false → exec .captureDeliver s = .next s) ∧
      (s.canWrite (tuOwner s) 2 = true → ∃ t, exec .captureDeliver s = .next t ∧ t.tu.ring = r ∧
        t.place.evseq = (s.place.evseq + 1) % 2 ^ 32))

/-! Integrity and recovery (R33, R273 to R308). -/

/-- R273 to R276, HARD_SCRUB and HARD_RESTORED: two equal copies of a word are the word; without them it is lost, a port
with it down, a sequencer's block out of service and a TOUT pin inactive; the master or the journal brings it back; a word in
its write vote is skipped. R109, R278 to R283, HBM_SCRUB, DATA_RESTORED, RULE_SCRUB, FAULT_SCRUB_DONE and BANK_RELOCATED: an
uncorrectable error poisons its granule; damaged data come back from the image copy, while there is a good one, and the queries
it would have reached are answered 0x30; a rule entry whose check fails is restored, or its bank retired and its rules moved. -/
def Obligations.WordsAndMemoryRecover : Prop :=
  (∀ (s : State) (obj : HardKind) (w : Nat), hardOk obj = true →
    let lost := s.place.lost.any (fun l => l.obj == obj && l.word == w)
    (∀ a b c, (a = b ∧ b = c) ∨ lost = true ∨ inVote s obj = true → exec (.hardScrub ⟨obj, w⟩ a b c) s = .next s) ∧
    (∀ a b c, ¬ (a = b ∧ b = c) → lost = false → inVote s obj = false →
      (a = b ∨ b = c ∨ a = c → ∃ t, exec (.hardScrub ⟨obj, w⟩ a b c) s = .next t ∧ t.place.lost = s.place.lost ∧
        cntGet t.counters .hardCorrected 0 = sat64 (cntGet s.counters .hardCorrected 0 + 1)) ∧
      (a ≠ b → b ≠ c → a ≠ c → ∃ t, exec (.hardScrub ⟨obj, w⟩ a b c) s = .next t ∧
        t.place.lost = s.place.lost ++ [{ obj := obj, at_ := s.now, word := w }] ∧
        cntGet t.counters .hardLost 0 = sat64 (cntGet s.counters .hardLost 0 + 1) ∧
        (∀ p, obj = .port p → portUp (s.port p) = true → (t.port p).st = .down) ∧
        (∀ k, obj = .sequencer k → (t.block k).retired = true) ∧
        (∀ f, obj = .reg f 0x3004 → t.tu.toutUntil = []))) ∧
    (∀ source, source < 3 → lost = false → exec (.hardRestored ⟨obj, w⟩ source) s = .next s) ∧
    (∀ source, source < 2 → lost = true → ∃ t, exec (.hardRestored ⟨obj, w⟩ source) s = .next t ∧
      t.place.lost = s.place.lost.filter (fun l => !(l.obj == obj && l.word == w)) ∧
      ∀ p, obj = .port p → (∀ l ∈ s.place.lost, l.obj = obj → l.word = w) → (t.port p).physSince = s.now) ∧
    (lost = true → ∃ t, exec (.hardRestored ⟨obj, w⟩ 2) s = .next t ∧ t.place.lost.map Lost.obj = s.place.lost.map Lost.obj ∧
      ∃ l ∈ t.place.lost, l.obj = obj ∧ l.word = w ∧ l.unrecoverable = true)) ∧
  (∀ s : State,
    (∀ g, g < hbmSize / 64 →
      (bit s.place.stackLive (stackOf (g * 64)) = false → ∀ u, exec (.hbmScrub g u) s = .next s) ∧
      (bit s.place.stackLive (stackOf (g * 64)) = true →
        (∃ t, exec (.hbmScrub g false) s = .next t ∧ t.hbm = s.hbm ∧ t.poison = s.poison ∧
          cntGet t.counters .eccCorrected 0 = sat64 (cntGet s.counters .eccCorrected 0 + 1)) ∧
        (∃ t, exec (.hbmScrub g true) s = .next t ∧ t.hbm = s.hbm ∧ (∀ h, h ∈ t.poison ↔ h = g ∨ h ∈ s.poison) ∧
          cntGet t.counters .poisonSet 0 = if g ∈ s.poison then cntGet s.counters .poisonSet 0
            else sat64 (cntGet s.counters .poisonSet 0 + 1)))) ∧
    (∀ ctx sec b hit bad, okCtx ctx = true → okBlock b = true →
      let xs := (((s.model ctx).vers.map Prod.snd).filter (MVer.on b)).flatMap
        (fun v => ((secTable v.image).filter (fun x => x.ty == sec)).map (fun x => (v, x)))
      let may := hit.all (fun t => (threadsUsing s b).any (fun p => p.1 == t && p.2.model == ctx && !p.2.done))
      (xs = [] ∨ may = false → exec (.dataRestored ctx sec b hit bad) s = .next s) ∧
      let s1 := foundBad s (xs.map (fun x => (x.1.copyAt + x.2.off, x.2.len))) bad
      (xs ≠ [] → may = true →
        ∃ t, exec (.dataRestored ctx sec b hit bad) s = .next t ∧
          (∀ h ∈ hit, ∀ y, Tbl.find? t.threads h = some y → y.fault = true ∧ y.done = true) ∧
          (∀ g ∈ bad, ∀ x ∈ xs, x.1.copyAt + x.2.off < g * 64 + 64 → g * 64 < x.1.copyAt + x.2.off + x.2.len →
            bit s.place.stackLive (stackOf (g * 64)) = true → g ∈ t.poison) ∧
          ((∀ x ∈ xs, copyState s1 x.1 x.2 = 0) → t.models = s.models ∧
            cntGet t.counters .dataRestored 0 = sat64 (cntGet s.counters .dataRestored 0 + 1)) ∧
          ((∃ x ∈ xs, copyState s1 x.1 x.2 ≠ 0) → (t.model ctx).st = 4))) ∧
    (∀ b k e flip, okBlock b = true → k < 64 → e < 1024 →
      (entryGood (flipEntry (storedEntry s b k e) flip) = true → exec (.ruleScrub b k e flip) s = .next s) ∧
      (entryGood (flipEntry (storedEntry s b k e) flip) = false → (s.block b).retired = false → (s.block b).retiredBanks.contains k = false →
        ∃ t, exec (.ruleScrub b k e flip) s = .next t ∧
          cntGet t.counters .ruleScrubFix 0 = sat64 (cntGet s.counters .ruleScrubFix 0 + 1) ∧
          ∀ x, Tbl.find? s.banks ((b * 64 + k) * 1024 + e) = some x →
            Tbl.find? t.banks ((b * 64 + k) * 1024 + e) = some { x with restored := some s.cycle })) ∧
    (∀ b k failed, okBlock b = true → k < 64 → (∀ e, failed = some e → e < 1024) →
      (∀ f, Tbl.find? s.place.bankFaults (b * 64 + k) = some f → f.relocating = true ∨ ∃ e, failed = some e ∧
        (∀ x, Tbl.find? s.banks ((b * 64 + k) * 1024 + e) = some x → x.group ≠ f.group)) →
      exec (.faultScrubDone b k failed) s = .next s) ∧
    (∀ b k reps, okBlock b = true → k < 64 → (∀ f, Tbl.find? s.place.bankFaults (b * 64 + k) = some f → f.relocating = false) →
      exec (.bankRelocated b k reps) s = .next s) ∧
    (∀ b k f, okBlock b = true → k < 64 → Tbl.find? s.place.bankFaults (b * 64 + k) = some f →
      (f.relocating = false →
        (∃ t, exec (.faultScrubDone b k none) s = .next t ∧ (t.block b).retiredBanks = k :: (s.block b).retiredBanks ∧
          cntGet t.counters .bankRetired 0 = sat64 (cntGet s.counters .bankRetired 0 + 1)) ∧
        (∀ e x, e < 1024 → Tbl.find? s.banks ((b * 64 + k) * 1024 + e) = some x → x.group = f.group →
          ((∀ w, x.restored = some w → w + dayCycles ≤ s.cycle) →
            ∃ t, exec (.faultScrubDone b k (some e)) s = .next t ∧
              (Tbl.find? t.place.bankFaults (b * 64 + k)).map BankFault.group = (f.more.head?).map Prod.fst ∧
              Tbl.find? t.banks ((b * 64 + k) * 1024 + e) = some { x with restored := some s.cycle }) ∧
          (∀ w, x.restored = some w → s.cycle < w + dayCycles →
            ∃ t, exec (.faultScrubDone b k (some e)) s = .next t ∧ k ∈ (t.block b).retiredBanks))) ∧
      (∀ reps, f.relocating = true →
        (mayRelocate s b k reps = false → exec (.bankRelocated b k reps) s = .next s) ∧
        (mayRelocate s b k reps = true → ∃ t, exec (.bankRelocated b k reps) s = .next t ∧
          Tbl.find? t.place.bankFaults (b * 64 + k) = none ∧ t.models = (relocated s reps).models ∧
          t.banks = (relocated s reps).banks))))

/-- R291 to R296, R303, TEST_DUE, TEST_DEFER_EXPIRY and BLOCK_TEST: a block's test falls due by its schedule and starts
once the block is free of work; after TEST_DEFER its work moves to a standby block, or the test is skipped; a block
that passes comes back, one that fails for good is retired. -/
def Obligations.BlocksAreTested : Prop :=
  ∀ (s : State) (b : Nat), okBlock b = true →
    let x := s.block b
    (s.live = true → x.retired = false → x.failed = false → x.testing = false → s.power.st < 3 →
      (x.testDue = none → s.now < nextDue s b → exec (.testDue b) s = .next s) ∧
      (x.testDue ≠ none → testReady s b = true → ∃ t, exec (.testDue b) s = .next t ∧ (t.block b).testing = true ∧
        (t.block b).fenced = true ∧ (t.block b).deferEnd = none) ∧
      (x.testDue ≠ none → testReady s b = false → x.deferEnd = none → ∃ t, exec (.testDue b) s = .next t ∧
        (t.block b).deferEnd = some (s.now + s.place.testDefer * 1000000000) ∧ (t.block b).testing = false ∧
        cntGet t.counters .testDeferred 0 = sat64 (cntGet s.counters .testDeferred 0 + 1)) ∧
      (x.testDue = none → nextDue s b ≤ s.now → ∃ t, exec (.testDue b) s = .next t ∧ (t.block b).testDue = some s.now ∧
        Tbl.find? t.place.lastTest b = some (nextDue s b))) ∧
    (∀ target : Option Nat, (∀ y, target = some y → okBlock y = true) →
      x.deferEnd = none ∨ (∃ e, x.deferEnd = some e ∧ s.now < e ∧ Tbl.getD s.place.skips b 0 < 2) ∨ s.power.st ≠ 0 ∨
        s.boot.activating ≠ none ∨ migrating s b = true ∨ holdsWork s b = false →
      exec (.testDeferExpiry b target) s = .next s) ∧
    (∀ e, x.deferEnd = some e → e ≤ s.now ∨ 2 ≤ Tbl.getD s.place.skips b 0 → s.power.st = 0 → s.boot.activating = none →
      migrating s b = false → holdsWork s b = true →
      (∀ y, okBlock y = true → (testTargets s b).contains y = true →
        ∃ t, exec (.testDeferExpiry b (some y)) s = .next t ∧ (t.block y).standby = false ∧ (t.block b).deferEnd = none ∧
          (t.block b).testMove = some (y, (s.block y).standby) ∧ (t.block b).testWork = workOn s b ∧
          Tbl.find? t.place.migs s.place.nextMig = some { cause := 1, src := b, dst := y, startedAt := s.now }) ∧
      (∀ y, okBlock y = true → (testTargets s b).contains y = false → exec (.testDeferExpiry b (some y)) s = .next s) ∧
      (testTargets s b ≠ [] → exec (.testDeferExpiry b none) s = .next s) ∧
      (testTargets s b = [] →
        ∃ t, exec (.testDeferExpiry b none) s = .next t ∧ (t.block b).testDue = none ∧ (t.block b).deferEnd = none ∧
          Tbl.find? t.place.skips b = some (Tbl.getD s.place.skips b 0 + 1) ∧
          cntGet t.counters .testSkip 0 = sat64 (cntGet s.counters .testSkip 0 + 1))) ∧
    (∀ y ∈ testTargets s b, y ≠ b ∧ ((s.block y).standby = true ∨ ∀ z ∈ standbys s, z ≠ b → (s.block z).testing = false →
      (s.block z).fenced = false → (roomShort (migSteered (afterMoves s) { cause := 1, src := b, dst := z }) z).isSome = true)) ∧
    (∀ results, (x.testing || testReady s b) = false ∨ x.retired = true ∨ readRun results 1 = none →
      exec (.blockTest b results) s = .next s) ∧
    (∀ results l, (x.testing || testReady s b) = true → x.retired = false → readRun results 1 = some l →
      (l.all (fun e => e.code == 1) = true → x.testMove = none → ∃ t, exec (.blockTest b results) s = .next t ∧
        (t.block b).fenced = false ∧ (t.block b).testing = false ∧ (t.block b).testDue = none ∧
        (t.block b).draining = false ∧ Tbl.find? t.place.skips b = none ∧
        cntGet t.counters .testPass 0 = sat64 (cntGet s.counters .testPass 0 + 1)) ∧
      (l.all (fun e => e.code == 1) = true → ∀ y, x.testMove = some (y, true) → x.testWork = [] →
        ∃ t, exec (.blockTest b results) s = .next t ∧ (t.block b).fenced = false ∧ (t.block b).testing = false ∧
          (t.block b).standby = true ∧ (t.block b).testMove = none) ∧
      (∀ k, 0 < k → l.all (fun e => e.code == 1 || e.code == 2) = true → l.countP (fun e => e.code == 2) = k → x.testMove = none →
        ∃ t, exec (.blockTest b results) s = .next t ∧ (t.block b).fenced = false ∧ (t.block b).retired = false ∧
          cntGet t.counters .testTransient 0 = min (cntGet s.counters .testTransient 0 + k) (2 ^ 64 - 1)) ∧
      (∀ k, x.testMove = none → (l.countP (fun e => e.code == 3) = 1 ∧ ⟨5, 3, some k⟩ ∈ l ∧ k < 4 ∧ x.retiredVses = []) →
        ∃ t, exec (.blockTest b results) s = .next t ∧ (t.block b).retiredVses = [k] ∧ (t.block b).retired = false) ∧
      (∀ k, x.testMove = none → (l.countP (fun e => e.code == 3) = 1 ∧ ⟨3, 3, some k⟩ ∈ l ∧ k < 64) →
        ∃ t, exec (.blockTest b results) s = .next t ∧ (t.block b).retiredBanks = k :: x.retiredBanks ∧ (t.block b).retired = false) ∧
      (l.any (fun e => e.code == 3 && e.unit.isNone) = true → ∃ t, exec (.blockTest b results) s = .next t ∧
        (t.block b).fenced = true ∧ (t.block b).retired = true))

/-- R29, R33, R168, R297 to R301, R559, R565, the failure rows: a failed block is fenced and retired and its work moves to the
block placement names; a lost VSE is retired and its runs are replayed, a second one takes its block along; services leave a dead core for the least-loaded one; a lost stack takes its flows, regions and
contexts with it; a fence takes every port down and holds the links. -/
def Obligations.FailuresContained : Prop :=
  (∀ (s : State) (b : Nat), okBlock b = true →
    (∀ i ∈ [Instr.blockFailure b ⟨0, none⟩, .blockFailure b ⟨1, none⟩, .blockFailure b ⟨2, none⟩, .blockFailure b ⟨3, none⟩, .sequencerHeartbeatMiss b],
      ((s.block b).retired = true → exec i s = .next s) ∧
      ((s.block b).retired = false → ∃ t, exec i s = .next t ∧ (t.block b).fenced = true ∧ (t.block b).retired = true ∧
        (t.block b).standby = false ∧ (t.block b).failed = holdsWork s b ∧ (t.block b).batch = none ∧
        (∀ c, c / 256 = b → Tbl.find? t.vctx c = none) ∧ t.threads = s.threads ∧
        cntGet t.counters .blockRetired 0 = sat64 (cntGet s.counters .blockRetired 0 + 1))) ∧
    (∀ u, u < 4 →
      ((s.block b).retired = true ∨ (s.block b).retiredVses.contains u = true → exec (.blockFailure b ⟨3, some u⟩) s = .next s) ∧
      ((s.block b).retired = false → (s.block b).retiredVses = [] → ∃ v, exec (.blockFailure b ⟨3, some u⟩) s =
          .next ((List.filter (fun (p : Nat × VCtx) => p.1 / 64 == b * 4 + u) s.vctx).foldl (fun s p => replayThread s p.2.thread) v) ∧
        (v.block b).retiredVses = [u] ∧ (v.block b).retired = false ∧ v.threads = s.threads ∧
        cntGet v.counters .vseRetired 0 = sat64 (cntGet s.counters .vseRetired 0 + 1)) ∧
      ((s.block b).retired = false → (s.block b).retiredVses ≠ [] → (s.block b).retiredVses.contains u = false →
        ∃ t, exec (.blockFailure b ⟨3, some u⟩) s = .next t ∧ (t.block b).fenced = true ∧ (t.block b).retired = true)) ∧
    (∀ y, okBlock y = true →
      ((s.block b).failed = false → exec (.blockRemapSteer b y) s = .next s) ∧
      (y ≠ b → maySteer s b y = false → exec (.blockRemapSteer b y) s = .next s) ∧
      (noneFits s b = false → exec (.blockRemapSteer b b) s = .next s) ∧
      ((s.block b).failed = true → y ≠ b → maySteer s b y = true → Tbl.sorted s.models = true →
        ∃ t, exec (.blockRemapSteer b y) s = .next t ∧
          (∀ m ∈ steerModels s b y, m ∉ modelsOn t b) ∧
          (∀ h f, Tbl.find? s.flows h = some f → f.home = some b → ∃ g, Tbl.find? t.flows h = some g ∧ g.home = some y)) ∧
      ((s.block b).failed = true → noneFits s b = true → Tbl.sorted s.models = true →
        ∃ t, exec (.blockRemapSteer b b) s = .next t ∧ modelsOn t b = []))) ∧
  (∀ (s : State) (core y sp : Nat), core < 16 → y < 16 → sp < 20 → s.live = true → s.boot.deadCores.contains core = false →
    (y ≠ core → s.boot.deadCores.contains y = false →
      (∀ c, c < 16 → c ≠ core → s.boot.deadCores.contains c = false → coreLoad s y ≤ coreLoad s c) →
      ∃ t, exec (.coreRestart core y) s = .next t ∧ t.boot.deadCores = core :: s.boot.deadCores ∧
        ∀ v, v < 14 → serviceCore t v = if serviceCore s v = core then y else serviceCore s v) ∧
    (Tbl.has s.boot.spCore sp = false → ∃ t, exec (.spFailover sp core) s = .next t ∧
      Tbl.find? t.boot.spCore sp = some core)) ∧
  (∀ (s : State) (k cause : Nat), k < 4 → cause < 3 →
    let many := decide (64 < (badGranules s k).length)
    ((cause = 0 ∧ many = false) ∨ bit s.place.stackLive k = false → exec (.stackLost k cause) s = .next s) ∧
    (cause ≠ 0 ∨ many = true → bit s.place.stackLive k = true →
      ∃ t, exec (.stackLost k cause) s = .next t ∧ t.place.stackLive = s.place.stackLive - 2 ^ k ∧
        (∀ a, Memory.get t.hbm a = if stackOf a = k then Memory.unlisted else Memory.get s.hbm a) ∧
        (∀ h f, Tbl.find? s.flows h = some f → h / 16 % 4 = k → Tbl.find? t.flows h = none) ∧
        (∀ r x, Tbl.find? s.regions r = some x → x.dev = s.boot.boardPos → stackOf x.base = k →
          Tbl.find? t.regions r = none ∧ ∀ m y v w, Tbl.find? s.models m = some y → Tbl.find? y.vers v = some w →
            r ∈ w.regions → (t.model m).st = 4))) ∧
  (∀ (s : State) (cause kind unit : Nat), cause < 3 → kind < 7 → unit < 32 →
    (s.power.fenced = true → exec (.fenced cause kind unit) s = .next s) ∧
    (s.power.fenced = false → ∃ t, exec (.fenced cause kind unit) s = .next t ∧ t.power.fenced = true ∧
      t.power.fences = s.power.fences + 1 ∧ t.power.fault.cause = cause + 1 ∧ t.power.fault.unit = unit ∧
      (∀ p, portUp (t.port p) = false) ∧ ∀ l, l < 7 → (t.link l).st = .training ∨ (t.link l).st = .disabled)) ∧
  ∀ (s : State) (dom die : Nat), dom < 9 →
    (∃ t, exec (.clockStall dom die) s = .next t ∧ (dom < 2 → t.power.fenced = true) ∧ (dom = 2 → t.tu.stalled = true) ∧
      (dom = 3 → die < 4 → bit s.place.stackLive die = true → t.place.stackLive = s.place.stackLive - 2 ^ die) ∧
      (dom = 4 → ∀ p, p / 8 = die / 8 → okPort p = true → portUp (t.port p) = false) ∧ (dom = 8 → t = s) ∧
      (dom = 7 → t.hostUp = s.hostUp.filter (· ≠ die)) ∧ (dom = 6 → die = 56 → t.power.stalledClk.contains 6 = true)) ∧
    (∃ t, exec (.clockReturn dom) s = .next t ∧ (dom = 2 → t.tu.stalled = false ∧ t.tu.views = s.tu.views) ∧
      (dom = 6 → s.power.stalledClk.contains 6 = true → t.power.stalledClk.contains 6 = false ∧
        ∀ l, l < 7 → (s.link l).enable = true → (t.link l).st = .training ∧ (t.link l).warm = false)) ∧
    (∀ key, Tbl.find? s.place.coal key = none → exec (.eventCoalesceFlush key) s = .next s) ∧
    ∀ key c, Tbl.find? s.place.coal key = some c →
      (s.now < c.postedAt + second → exec (.eventCoalesceFlush key) s = .next s) ∧
      (c.postedAt + second ≤ s.now → ∃ t, exec (.eventCoalesceFlush key) s = .next t ∧
        (c.count = 0 → Tbl.find? t.place.coal key = none ∧ t.place.evseq = s.place.evseq) ∧
        (c.count ≠ 0 → Tbl.find? t.place.coal key = some ⟨s.now, 0, 0, 0, 0, 0, 0⟩ ∧
          t.place.evseq = (s.place.evseq + 1) % 2 ^ 32))

/-! Placement, versions and flows (R21 to R23, R239 to R262, R396, R457, R458). -/

/-- R245, R246, R252, R258, MIGRATION_LOAD_DONE, FLOW_HOME_MOVE, MIGRATION_DONE and PLACEMENT_SAMPLE: once its target is ready, or
another chosen where it failed, a migration steers new work there, its flows follow when their last request has retired, and its
end frees the source; a sample of an enabled model starts the counts of the next 100 ms and adds the replica it asks for, and one
that cannot be placed is reported once a minute. R21, R23, R396, R457, R458, SHADOW_SWITCH, DRAIN_DEADLINE, MODEL_DRAIN_END, FLOW_REMOVE_DONE and
FLOW_AGE_EXPIRY: the new rules take over and the reload completes; a drain cancels what is left at its deadline and
ends with the last query; an idle flow is freed when asked to or of age. -/
def Obligations.WorkMovesAndDrains : Prop :=
  (∀ s : State,
    (∀ k g, Tbl.find? s.place.migs k = some g →
      (g.lost = true → newTarget s g = none → exec (.migrationLoadDone k) s = .next s) ∧
      (∀ d, g.lost = true → newTarget s g = some d → ∃ t h, exec (.migrationLoadDone k) s = .next t ∧
        Tbl.find? t.place.migs k = some h ∧ h.dst = d ∧ h.lost = false ∧ h.src = g.src) ∧
      (g.lost = false → g.switched = true ∨ (s.block g.dst).fenced = true ∨ (s.block g.dst).retired = true ∨
          (roomShort (migSteered s g) g.dst).isSome = true → exec (.migrationLoadDone k) s = .next s) ∧
      (g.lost = false → g.switched = false → (s.block g.dst).fenced = false → (s.block g.dst).retired = false →
        roomShort (migSteered s g) g.dst = none → g.src ≠ g.dst →
        ∃ t, exec (.migrationLoadDone k) s = .next t ∧ Tbl.find? t.place.migs k = some { g with switched := true } ∧
          (∀ m ∈ migModels s g, (t.curVer m).on g.src = false) ∧
          (g.what = .none ∨ migModels s g ≠ [] → ∀ h f, Tbl.find? s.flows h = some f → f.home = some g.src →
            Tbl.find? t.flows h = some { f with moving := some g.dst })) ∧
      (g.switched = false → exec (.migrationDone k) s = .next s) ∧
      (g.switched = true → migBusy (sweepAll s) g = true → exec (.migrationDone k) s = .next (sweepAll s)) ∧
      (g.switched = true → migBusy (sweepAll s) g = false → ∃ t, exec (.migrationDone k) s = .next t ∧
        Tbl.find? t.place.migs k = none ∧ t.threads = s.threads ∧ t.flows = s.flows)) ∧
    (∀ h f, okFlow h = true → Tbl.find? s.flows h = some f →
      (f.moving = none ∨ (flowReqs s h).any (fun p => p.2.evalBlock == f.home) = true → exec (.flowHomeMove h) s = .next s) ∧
      (∀ d, f.moving = some d → (flowReqs s h).all (fun p => p.2.evalBlock != f.home) = true →
        ∃ t, exec (.flowHomeMove h) s = .next t ∧ Tbl.find? t.flows h = some { f with home := some d, moving := none } ∧
          ∀ j, j ≠ h → Tbl.find? t.flows j = Tbl.find? s.flows j)) ∧
    ∀ ctx measured add, okCtx ctx = true →
      ((s.model ctx).st ≠ 2 ∨ s.now < (s.model ctx).sampledAt + 100000000000 →
        exec (.placementSample ctx measured add) s = .next s) ∧
      ((s.model ctx).st = 2 → (s.model ctx).sampledAt + 100000000000 ≤ s.now →
        let t := sampled s ctx measured
        (t.model ctx).sampledAt = s.now ∧ (t.model ctx).admitted = 0 ∧ (t.model ctx).refused = false ∧ (t.model ctx).st = 2 ∧
        (sampleGrows s t ctx = false → (t.model ctx).low < 100 ∨ (liveReps t ctx).length ≤ wantReplicas (t.curVer ctx) ∨
            Tbl.has s.place.stakes (stakeKey false ctx) = true →
          exec (.placementSample ctx measured add) s = .next t) ∧
        (sampleGrows s t ctx = false → 100 ≤ (t.model ctx).low → wantReplicas (t.curVer ctx) < (liveReps t ctx).length →
          Tbl.has s.place.stakes (stakeKey false ctx) = false → Tbl.sorted (t.curVer ctx).replicas = true →
          ∃ u, exec (.placementSample ctx measured add) s = .next u ∧ (u.model ctx).low = 0 ∧
            (liveReps u ctx).length + 1 = (liveReps t ctx).length) ∧
        (∀ r u, sampleGrows s t ctx = true → add = some r → newReplica t ctx r = some u →
          exec (.placementSample ctx measured add) s = .next (u.updModel ctx (fun y => { y with high := 0 }))) ∧
        (sampleGrows s t ctx = true → (∀ r, add = some r → newReplica t ctx r = none) →
          (replicaFits t ctx = true → exec (.placementSample ctx measured add) s = .next s) ∧
          (∀ w, replicaFits t ctx = false → (s.model ctx).shortAt = some w → s.now < w + 60 * second →
            exec (.placementSample ctx measured add) s = .next t) ∧
          (replicaFits t ctx = false → (∀ w, (s.model ctx).shortAt = some w → w + 60 * second ≤ s.now) →
            exec (.placementSample ctx measured add) s = .next ((t.updModel ctx (fun y => { y with shortAt := some s.now })).general
              [(s.model ctx).owner] 0x0303 0 (objCode 1 ctx) 0 (liveReps t ctx).length ((liveReps t ctx).length + 1)))))) ∧
  (∀ s : State,
    (∀ ctx, okCtx ctx = true →
      ((s.model ctx).shadow = none → exec (.shadowSwitch ctx) s = .next (sweepVersions s ctx)) ∧
      (∀ v cmd, (s.model ctx).shadow = some (v, cmd) → ∃ t, exec (.shadowSwitch ctx) s = .next t ∧ (t.model ctx).ver = v ∧
        (t.model ctx).shadow = none ∧ Tbl.find? t.cmds cmd = none ∧ t.threads = s.threads) ∧
      ((s.model ctx).drain = none → exec (.drainDeadline ctx) s = .next s ∧ exec (.modelDrainEnd ctx) s = .next s) ∧
      (∀ d, (s.model ctx).drain = some d →
        (d.expired = true ∨ s.cycle < d.until_ → exec (.drainDeadline ctx) s = .next s) ∧
        (d.expired = false → d.until_ ≤ s.cycle → ∃ t, exec (.drainDeadline ctx) s = .next t ∧
          (t.model ctx).drain = some { d with expired := true, cancelled := d.cancelled + (modelThreads s ctx).length } ∧
          (∀ k y, Tbl.find? t.threads k = some y → y.model = ctx → y.done = true) ∧
          (∀ k y q c, Tbl.find? s.threads k = some y → y.model = ctx → Tbl.find? s.reqs y.req = some q → q.recs[y.qi]? = some c →
            ∃ q' c', Tbl.find? t.reqs y.req = some q' ∧ q'.recs[y.qi]? = some c' ∧ c'.status = 0x31 ∧ c'.ready = true)) ∧
        ((modelThreads s ctx).isEmpty = false → exec (.modelDrainEnd ctx) s = .next s) ∧
        ((modelThreads s ctx).isEmpty = true → ∃ t, exec (.modelDrainEnd ctx) s = .next t ∧ Tbl.find? t.cmds d.cmd = none ∧
          (d.unload = true → Tbl.find? t.models ctx = none) ∧
          (d.unload = false → (t.model ctx).drain = none ∧ (t.model ctx).st = if (s.model ctx).st = 4 then 4 else 1)))) ∧
    ∀ h f, okFlow h = true → Tbl.find? s.flows h = some f →
      (f.removing = none ∨ flowInflight s h ≠ 0 → exec (.flowRemoveDone h) s = .next s) ∧
      (∀ n, f.removing = some n → flowInflight s h = 0 → ∃ t, exec (.flowRemoveDone h) s = .next t ∧
        Tbl.find? t.flows h = none ∧ Tbl.find? t.cmds n = none) ∧
      (flowInflight s h ≠ 0 ∨ s.cycle < f.lastUse + s.dev.flowAge * 1250000000 → exec (.flowAgeExpiry h) s = .next s) ∧
      (flowInflight s h = 0 → f.removing = none → f.lastUse + s.dev.flowAge * 1250000000 ≤ s.cycle →
        ∃ t, exec (.flowAgeExpiry h) s = .next t ∧ t.flows = Tbl.del s.flows h ∧ t = { s with flows := t.flows, reqs := t.reqs } ∧
          ∀ r q, Tbl.find? s.reqs r = some q → q.handle ≠ some h → Tbl.find? t.reqs r = some q))

/-! Host commands (R436 to R475). -/

/-- R23, R223, R224, R251, R281, R436, R456, R457, R475, R561, R562, R564, MODEL_LOAD: a legal image under a layout that placement
may choose and that fits enters an empty context, which the caller then owns, LOADED or ENABLED as the ENABLE bit says, and only
the bytes of its tables and of its copy change in HBM; in a context the caller owns it stands in shadow beside the version in
service; a layout that falls short ends in RESOURCE with the lowest code, an image that does not pass is refused with the number
of its check, an illegal argument block with its offset, and an image that cannot be read with DMA_ERROR. -/
def Obligations.ImagesLoad : Prop :=
  ∀ (s : State) (fn n : Nat) (c : Cmd) (b i : Bytes) (ch : PlaceChoice),
    let want := le b 0 2
    let m := if want = 0xFFFF then ch.ctx else want
    let o : ObjRef := if want = 0xFFFF then .none else .model m
    Starts s fn 0x0001 n o c b → c.argLen = 64 →
    let len := le b 0x18 8
    let img := padTo len (i.take len)
    let s1 := sweepAll (s.starting n o)
    let new := Tbl.has s.models m = false ∧ (if want = 0xFFFF then m < 4096 else isPf fn = true)
    let again := want ≠ 0xFFFF ∧ Tbl.has s.models m = true ∧ (s.model m).owner = fn
    let ver := if Tbl.has s.models m then (s1.model m).nextVer else 0
    (∀ off image, loadBad b = some off → exec (.modelLoad fn (.data b) image ch) s = .next (s.finish n stInvalidArg (argAt off))) ∧
    (∀ image, loadBad b = none → want = 0xFFFF → (∀ k, k < 4096 → Tbl.has s.models k = true) →
      exec (.modelLoad fn (.data b) image ch) s = .next (s.finish n stResource 0)) ∧
    (∀ image, loadBad b = none → want ≠ 0xFFFF → ¬ new → ¬ again →
      exec (.modelLoad fn (.data b) image ch) s = .next (s.finish n stNotFound 0)) ∧
    (loadBad b = none → new ∨ again →
      (∀ st, 64 ≤ len → exec (.modelLoad fn (.data b) (.err st) ch) s = .next (s1.finish n stDmaError st)) ∧
      (∀ d, 64 ≤ len → checkImage img len (progFits s1 img) = some d →
        exec (.modelLoad fn (.data b) (.data i) ch) s = .next (s1.finish n stInvalidImage d)) ∧
      (64 ≤ len → checkImage img len (progFits s1 img) = none →
        (loadBlocks s1 m = [] → exec (.modelLoad fn (.data b) (.data i) ch) s = .next (s1.finish n stResource 19)) ∧
        (loadBlocks s1 m ≠ [] → choiceShape s1 m img (loadArgs b) ch = false →
          exec (.modelLoad fn (.data b) (.data i) ch) s = .next s) ∧
        (loadBlocks s1 m ≠ [] → choiceShape s1 m img (loadArgs b) ch = true →
          (∀ k, choiceShort s1 fn m ver img (loadArgs b) ch = some k →
            (Tbl.has s.models m = false ∨ choiceShort (withoutOld s1 m) fn m ver img (loadArgs b) ch ≠ none →
              exec (.modelLoad fn (.data b) (.data i) ch) s = .next (s1.finish n stResource k)) ∧
            (Tbl.has s.models m = true → choiceShort (withoutOld s1 m) fn m ver img (loadArgs b) ch = none →
              exec (.modelLoad fn (.data b) (.data i) ch) s = .next (s1.finish n stResource 15))) ∧
          (choiceShort s1 fn m ver img (loadArgs b) ch = none → Tbl.has s.models m = false →
            ∃ u : State, exec (.modelLoad fn (.data b) (.data i) ch) s = .next (finishHbm u n m (loadResult (u.curVer m))) ∧
              (u.model m).owner = fn ∧ (u.model m).st = (if bit (le b 2 2) 0 then 2 else 1) ∧ (u.curVer m).image = img ∧
              (∀ k, k ≠ m → (u.model k).owner = (s.model k).owner ∧ (u.model k).st = (s.model k).st) ∧
              ∀ a, (∀ p ∈ choiceRegions s fn m img ch, p.2.dev = s.boot.boardPos →
                  a < p.2.base ∨ p.2.base + ((secBody img 0x12 p.1).drop 0x40).length ≤ a) →
                a < ch.copyAt ∨ ch.copyAt + img.length ≤ a → Memory.get u.hbm a = Memory.get s.hbm a) ∧
          (choiceShort s1 fn m ver img (loadArgs b) ch = none → Tbl.has s.models m = true →
            ∃ t, exec (.modelLoad fn (.data b) (.data i) ch) s = .next t ∧ (t.model m).shadow = some (ver, n) ∧
              (t.model m).ver = (s.model m).ver ∧ (t.model m).st = (s.model m).st ∧
              ∃ v, Tbl.find? (t.model m).vers ver = some v ∧ v.image = img)))) ∧
    (∀ u r0 r1, (u.power.hbmTrained = true → finishHbm u n r0 r1 = u.finish n stOk 0 r0 r1) ∧
      (u.power.hbmTrained = false → finishHbm u n r0 r1 =
        { u with cmds := Tbl.modify u.cmds n (fun c => { c with waitHbm := some (r0, r1) }) }))

/-- R457, R461, R475, MODEL_ENABLE, MODEL_DISABLE and MODEL_UNLOAD: ENABLE serves a LOADED context; DISABLE and UNLOAD of
an ENABLED one begin a drain of DEADLINE; UNLOAD of a LOADED one without queries frees it, its stake with it; in
another state ENABLE and DISABLE complete with STATE. -/
def Obligations.ContextsChangeState : Prop :=
  ∀ (s : State) (fn op n : Nat) (c : Cmd) (b : Bytes), Starts s fn op n (.model (le b 0 2)) c b → c.argLen = 16 →
    firstBad ((0, okCtx (le b 0 2)) :: rsvBytes b 2 16) = none →
    let m := le b 0 2
    Tbl.has s.models m = true → (s.model m).owner = fn →
    let s1 := s.starting n (.model m)
    let drained := fun (unload : Bool) (t : State) =>
      (t.model m).st = 3 ∧ (t.model m).ver = (s.model m).ver ∧
        (t.model m).drain = some { until_ := s.cycle + 1250 * (s.curVer m).args.deadline, unload := unload, cmd := n }
    (op = 0x0002 → exec (.modelEnable fn (.data b)) s =
      .next (if (s.model m).st = 1 then (s1.updModel m (fun x => { x with st := 2 })).finish n stOk 0
             else s1.finish n stState (0x0100 + (s.model m).st))) ∧
    (op = 0x0003 → (s.model m).st = 2 → ∃ t, exec (.modelDisable fn (.data b)) s = .next t ∧ drained false t) ∧
    (op = 0x0003 → (s.model m).st ≠ 2 → exec (.modelDisable fn (.data b)) s =
      .next (s1.finish n stState (0x0100 + (s.model m).st))) ∧
    (op = 0x0004 → (s.model m).st = 2 → ∃ t, exec (.modelUnload fn (.data b)) s = .next t ∧ drained true t) ∧
    (op = 0x0004 → (s.model m).st = 1 → (∀ p ∈ s.threads, p.2.model ≠ m) →
      ∃ u : State, exec (.modelUnload fn (.data b)) s = .next u ∧ Tbl.has u.models m = false ∧
        Tbl.has u.place.stakes (stakeKey false m) = false ∧ u.flows = s.flows)

/-- R458, FLOW_CONFIG: SET writes COLLECTOR and GAP_WAIT of the key's entry, or makes the entry with START_SEQ; REMOVE
frees an entry without queries in flight, and waits for those of another; a key without an entry is NOT_FOUND. R248,
R249, R294, R295, R461, STAKE and TEST_RUN: a stake is kept once its set holds the target's work, which moves there as far as
there is room, a stake without room is refused with what falls short, and CLEAR removes it; a test run makes the block's test due now and completes when it has been tested; a retired or failed
block answers STATE. -/
def Obligations.FlowsStakesAndTests : Prop :=
  (∀ (s : State) (fn n : Nat) (c : Cmd) (b : Bytes) (host : Bool) (key : Nat),
    host = bit (byteAt b 1) 0 → key = (if host then hostKey fn else be b 0x10 16) →
    Starts s fn 0x0010 n (.flow host key (le b 4 4)) c b → c.argLen = 32 →
    byteAt b 0 < 2 → byteAt b 1 < 2 → collectorOk (le b 2 2) = true → (le b 0x0C 4 ≤ 1000000 ∨ le b 0x0C 4 = 0xFFFFFFFF) →
    let s1 := s.starting n (.flow host key (le b 4 4))
    (host = true → allZero (slice b 0x10 16) = true) → (host = true ∨ isPf fn = true) →
    (∀ h f, byteAt b 0 = 0 → findFlow s host key (le b 4 4) = some h → Tbl.find? s.flows h = some f →
      ∃ u : State, exec (.flowConfig fn (.data b)) s = .next (u.finish n stOk 0 h) ∧
        Tbl.find? u.flows h = some { f with collector := le b 2 2, gapWait := le b 0x0C 4 } ∧ u = { s1 with flows := u.flows }) ∧
    (∀ h, byteAt b 0 = 0 → findFlow s host key (le b 4 4) = none → flowSlot s host key (le b 4 4) = some h →
      ∃ (u : State) (f : Flow), exec (.flowConfig fn (.data b)) s = .next (u.finish n stOk 0 h) ∧ Tbl.find? u.flows h = some f ∧
        f.host = host ∧ f.keyAddr = key ∧ f.flowId = le b 4 4 ∧ f.nextSeq = le b 8 4 ∧ f.gapWait = le b 0x0C 4 ∧
        f.collector = le b 2 2 ∧ (∀ k, k ≠ h → Tbl.find? u.flows k = Tbl.find? s.flows k) ∧ u = { s1 with flows := u.flows }) ∧
    (byteAt b 0 = 0 → findFlow s host key (le b 4 4) = none → flowSlot s host key (le b 4 4) = none →
      exec (.flowConfig fn (.data b)) s = .next (s1.finish n stResource 14)) ∧
    (byteAt b 0 = 1 → findFlow s host key (le b 4 4) = none →
      exec (.flowConfig fn (.data b)) s = .next (s1.finish n stNotFound 0)) ∧
    (∀ h, byteAt b 0 = 1 → findFlow s host key (le b 4 4) = some h → flowInflight s h = 0 →
      ∃ u : State, exec (.flowConfig fn (.data b)) s = .next (u.finish n stOk 0 h) ∧ Tbl.find? u.flows h = none ∧
        (∀ k, k ≠ h → Tbl.find? u.flows k = Tbl.find? s.flows k) ∧ u = { s1 with flows := u.flows, reqs := u.reqs }) ∧
    (∀ h f, byteAt b 0 = 1 → findFlow s host key (le b 4 4) = some h → flowInflight s h ≠ 0 → Tbl.find? s.flows h = some f →
      exec (.flowConfig fn (.data b)) s = .next { s1 with flows := Tbl.put s.flows h { f with removing := some n } })) ∧
  (∀ (s : State) (fn n : Nat) (c : Cmd) (b : Bytes), c.argLen = 16 →
    (byteAt b 0 < 2 → byteAt b 1 < 2 → le b 2 2 < 4096 → allZero (slice b 5 3) = true →
      let group := byteAt b 0 == 1
      let t := le b 2 2
      let o : ObjRef := if group then .group t else .model t
      let s1 := s.starting n o
      Starts s fn 0x0051 n o c b →
      (group = true → ∃ g, Tbl.find? s.groups t = some g ∧ g.owner = fn) →
      (group = false → Tbl.has s.models t = true ∧ (s.model t).owner = fn) →
      (byteAt b 1 = 1 → byteAt b 4 = 0 → le b 8 8 = 0 → ∀ moves,
        ∃ u : State, exec (.stake fn (.data b) moves) s = .next (u.finish n stOk 0) ∧
          Tbl.find? u.place.stakes (stakeKey group t) = none ∧
          (∀ k, k ≠ stakeKey group t → Tbl.find? u.place.stakes k = Tbl.find? s.place.stakes k) ∧
          u = { s1 with place := { s1.place with stakes := u.place.stakes } }) ∧
      (byteAt b 1 = 0 →
        let k : Stake := ⟨byteAt b 4, le b 8 8⟩
        let u : State := { s1 with place := { s1.place with stakes := Tbl.put s.place.stakes (stakeKey group t) k } }
        let set_ := (upTo 64).filter (stakeAllows u group t)
        let out := ((targetBlocks s group t).eraseDups).filter (fun x => !set_.contains x)
        let none_ := (upTo 64).any (fun x => bit k.blocks x && (s.block x).retired) || set_.isEmpty || staysOutside s group t k
        ∀ moves,
          (none_ = true → exec (.stake fn (.data b) moves) s = .next (s1.finish n stResource 19)) ∧
          (none_ = false → out = [] → exec (.stake fn (.data b) []) s = .next (u.finish n stOk 0)) ∧
          (none_ = false → out ≠ [] → out.any (migrating s) = true ∨ s.boot.activating ≠ none →
            exec (.stake fn (.data b) moves) s = .next s) ∧
          (none_ = false → out ≠ [] → out.any (migrating s) = false → s.boot.activating = none →
            (∀ codes, stakePlan o set_ out u = .inr codes →
              exec (.stake fn (.data b) moves) s = .next (s1.finish n stResource (codes.foldl min 19))) ∧
            (∀ p v, stakePlan o set_ out u = .inl p → moves.map Prod.fst = out → (∀ x ∈ moves, x.2 ∈ set_) →
              startMoves o moves u = some v → exec (.stake fn (.data b) moves) s = .next (v.finish n stOk 0))))) ∧
    (isPf fn = true → firstBad ((0, okBlock (byteAt b 0)) :: rsvBytes b 1 16) = none →
      let k := byteAt b 0
      let s1 := s.starting n (.block k)
      Starts s fn 0x0050 n (.block k) c b →
      ((s.block k).testCmd ≠ none → exec (.testRun fn (.data b)) s = .next s) ∧
      ((s.block k).testCmd = none →
      ((s.block k).retired = true ∨ (s.block k).failed = true →
        exec (.testRun fn (.data b)) s = .next (s1.finish n stState 0x0300)) ∧
      ((s.block k).retired = false → (s.block k).failed = false →
        ∃ t, exec (.testRun fn (.data b)) s = .next t ∧ (t.block k).testCmd = some n ∧
          ((s.block k).testDue = none → (t.block k).testDue = some s.now) ∧
          (∀ j, j ≠ k → t.block j = s.block j) ∧
          ((s.block k).testing = false → testReady (s1.updBlock k (fun x => { x with testDue := some s.now })) k = true →
            (t.block k).testing = true ∧ (t.block k).fenced = true)))))

/-- R170, R171, R207, R210, R243, R276, R459, R460, R564, GROUP_CREATE and GROUP_MEMBER: a legal group that fits is ACTIVE with
the blocks placement chose for its NACC shares; a group too large, or below level 3 of its tree, says what falls short; the
command for a group with a lost word brings it back; members are added and removed
from step E, and the command completes when that step has come. -/
def Obligations.GroupsAreMade : Prop :=
  ∀ (s : State) (fn n : Nat) (c : Cmd) (b : Bytes),
    let gn := le b 0 2
    let s1 := s.starting n (.group gn)
    (Starts s fn 0x0020 n (.group gn) c b → le b 0x30 2 ≤ 1024 → c.argLen = 64 + 8 * le b 0x30 2 → groupBad s b = none →
      (∀ g bs lv, lv < 4 → Tbl.find? s.groups gn = some g → g.owner = fn →
        ((∀ l ∈ s.place.lost, l.obj = .group gn → l.unrecoverable = false) →
          exec (.groupCreate fn (.data b) ⟨bs, lv⟩) s = .next (s1.finish n stState (0x0200 + g.st))) ∧
        ((∃ l ∈ s.place.lost, l.obj = .group gn ∧ l.unrecoverable = true) →
          ∃ u : State, exec (.groupCreate fn (.data b) ⟨bs, lv⟩) s = .next (u.finish n stOk 0) ∧ u.groups = s.groups ∧
            ∀ l ∈ u.place.lost, l.obj ≠ .group gn)) ∧
      (∀ lv, lv < 4 → Tbl.find? s.groups gn = none →
        let g := { groupOf fn b with level := if (groupOf fn b).root then 0 else lv + 1 }
        let k0 := ceilDiv (naccOf g) 2
        let c0 := accCandidates s gn 0 g (naccOf g)
        let c1 := accCandidates s gn 1 g (naccOf g)
        (∀ bs, 3 < g.level → exec (.groupCreate fn (.data b) ⟨bs, lv⟩) s = .next (s1.finish n stResource 18)) ∧
        (∀ bs, g.level ≤ 3 → c0.length < k0 ∨ c1.length < naccOf g - k0 →
          exec (.groupCreate fn (.data b) ⟨bs, lv⟩) s = .next (s1.finish n stResource 10)) ∧
        (∀ bs : List Nat, g.level ≤ 3 → k0 ≤ c0.length → naccOf g - k0 ≤ c1.length →
          (bs.length ≠ naccOf g ∨ ∃ x ∈ bs, x ∉ c0 ∧ x ∉ c1) → exec (.groupCreate fn (.data b) ⟨bs, lv⟩) s = .next s) ∧
        (∀ bs : List Nat, g.level ≤ 3 → k0 ≤ c0.length → naccOf g - k0 ≤ c1.length → bs.length = naccOf g →
          bs.eraseDups.length = naccOf g → (bs.filter (fun x => decide (x < 32))).length = k0 → (∀ x ∈ bs, x ∈ c0 ∨ x ∈ c1) →
          let u : State := { s1 with groups := Tbl.put s.groups gn { g with accBlocks := bs } }
          (∀ code, groupShort u gn = some code → exec (.groupCreate fn (.data b) ⟨bs, lv⟩) s = .next (s1.finish n stResource code)) ∧
          (groupShort u gn = none → exec (.groupCreate fn (.data b) ⟨bs, lv⟩) s = .next (finishHbm u n 0 0))))) ∧
    (Starts s fn 0x0021 n (.group gn) c b → 1 ≤ le b 2 2 → le b 2 2 ≤ 1024 → c.argLen = 8 + 32 * le b 2 2 →
      memberBad s b (le b 2 2) = none →
      ∀ g t, Tbl.find? s.groups gn = some g → g.owner = fn → g.st ≠ 3 →
        applyMembers (memberStart g) ((upTo (le b 2 2)).map (memberEntry b)) g.members = .inr t →
        (∀ l ∈ s.place.lost, l.obj ≠ .group gn) →
        let u := s1.updGroup gn (fun x => { x with members := t, memberCmd := some (n, memberStart g) })
        heldFits u = true → poolFits u = true → (g.level ≤ 2 ∨ ∀ p ∈ t, p.2.child = true → p.2.untilStep ≠ none) → lasting t ≤ 1024 →
        u.groups.foldl (fun a p => a + p.2.members.length) 0 ≤ 65536 →
        exec (.groupMember fn (.data b)) s =
          .next (if memberStart g ≤ g.stepAt g.oldest then
                   (u.updGroup gn (fun x => { x with memberCmd := none })).finish n stOk 0 (memberStart g)
                 else u))

/-- R21, R209, R211, R212, R215, R216, R254, R461, GROUP_DELETE, GROUP_DIGEST and GROUP_RELEASE: a deleted group is gone, with its
stake and what of it was lost, and no other group changes; DIGEST sets the referee, at the step boundary where a step is open;
RELEASE ends the hold from the hold step, expelling the members of the replicas it names and of those that waited, and a group
still without a tree neighbour is then DEGRADED. -/
def Obligations.GroupsAreRuled : Prop :=
  ∀ (s : State) (fn n : Nat) (c : Cmd) (b : Bytes) (g : Group),
    let gn := le b 0 2
    let s1 := s.starting n (.group gn)
    Tbl.find? s.groups gn = some g → g.owner = fn →
    (Starts s fn 0x0022 n (.group gn) c b → c.argLen = 16 → firstBad ((0, okCtx (le b 0 2)) :: rsvBytes b 2 16) = none →
      g.memberCmd = none →
      ∃ u : State, exec (.groupDelete fn (.data b)) s = .next (u.finish n stOk 0) ∧ Tbl.find? u.groups gn = none ∧
        (∀ k, k ≠ gn → Tbl.find? u.groups k = Tbl.find? s.groups k) ∧
        Tbl.find? u.place.stakes (stakeKey true gn) = none ∧ (∀ l ∈ u.place.lost, l.obj ≠ .group gn)) ∧
    (Offers s fn 0x0022 n c → c.badOff = none → b.length = 16 → c.argLen = 16 →
      firstBad ((0, okCtx (le b 0 2)) :: rsvBytes b 2 16) = none →
      ∀ m e, g.memberCmd = some (m, e) → objBusy (s.finish m stState 0x02FF) fn n (.group gn) = false →
        ∃ u : State, exec (.groupDelete fn (.data b)) s = .next (u.finish n stOk 0) ∧ Tbl.find? u.groups gn = none) ∧
    (Starts s fn 0x0023 n (.group gn) c b → c.argLen = 16 → gn < 4096 → 1 ≤ byteAt b 4 → byteAt b 4 ≤ 64 →
      allZero (slice b 5 3) = true → 1 ≤ le b 8 4 → le b 8 4 ≤ 60000 → allZero (slice b 12 4) = true →
      let x : Group := if g.blocks = [] ∧ g.blockAt g.oldest = 0 then
          { g with k := le b 2 2, digestLen := byteAt b 4, digestWait := le b 8 4,
                   digests := if le b 2 2 = 0 then [] else g.digests }
        else { g with nextDigest := some (le b 2 2, byteAt b 4, le b 8 4) }
      let u : State := { s1 with groups := Tbl.put s.groups gn x }
      exec (.groupDigest fn (.data b)) s = .next (u.finish n stOk 0)) ∧
    (Starts s fn 0x0024 n (.group gn) c b → le b 2 2 ≤ 1024 → c.argLen = releaseLen (le b 2 2) → gn < 4096 →
      firstBad (rsvBytes b 4 8 ++ rsvBytes b (8 + 2 * le b 2 2) (releaseLen (le b 2 2))) = none →
      (g.st ≠ 2 → exec (.groupRelease fn (.data b)) s = .next (s1.finish n stState (0x0200 + g.st))) ∧
      (g.st = 2 → ∃ u : State, exec (.groupRelease fn (.data b)) s = .next (u.finish n stOk 0 g.holdStep) ∧
        (∀ k, k ≠ gn → Tbl.find? u.groups k = Tbl.find? s.groups k) ∧
        ∃ x, Tbl.find? u.groups gn = some x ∧ x.st < 2 ∧ x.waitExpel = [] ∧
          (g.missing = [] ∨ g.cause = 2 → x.st = 0 ∧ x.cause = 5 ∧ x.missing = g.missing.filter (fun _ => g.cause != 2)) ∧
          (g.cause = 2 → x.oldest = g.stepAt g.oldest * g.nblk) ∧
          ∀ k m, Tbl.find? g.members k = some m → m.child = false → m.lastsTo g.holdStep = true →
            (m.replica ∈ g.waitExpel ∨ ∃ i, i < le b 2 2 ∧ m.replica = le b (8 + 2 * i) 2) →
            ∃ m', Tbl.find? x.members k = some m' ∧ m'.untilStep = some g.holdStep))

/-- R254, R351, R352, R376, R392, R462 to R465, PORT_PLAN, PORT_CONFIG and ROUTE: the plans named are entered; a port's
setting is the one given and its neighbours' settings stay; settings of the device, of a management port and the route
entries apply in list order, as far as the tables have room. -/
def Obligations.PortsAreConfigured : Prop :=
  ∀ (s : State) (fn n : Nat) (c : Cmd) (b : Bytes), isPf fn = true →
    (Starts s fn 0x0030 n .none c b → 1 ≤ le b 0 2 → le b 0 2 ≤ 1160 → c.argLen = 8 + 128 * le b 0 2 →
      firstBad (rsvBytes b 2 8 ++ (upTo (le b 0 2)).flatMap (fun i => planFields b (8 + 128 * i))) = none →
      let es := (upTo (le b 0 2)).map (fun i => planEntry fn b (8 + 128 * i))
      let s1 : State := { s.starting n .none with plans := es.foldl (fun t e => Tbl.put t e.1 e.2) s.plans }
      ∃ u : State, exec (.portPlan fn (.data b)) s = .next (u.finish n stOk 0) ∧ u.plans = s1.plans ∧
        ((∀ e ∈ es, portUp (s.port e.1) = false) → u = s1)) ∧
    (let t := le b 0 2
     let k := le b 2 2
     1 ≤ k → k ≤ 256 → c.argLen = 8 + 48 * k →
      (t / 4096 = 0 → Starts s fn 0x0031 n (.port (bitsOf t 10 4)) c b →
        let s1 := s.starting n (.port (bitsOf t 10 4))
        let p := if bit t 3 then bitsOf t 10 4 * 8 else portOf t
        let l := settingsOf b k
        firstBad ((0, !bit t 11 && (bit t 3 || portExists s p)) :: (rsvBytes b 4 8 ++
          (upTo k).flatMap (fun i => portFields s b (8 + 48 * i) p (bit t 3)))) = none →
        let u := (l.map Prod.snd).foldl (applyPort p (bit t 3)) s1
        (∀ o, pairBad u p (bit t 3) l = some o → exec (.portConfig fn (.data b)) s = .next (s1.finish n stInvalidArg (argAt o))) ∧
        (pairBad u p (bit t 3) l = none → poolFits u = false →
          exec (.portConfig fn (.data b)) s = .next (s1.finish n stResource 17)) ∧
        (pairBad u p (bit t 3) l = none → poolFits u = true → (∀ x ∈ u.place.lost, ∀ q, x.obj ≠ .port q) →
          exec (.portConfig fn (.data b)) s = .next (u.finish n stOk 0)) ∧
        (∀ i, i < k → 0x0103 ≤ le b (8 + 48 * i) 2 → bit t 3 = false → ∀ v : State,
          let x := (le b (8 + 48 * i) 2, le b (10 + 48 * i) 2, portValue (le b (8 + 48 * i) 2) (slice b (16 + 48 * i) 40))
          ((applyPort p false v x).port p).cfg = (v.port p).cfg.set x.1 x.2.1 x.2.2 ∧
            ∀ q, q ≠ p → ((applyPort p false v x).port q).cfg = (v.port q).cfg)) ∧
      (t = 0x3000 → Starts s fn 0x0031 n .device c b →
        firstBad (rsvBytes b 4 8 ++ (upTo k).flatMap (fun i => devFields b (8 + 48 * i))) = none →
        exec (.portConfig fn (.data b)) s =
          .next ({ s.starting n .device with dev := ((upTo k).map (fun i => 8 + 48 * i)).foldl (applyDev b) s.dev }.finish n stOk 0)) ∧
      (∀ g, g < 2 → t = 0x1000 + g → Starts s fn 0x0031 n (.mgmt g) c b →
        firstBad (rsvBytes b 4 8 ++ (upTo k).flatMap (fun i => mgmtFields b (8 + 48 * i))) = none →
        ∃ u : State, exec (.portConfig fn (.data b)) s = .next (u.finish n stOk 0) ∧
          (∀ h, h ≠ g → Tbl.find? u.mgmts h = Tbl.find? s.mgmts h) ∧
          u = { s.starting n (.mgmt g) with mgmts := u.mgmts, dev := { s.dev with wake := u.dev.wake } }) ∧
      (∀ l, l < 7 → t = 0x2000 + l → Starts s fn 0x0031 n (.link l) c b →
        firstBad (rsvBytes b 4 8 ++ (upTo k).flatMap (fun i => linkFields b (8 + 48 * i))) = none →
        ∃ u : State, exec (.portConfig fn (.data b)) s = .next (u.finish n stOk 0) ∧
          (k = 1 → le b 8 2 = 0x0402 → (u.link l).minWidth = Nat.log2 (le b 16 40) ∧
            u = { s.starting n (.link l) with links := u.links }))) ∧
    (Starts s fn 0x0032 n .routes c b → 1 ≤ le b 0 4 → le b 0 4 ≤ 65536 → c.argLen = 8 + 64 * le b 0 4 →
      firstBad (rsvBytes b 4 8 ++ ((upTo (le b 0 4)).map (fun i => 8 + 64 * i)).flatMap (routeFields b)) = none →
      let w := ((upTo (le b 0 4)).map (fun i => 8 + 64 * i)).foldl (applyRoute fn b) s.fwd
      (fwdFits w = false → exec (.route fn (.data b)) s = .next ((s.starting n .routes).finish n stResource 16)) ∧
      (fwdFits w = true → ∃ u : State, exec (.route fn (.data b)) s = .next (u.finish n stOk 0 (le b 0 4)) ∧ u.fwd = w ∧
        (∀ k ∈ s.place.lost, ∀ t x, k.obj ≠ .route t x) → u = { s.starting n .routes with fwd := w }))

/-- R308, R336, R444, R445, R466, STATS, and what every command checks: READ answers the counters of a scope as far as
OUT_LEN holds whole records, READ_CLEAR clears those it wrote, READ_LATCHED answers the latched values; the inventory
lists what the function owns; a diagnostic read answers the window's bytes where all of them are the function's. A command with a wrong ARG_LEN, a reserved byte set, an argument block that cannot be
read, or that its function may not give, completes with the error's code and does nothing else. -/
def Obligations.StatisticsAndChecks : Prop :=
  (∀ (s : State) (fn n : Nat) (c : Cmd) (b : Bytes), Starts s fn 0x0052 n .none c b → c.argLen = 16 → c.outAddr % 64 = 0 →
    statsBad s b = none →
    let s1 := s.starting n .none
    let room := c.outLen / 32
    ((byteAt b 0 < 5 ∧ isPf fn = true) ∨ (byteAt b 0 = 5 ∧ Tbl.has s.models (le b 2 2) = true ∧ (s.model (le b 2 2)).owner = fn) ∨
        (byteAt b 0 = 6 ∧ ∃ g, Tbl.find? s.groups (le b 2 2) = some g ∧ g.owner = fn) →
      let obj := match byteAt b 0 with | 0 => 0 | 1 => portOf (le b 2 2) | 2 => 65536 + le b 2 2 | 4 => 0 | _ => le b 2 2
      let names := scopeNames (byteAt b 0)
      let recs := fun t : Tbl Nat => names.map (fun x => statRec x.2.2 (cntGet t x.1 obj x.2.1))
      (byteAt b 1 = 0 → exec (.stats fn (.data b)) s = .next ((settleAll s1).finish n stOk 0 names.length
        (min names.length room) ((recs (settleAll s1).counters).take room).flatten)) ∧
      (byteAt b 1 = 1 → ∃ u : State, exec (.stats fn (.data b)) s = .next (u.finish n stOk 0 names.length
        (min names.length room) ((recs (settleAll s1).counters).take room).flatten) ∧
          (∀ x ∈ names.take room, cntGet u.counters x.1 obj x.2.1 = 0) ∧ u = { settleAll s1 with counters := u.counters }) ∧
      (byteAt b 1 = 2 → ∃ out r w, exec (.stats fn (.data b)) s = .next (s1.finish n stOk 0 r w out) ∧
        (1 ≤ room → out.take 32 = statRec "LATCH_LIN" s.tu.latchLin))) ∧
    (byteAt b 0 = 5 → (Tbl.has s.models (le b 2 2) && (s.model (le b 2 2)).owner == fn) = false →
      exec (.stats fn (.data b)) s = .next (s1.finish n stNotFound 0)) ∧
    (byteAt b 0 = 8 →
      let u : State := { s1 with freeCount := s.freeCount + 1 }
      (windowMine s fn s.freeCount (le b 4 4) (le b 8 4) = false →
        exec (.stats fn (.data b)) s = .next (u.finish n stInvalidArg (argAt 4))) ∧
      (windowMine s fn s.freeCount (le b 4 4) (le b 8 4) = true → exec (.stats fn (.data b)) s = .next (u.finish n stOk 0 0 0
        ((upTo (min (le b 8 4) c.outLen)).map (fun i => windowAt s s.freeCount (le b 4 4 + i)))))) ∧
    (byteAt b 0 = 7 → exec (.stats fn (.data b)) s = .next (s1.finish n stOk 0 (inventory s fn).length
      (min (inventory s fn).length room) ((inventory s fn).take room).flatten))) ∧
  (∀ (s : State) (fn n op : Nat) (c : Cmd) (i : Dma → Instr), Offers s fn op n c →
    (op, i) ∈ [(0x0002, Instr.modelEnable fn), (0x0003, .modelDisable fn), (0x0004, .modelUnload fn),
      (0x0022, .groupDelete fn), (0x0023, .groupDigest fn), (0x0050, .testRun fn), (0x0051, fun a => .stake fn a []),
      (0x0052, .stats fn)] →
    (op = 0x0050 → isPf fn = false → ∀ a, exec (i a) s = .next (s.finish n stInvalidArg notPermitted)) ∧
    (op ≠ 0x0050 ∨ isPf fn = true →
      (c.argLen ≠ 16 → c.badOff = none → ∀ a, exec (i a) s = .next (s.finish n stInvalidArg 0x18)) ∧
      (∀ o a, c.argLen = 16 → c.badOff = some o → exec (i a) s = .next (s.finish n stInvalidArg o)) ∧
      (∀ e, c.argLen = 16 → c.badOff = none → exec (i (.err e)) s = .next (s.finish n stDmaError e)))) ∧
  (∀ (s : State) (n st d r0 r1 : Nat) (c : Cmd) (out : Bytes), s.cmds = [(n, c)] → c.silent = false →
    let f := s.fn c.fn
    let r := f.ring 1
    f.comps = [] → f.events = [] → f.rxQ = [] → (∀ i, Tbl.getD f.replies i [] = []) → s.canWrite c.fn 1 = true →
    r.modUs ≠ 0 → r.unsig + 1 < r.modCount →
    let w := compDesc c st d r0 r1 out.length
    let t := s.finish n st d r0 r1 out
    t.cmds = [] ∧ ((t.fn c.fn).ring 1).index = (r.index + 1) % 2 ^ 32 ∧
      t.outs = s.outs ++ (if out.isEmpty then [] else [.dma c.fn c.outAddr out]) ++
        [.dma c.fn (r.base + 64 * (r.index % r.size))
           (BitVec.ofNat 8 (b2n (r.index / r.size % 2 == 0)) :: w.drop 1),
         .dma c.fn r.piAddr (leBytes 4 ((r.index + 1) % 2 ^ 32))])

/-! Boot, firmware and power (R296 to R303, R476 to R523). -/

/-- R476 to R489, R551, EFFECTIVE_RELEASE, BOOT_FLASH, PUSH_LEN_WRITE, PUSH_IMAGE_DONE, HBM_TRAINED and
BOOT_START_TIMEOUT: release latches the straps and runs the boot ROM, which halts on a reserved strap; an image that
passes every check starts, and one that fails leaves the code of the check, in WAIT_PUSH where a push is allowed and
in HALT otherwise; trained stacks make the firmware READY, and one that is not READY in 1 s falls back. -/
def Obligations.TheDeviceBoots : Prop :=
  ∀ s : State,
    let cfg := readConfig s.boot
    let fell := fun (x : Boot) (e : Nat) (t : State) =>
      t.boot.err = e ∧ t.boot.st = (if x.hostPushEn then 3 else 6) ∧ (x.hostPushEn = false → t.power.fault.cause = 0x10 ∧ t.power.fault.sub = e)
    let started := fun (b : Bytes) (src : Nat) (t : State) =>
      t.boot.st = 4 ∧ t.boot.source = src ∧ t.boot.fwVersion = le b 8 4 ∧ t.boot.startedAt = s.now ∧ t.power.hbmTrained = false ∧
        t = { s with boot := t.boot, power := { s.power with hbmTrained := false } }
    (∀ src pos prof, src < 4 → pos < 8 → prof < 4 → s.power.powered = true → s.power.fenced = false → s.boot.released = false →
      ∃ t, exec (.effectiveRelease src pos prof) s = .next t ∧ t.boot.released = true ∧ t.boot.bootSrc = src ∧
        t.boot.boardPos = pos ∧ t.boot.profile = prof ∧ t.tu.locked = true ∧ t.boot.st = (if src = 3 then 6 else 1) ∧
        (src = 3 → t.boot.err = 10) ∧ ∀ l, l < 7 → (t.link l).st = .training) ∧
    (∀ c i, s.boot.st = 1 → s.power.fenced = false → s.boot.bootSrc ≠ 0 →
      exec (.bootFlash c i) s = .next { s with boot := { cfg c with st := 3 } }) ∧
    (∀ c b, s.boot.st = 1 → s.power.fenced = false → s.boot.bootSrc = 0 →
      let x := cfg (some c)
      (imageCheck b x.minVersion x.ownerId = 0 → ∃ t, exec (.bootFlash (some c) (some b)) s = .next t ∧ started b 0 t ∧
        t.boot.cfg = x.cfg) ∧
      (imageCheck b x.minVersion x.ownerId ≠ 0 → ∃ t, exec (.bootFlash (some c) (some b)) s = .next t ∧
        fell x (imageCheck b x.minVersion x.ownerId) t) ∧
      ∃ t, exec (.bootFlash (some c) none) s = .next t ∧ fell x 1 t) ∧
    (∀ fn v, okFn fn = true → mayPush s fn = true → s.boot.pushing = none →
      ∃ t, exec (.pushLenWrite fn v) s = .next t ∧ (t.fn fn).pushResult = 1 ∧ t.boot.pushing = some fn ∧
        t.boot.pushLen = v % 2 ^ 32 ∧ t.boot.pushPort = fn / 64) ∧
    (∀ fn, s.boot.pushing = some fn → s.boot.st = 3 → s.power.fenced = false →
      let e := fun b : Bytes => imageCheck (b.take s.boot.pushLen) s.boot.minVersion s.boot.ownerId
      (∀ b, e b = 0 → ∃ t, exec (.pushImageDone (.data b)) s = .next t ∧ started (b.take s.boot.pushLen) 1 t) ∧
      (∀ b, e b ≠ 0 → ∃ t, exec (.pushImageDone (.data b)) s = .next t ∧ t.boot.st = 3 ∧ t.boot.err = e b ∧
        t.boot.pushing = none ∧ (t.fn fn).pushResult = 3) ∧
      ∀ x, ∃ t, exec (.pushImageDone (.err x)) s = .next t ∧ t.boot.err = 8 ∧ (t.fn fn).pushResult = 3) ∧
    (s.power.hbmTrained = false → s.power.fenced = false → s.power.st = 0 → s.boot.st = 4 →
      ∃ t, exec .hbmTrained s = .next t ∧ t.boot.st = 5 ∧ t.power.hbmTrained = true) ∧
    (s.power.hbmTrained = false → s.power.fenced = false → s.power.st = 0 → s.boot.st = 5 →
      (∀ p ∈ s.cmds, p.2.waitHbm = none) →
      exec .hbmTrained s = .next { s with power := { s.power with hbmTrained := true } }) ∧
    (s.boot.st = 4 → s.boot.startedAt + second ≤ s.now → ∃ t, exec .bootStartTimeout s = .next t ∧ fell s.boot 9 t)

/-- R461, R488, R491 to R493, R495, FW_STAGE, FW_ACTIVATE, FLASH_PROGRAM_DONE, ACTIVATE_MIGRATION_TIMEOUT and POWER_STATE:
an image that passes is staged; activation waits for placement, hands every service over, programs the flash and runs
the staged image, or is undone; POWER_STATE answers the state, sets the caller's request, or waits for an activation. -/
def Obligations.FirmwareIsReplaced : Prop :=
  (∀ (s : State) (fn n : Nat) (c : Cmd) (b : Bytes), isPf fn = true →
    (Starts s fn 0x0060 n .firmware c b → c.argLen = 16 → le b 8 4 ≤ 25165824 → allZero (slice b 12 4) = true →
      activator s = none ∨ activator s = some fn →
      let s1 := s.starting n .firmware
      (∀ e, exec (.fwStage fn (.data b) (.err e)) s = .next (s1.finish n stDmaError e)) ∧
      (∀ d, imageCheck (d.take (le b 8 4)) s.boot.minVersion s.boot.ownerId ≠ 0 →
        exec (.fwStage fn (.data b) (.data d)) s = .next (s1.finish n stSignature 0)) ∧
      (∀ d, imageCheck (d.take (le b 8 4)) s.boot.minVersion s.boot.ownerId = 0 →
        let f := firmwareOf (d.take (le b 8 4))
        exec (.fwStage fn (.data b) (.data d)) s =
          .next (if s.boot.running.jrnl < f.jrnlMin then s1.finish n stState 0x0401
                 else { s1 with boot := { s.boot with staged := some f, stagedBy := fn } }.finish n stOk 0 f.version))) ∧
    (Starts s fn 0x0070 n .none c b → c.argLen = 16 → firstBad (rsvBytes b 2 16) = none → byteAt b 1 < 8 →
      let s1 := s.starting n .none
      (byteAt b 0 = 0xFF → exec (.powerState fn (.data b)) s = .next (s.finish n stOk 0 s.power.st)) ∧
      (byteAt b 0 ≤ 4 → s.boot.activating.isSome = true → exec (.powerState fn (.data b)) s =
        .next { s1 with boot := { s.boot with pwrWait := s.boot.pwrWait ++ [(fn, byteAt b 0, byteAt b 1, n)] } }) ∧
      (byteAt b 0 ≤ 4 → s.boot.activating = none → ∃ u : State,
        exec (.powerState fn (.data b)) s = .next (u.finish n stOk 0 s.power.st) ∧ (u.fn fn).pwrTarget = byteAt b 0 ∧
          (u.fn fn).pwrWake = byteAt b 1 ∧ ∀ g, g ≠ fn → (u.fn g).pwrTarget = (s.fn g).pwrTarget))) ∧
  (∀ (s : State) (fn n : Nat) (c : Cmd) (f : Firmware), s.boot.staged = some f → s.boot.pwrWait = [] →
    let done := fun t : State => t.boot.running = f ∧ t.boot.fwVersion = f.version ∧ t.boot.staged = none ∧
      t.boot.source = 2 ∧ t.boot.activating = none ∧ t.boot.cores = handOver s ∧
      t.boot.flash = (if s.boot.bootSrc = 0 then 1 else s.boot.flash)
    let undone := fun (x : Option Firmware) (t : State) => t.boot.running = s.boot.running ∧ t.boot.staged = x ∧
      t.boot.activating = none ∧ t.boot.cores = s.boot.cores
    (Starts s fn 0x0061 n .firmware c [] → isPf fn = true → s.boot.activating = none →
      let s1 := s.starting n .firmware
      (placementQuiet s = false → ∀ r,
        exec (.fwActivate fn r) s = .next { s1 with boot := { s.boot with activating := some (n, s.now) } }) ∧
      (placementQuiet s = true →
        (∃ u : State, exec (.fwActivate fn true) s = .next (u.finish n stOk 0 f.version) ∧ done u) ∧
        ∃ u : State, exec (.fwActivate fn false) s = .next (u.finish n stState 0x0403) ∧ undone none u)) ∧
    (∀ t0, okFn fn = true → s.boot.activating = some (n, t0) → Tbl.find? s.cmds n = some c → c.fn = fn → s.live = true →
      placementQuiet s = true →
      (∃ u : State, exec (.fwActivate fn true) s = .next (u.finish n stOk 0 f.version) ∧ done u) ∧
      ∃ u : State, exec (.fwActivate fn false) s = .next (u.finish n stState 0x0403) ∧ undone none u) ∧
    (∀ t0, s.boot.activating = some (n, t0) → placementQuiet s = false → t0 + 10 * second ≤ s.now →
      ∃ u : State, exec .activateMigrationTimeout s = .next (u.finish n stState 0x0402) ∧ undone (some f) u)) ∧
  (∀ (s : State) (ok : Bool), s.boot.flash = 1 →
    exec (.flashProgramDone ok) s = .next { s with boot := { s.boot with flash := if ok then 2 else 3 } })

/-- R508 to R513, R518, R522, STATE_ENTRY, EGRESS_DRAIN_EXPIRY, STATE_EXIT, WAKE_N, WAKE_N_HIGH, WAKE_PATTERN_MATCH,
PCIE_WAKE, PWR_REQ_WRITE, PF_ATTACH_CHANGE and PCIE_LINK_CHANGE: an entry sequence goes down state by state, after
threads and egress queues are empty; S2 has no port up, S3 keeps neither HBM nor work, and waits while a context or
group exists; a wake source in force makes every TARGET S0 and leaves the state; requests count while their function
is attached. -/
def Obligations.PowerStatesChange : Prop :=
  ∀ s : State,
    (s.boot.st = 5 → s.power.fenced = false → s.power.transit = .none → s.power.st < entryGoal s →
      exec .stateEntry s =
        .next { s with power := { s.power with transit := .drain s.now (entryGoal s) false false } }) ∧
    (∀ since goal e w, s.boot.st = 5 → s.power.fenced = false → s.power.transit = .drain since goal e w →
      (s.power.st = 0 → e = false → s.threads ≠ [] → exec .stateEntry s = .next s) ∧
      (s.power.st = 0 → e = false → s.threads = [] → egressEmpty s = false →
        exec .stateEntry s = .next { s with power := { s.power with transit := .drain s.now goal true w } }) ∧
      (s.power.st = 0 → s.threads = [] → egressEmpty s = true → ∃ t, exec .stateEntry s = .next t ∧ t.power.st = 1 ∧
        ∀ b, b < 64 → (t.block b).gated = true) ∧
      (s.power.st = 0 → e = true → since + milli ≤ s.now → ∃ t, exec .egressDrainExpiry s = .next t ∧ t.power.st = 1) ∧
      (s.power.st = 1 → w = false → ∃ t, exec .stateEntry s = .next t ∧ t.power.st = 2 ∧ t.power.laserIdle = true ∧
        ∀ p, portUp (t.port p) = false) ∧
      (2 ≤ s.power.st → w = false → holdReason s ≠ 0 ∨ s.power.wakeLow = true → ∃ t, exec .stateEntry s = .next t ∧
        t.power.st = s.power.st ∧ t.power.transit = .none) ∧
      (s.power.st = 2 → holdReason s = 0 → s.power.wakeLow = false → ∃ t, exec .stateEntry s = .next t ∧ t.power.st = 3 ∧
        t.hbm = [] ∧ t.flows = [] ∧ t.reqs = [] ∧ t.threads = [] ∧ t.blpReqs = [] ∧ t.hostUp = [] ∧ t.power.hbmTrained = false) ∧
      (s.power.st = 3 → holdReason s = 0 → s.power.wakeLow = false → ∃ t, exec .stateEntry s = .next t ∧ t.power.st = 4 ∧
        t.power.stopped = [0, 1, 2, 3])) ∧
    (s.power.fenced = false → s.power.transit = .none → s.power.targetEff < s.power.st → s.power.st ≤ 2 →
      ∃ t, exec .stateExit s = .next t ∧ t.power.transit = .exit s.now ∧ t.power.wakeSrc = 1 ∧ t.power.st = s.power.st) ∧
    (∀ since, s.power.fenced = false → s.power.transit = .exit since → ∃ t, exec .stateExit s = .next t ∧ t.power.st = 0 ∧
      t.power.transit = .none ∧ t.power.laserIdle = false ∧ t.power.stopped = []) ∧
    (let woke := fun (src pat : Nat) (t : State) => t.power.wakeSrc = src ∧ t.power.wakePat = pat ∧ t.power.targetEff = 0 ∧
      (∀ f ∈ pfs, (t.fn f).pwrTarget = 0) ∧ (s.power.transit = .none → t.power.transit = .exit s.now)
     s.power.fenced = false → mayWake s = true →
      (s.power.st = 4 ∨ bit s.power.wakeEff 0 = true → ∃ t, exec .wakeN s = .next t ∧ woke 2 0 t ∧ t.power.wakeLow = true) ∧
      (s.power.st ≠ 4 → bit s.power.wakeEff 0 = false →
        exec .wakeN s = .next { s with power := { s.power with wakeLow := true } }) ∧
      (∀ mg f p, mg < 2 → s.power.st = 3 → bit s.power.wakeEff 1 = true → 64 ≤ f.length → fcsOk f = true →
        List.find? (fun (q : Nat × WakeRec) => wakeMatch q.2 mg f) s.dev.wake = some p →
        ∃ t, exec (.wakePatternMatch mg f) s = .next t ∧ woke 3 p.1 t) ∧
      ∀ h, h < 4 → s.power.st = 3 → bit s.power.wakeEff 2 = true → ∃ t, exec (.pcieWake h) s = .next t ∧ woke 4 0 t) ∧
    exec .wakeNHigh s = .next { s with power := { s.power with wakeLow := false } } ∧
    (∀ fn v, okFn fn = true → isPf fn = true → s.live = true → ∃ t, exec (.pwrReqWrite fn v) s = .next t ∧
      (t.fn fn).pwrTarget = (if v % 8 ≤ 4 then v % 8 else (s.fn fn).pwrTarget) ∧ (t.fn fn).pwrWake = bitsOf v 10 8 ∧
      (attached s fn = true → s.power.transit = .none → t.power.targetEff ≤ (t.fn fn).pwrTarget)) ∧
    (∀ fn on, okFn fn = true → ∃ t, exec (.pfAttachChange fn on) s = .next t ∧
      t = { s with power := { s.power with targetEff := t.power.targetEff, wakeEff := t.power.wakeEff } } ∧
      (isPf fn = true → on = true → attached s fn = true → s.power.transit = .none →
        t.power.targetEff ≤ (s.fn fn).pwrTarget)) ∧
    (∀ h, h < 4 → (s.power.st ≤ 2 → s.power.powered = true → s.hostUp.contains h = false →
        exec (.pcieLinkChange h true) s = .next { s with hostUp := s.hostUp ++ [h] }) ∧
      ∃ t, exec (.pcieLinkChange h false) s = .next t ∧ h ∉ t.hostUp ∧ ∀ f, f < 64 → Tbl.find? t.fns (64 * h + f) = none)

/-- R496, R498, R500, R503, R506, R520, R521, VIN_APPLIED, VIN_UV, VIN_OV, TILE_FAULT, OVER_TEMP, TELEMETRY_SAMPLE and
CLEAR_FAULTS: each power fault fences the device, stops the converters it names, and leaves its cause in the fault
record; every sample of S0 to S2 is kept and sets or ends the throttle at the profile's PMAX and at 100 °C;
CLEAR_FAULTS clears the status bits whose conditions have ended and not the record. -/
def Obligations.TheSupplyIsWatched : Prop :=
  ∀ s : State,
    let hit := fun (sub kind unit : Nat) (t : State) => t.power.fenced = true ∧ (s.power.fenced = false →
      t.power.fault.cause = 4 ∧ t.power.fault.sub = sub ∧ t.power.fault.unitKind = kind ∧ t.power.fault.unit = unit ∧
        t.power.fences = s.power.fences + 1 ∧ t.power.transit = .none ∧ ∀ p, portUp (t.port p) = false)
    (s.power.powered = false → exec .vinApplied s =
      .next { s with power := { s.power with powered := true, dumping := false, vinOn := s.now,
                                             stopped := if s.power.fenced then s.power.stopped else [] } }) ∧
    (s.power.powered = true →
      (∃ t, exec .vinUv s = .next t ∧ hit 1 0 0 t ∧ t.power.powered = false ∧ t.power.dumping = true ∧
        t.power.stopped = [0, 1, 2, 3] ∧ bit t.power.stInput 4 = true) ∧
      (∃ t, exec .vinOv s = .next t ∧ hit 2 0 0 t ∧ t.power.powered = false ∧ t.power.stopped = [0, 1, 2, 3] ∧
        bit t.power.stInput 7 = true) ∧
      (∀ k, k < 4 → ∃ t, exec (.tileFault k) s = .next t ∧ hit 3 5 k t ∧ k ∈ t.power.stopped ∧
        (s.power.stopped.length ≠ 4 → t.power.stopAt = some (s.now + milli))) ∧
      (∀ k d, 1 ≤ k → k < 7 → d < 32 → ∃ t, exec (.overTemp k d) s = .next t ∧ hit 4 k d t ∧ bit t.power.stTemp 7 = true)) ∧
    (∀ x, 3 ≤ s.power.st → exec (.telemetrySample x) s =
      .next { s with power := { s.power with vins := (x.vin :: s.power.vins).take 10,
                                             stInput := s.power.stInput ||| ((if 60000 < x.vin then 0x40 else 0) |||
                                               (if x.vin < 40000 then 0x20 else 0)) } }) ∧
    (∀ x, s.power.st ≤ 2 → s.power.powered = true → s.power.fenced = false →
      ∃ t, exec (.telemetrySample x) s = .next t ∧ t.power.samples = (x :: s.power.samples).take 10 ∧
        t.power.vins = (x.vin :: s.power.vins).take 10 ∧
        (pmax s.boot.profile < x.pin ∨ 100000 ≤ x.tDie → t.power.throttle = true) ∧
        (x.pin < pmax s.boot.profile - 100000 → x.tDie < 95000 → t.power.throttle = false) ∧
        (x.pin ≤ pmax s.boot.profile → x.tDie < 100000 → pmax s.boot.profile - 100000 ≤ x.pin ∨ 95000 ≤ x.tDie →
          t.power.throttle = s.power.throttle)) ∧
    (∃ t, exec .clearFaults s = .next t ∧ t.power.cml = false ∧ t.power.stThrottle = s.power.throttle ∧
      t.power.fault = s.power.fault ∧
      (∀ v l, s.power.vins = v :: l → 40000 ≤ v → v ≤ 60000 → t.power.stInput = 0) ∧
      ((s.power.samples.headD {}).tDie < 100000 → t.power.stTemp = 0) ∧
      t = { s with power := { s.power with cml := false, stThrottle := s.power.throttle, stInput := t.power.stInput,
                                           stTemp := t.power.stTemp } })

/-- R519 to R521, STATUS_WORD to MFR_SAMPLE and PMBUS_UNSUPPORTED: what each PMBus read answers, the block reads with
their count byte first, and nothing else changes; a code of no command is refused and sets CML. The words of the
telemetry reads are the mean of the samples kept in LINEAR11, whose rounding is the model's free value (log 11). -/
def Obligations.ManagementBusAnswers : Prop :=
  ∀ s : State,
    let p := s.power
    let w := fun f : Sample → Int => lin11 (mean (p.samples.map f))
    (∀ x ∈ [(Instr.statusWord, leBytes 2 (statusWord s)), (.statusInput, leBytes 1 p.stInput),
        (.statusTemperature, leBytes 1 p.stTemp), (.readVin, lin11 (mean p.vins)), (.readIin, w Sample.iin),
        (.readPin, w Sample.pin), (.readTemperature1, w Sample.tDie), (.readTemperature2, w Sample.tTile),
        (.pmbusRevision, [0x33]),
        (.mfrState, leBytes 1 (p.wakeSrc * 32 + b2n p.laserIdle * 16 + b2n (p.transit != .none) * 8 + p.st)),
        (.mfrFaultRecord, 16 :: faultBytes p.fault),
        (.mfrTileIin, 8 :: (w (fun x => x.tiles.getD 0 0) ++ w (fun x => x.tiles.getD 1 0) ++ w (fun x => x.tiles.getD 2 0) ++
          w (fun x => x.tiles.getD 3 0))),
        (.mfrSample, 8 :: (lin11 p.trig.vin ++ lin11 p.trig.iin ++ lin11 p.trig.pin ++ leBytes 2 p.trigCount))],
      exec x.1 s = .next { s with outs := s.outs ++ [.pmbus x.2] }) ∧
    bit (statusWord s) 6 = (p.fenced || s.boot.st == 6) ∧ bit (statusWord s) 13 = (p.stInput != 0) ∧
    bit (statusWord s) 12 = p.stThrottle ∧ bit (statusWord s) 3 = bit p.stInput 4 ∧
    bit (statusWord s) 2 = (p.stTemp != 0) ∧ bit (statusWord s) 1 = p.cml ∧
    (∀ c, c < 256 → c ∉ pmbusCodes →
      exec (.pmbusUnsupported c) s = .next { s with power := { p with cml := true }, outs := s.outs ++ [.nack] })

/-! Rings, functions and registers (R437 to R442, R474, R524 to R545). -/

/-- R437 to R443, R532, R533, RING_POLL, DEVICE_RING_CI_POLL, MSIX_MODERATION_EXPIRY, RING_ENABLE and RING_DISABLE: a poll
takes the descriptors between the index and PI, as far as the class allows, in order, and writes CI; a PI or CI that
no ring of this size can have, or one that cannot be read, stops the ring with its cause; a legal ring starts from
index 0 and an illegal one sets CFG_ERR. -/
def Obligations.RingsMoveWork : Prop :=
  ∀ (s : State) (fn r : Nat), okRing fn r = true →
    let g := (s.fn fn).ring r
    let stopped := fun (cause : Nat) (i : Instr) => ∃ u : State,
      exec i s = .next (u.general pfs 0x0330 cause 0 0 (ringClass r) (ringNum r)) ∧ u = { s with fns := u.fns } ∧
        (u.fn fn).ring r = { g with enable := false, stopCause := cause } ∧ (u.fn fn).ringStopped = true
    (hostRing r = true → s.fnLive fn = true → g.enable = true → s.ringLost fn r = false → g.polled + g.pollUs * 1000000 ≤ s.now →
      (∀ ds, stopped 2 (.ringPoll fn r none ds)) ∧
      (∀ (pi : Nat) ds, g.size < wrap 32 ((pi : Int) - g.index) → stopped 1 (.ringPoll fn r (some pi) ds)) ∧
      (∀ (pi : Nat) ds, wrap 32 ((pi : Int) - g.index) ≤ g.size →
        let m := min (wrap 32 ((pi : Int) - g.index)) (fetchLimit s fn r)
        let l := chunks 64 m (padTo (64 * m) (ds.take (64 * m)))
        ∃ u : State, exec (.ringPoll fn r (some pi) ds) s = .next (refuseUndefined fn u.cmds.length u) ∧
          ((u.fn fn).ring r).index = (g.index + m) % 2 ^ 32 ∧ ((u.fn fn).ring r).polled = s.now ∧
          u.outs = s.outs ++ [.dma fn g.ciAddr (leBytes 4 ((g.index + m) % 2 ^ 32))] ∧
          (r = 0 → u.nextCmd = s.nextCmd + l.length ∧
            ∀ i d, l[i]? = some d → Tbl.find? u.cmds (s.nextCmd + i) = some (cmdOf fn d)) ∧
          (r = 11 → (u.fn fn).txQ = (s.fn fn).txQ ++ l) ∧
          (3 ≤ r → r ≤ 6 → Tbl.getD (u.fn fn).queryQ (r - 3) [] = Tbl.getD (s.fn fn).queryQ (r - 3) [] ++ l))) ∧
    (hostRing r = false → s.fnLive fn = true → g.enable = true → s.ringLost fn r = false → looksFull s fn r = true →
      stopped 2 (.deviceRingCiPoll fn r none) ∧
      ∀ ci : Nat, (g.size < wrap 32 ((g.index : Int) - ci) → stopped 1 (.deviceRingCiPoll fn r (some ci))) ∧
        (wrap 32 ((g.index : Int) - ci) ≤ g.size → exec (.deviceRingCiPoll fn r (some ci)) s =
          .next ((s.updRing fn r (fun x => { x with far := ci % 2 ^ 32, polled := s.now })).drainFn fn))) ∧
    (hostRing r = false → s.fnLive fn = true → g.unsig ≠ 0 → g.modUs ≠ 0 → g.unsigAt + g.modUs * 1000000 ≤ s.now →
      let e := Tbl.getD (s.fn fn).msix g.vector {}
      ∃ t, exec (.msixModerationExpiry fn r) s = .next t ∧ ((t.fn fn).ring r).unsig = 0 ∧
        (bit e.ctrl 0 = false → t.outs = s.outs ++ [.msix fn e.addr e.data]) ∧
        (bit e.ctrl 0 = true → t.outs = s.outs ∧ bit (t.fn fn).msixPend g.vector = true)) ∧
    (s.live = true → (∀ l ∈ s.place.lost, l.obj ≠ .reg fn (0x8000 + 0x40 * r + 0x2C)) →
      (g.enable = true → exec (.ringEnable fn r) s = .next s) ∧
      (g.enable = false → ringOk s fn r = false → exec (.ringEnable fn r) s =
        .next (s.updRing fn r (fun x => { x with cfgErr := true }))) ∧
      (g.enable = false → ringOk s fn r = true → ∃ u : State, exec (.ringEnable fn r) s = .next (u.drainFn fn) ∧
        (u.fn fn).ring r = { g with enable := true, index := 0, far := 0, polled := s.now, stopCause := 0, unsig := 0 } ∧
        (∀ k, k ≠ fn → u.fn k = s.fn k) ∧ u = { s with fns := u.fns }) ∧
      exec (.ringDisable fn r) s = .next (s.updRing fn r (fun x => { x with enable := false })))

/-- R474, R544, FUNCTION_LEVEL_RESET, BUS_MASTER_CLEAR and BUS_MASTER_SET: a reset function's registers are at their reset
values, its commands not started are gone and those running end in silence, and what it owns stays; Bus Master Enable
cleared gives up what waits and keeps the rings; set again, the function works on from them. -/
def Obligations.FunctionsAreReset : Prop :=
  ∀ (s : State) (fn : Nat), okFn fn = true →
    (s.hostUp.contains (fn / 64) = true → ∃ t, exec (.functionLevelReset fn) s = .next t ∧ Tbl.find? t.fns fn = none ∧
      (∀ k, k ≠ fn → t.fn k = s.fn k) ∧ (∀ p ∈ t.cmds, p.2.fn = fn → p.2.started = true ∧ p.2.silent = true) ∧
      t.models = s.models ∧ t.groups = s.groups ∧ t.regions = s.regions ∧ t.hbm = s.hbm ∧
      (s.boot.pushing = some fn → t.boot.pushing = none ∧ t.boot.err = 8)) ∧
    ((s.fn fn).bme = true → ∃ t, exec (.busMasterClear fn) s = .next t ∧
      t.fn fn = { s.fn fn with bme := false, events := [], dropped := 0, comps := [], replies := [], queryQ := [],
                               txQ := [], rxQ := [] } ∧
      (∀ k, k ≠ fn → t.fn k = s.fn k)) ∧
    (s.hostUp.contains (fn / 64) = true → ∃ u : State,
      exec (.busMasterSet fn) s = .next (refuseUndefined fn u.cmds.length (u.drainFn fn)) ∧
      u.fn fn = { s.fn fn with bme := true } ∧ (∀ k, k ≠ fn → u.fn k = s.fn k) ∧
      u = { s with fns := u.fns, power := { s.power with targetEff := u.power.targetEff, wakeEff := u.power.wakeEff } })

/-- R528, R529, R531, R534, R536, R537, R539 to R541, R543, the writes of the placement settings, BLOCK_LIVE_LATCH and
REGISTER_WRITE: a setting in its range takes effect and one outside it sets SET_REFUSED; a query hold shrinks once the
held granules fit; BLOCK_LIVE is read whole. A write of a hardened word takes effect when its vote is over (7 ns, or
16 ns in TCLK: log 47), another at once unless an earlier one of its function votes; then the words of a stopped ring and of the MSI-X
table read back as written; a virtual function writes no PF region, and outside the boot region nothing is written
before READY. -/
def Obligations.RegistersAreWritten : Prop :=
  ∀ (s : State) (fn : Nat), okFn fn = true →
    let refused : State := { s with place := { s.place with setRefused := true } }
    (∀ v, s.live = true → isPf fn = true → placeLost s = true → ∀ i ∈ [Instr.qholdWrite fn v, .standbyWrite fn v,
      .testIntervalWrite fn v, .testDeferWrite fn v], exec i s = .next refused) ∧
    (∀ v, s.live = true → isPf fn = true → placeLost s = false →
      (exec (.testIntervalWrite fn v) s = .next (if 10 ≤ v % 2 ^ 17 ∧ v % 2 ^ 17 ≤ 86400
        then { s with place := { s.place with testInterval := v % 2 ^ 17 } } else refused)) ∧
      (exec (.testDeferWrite fn v) s = .next (if 10 ≤ v % 65536 ∧ v % 65536 ≤ 60000
        then { s with place := { s.place with testDefer := v % 65536 } } else refused)) ∧
      (8 < v % 16 → exec (.standbyWrite fn v) s = .next refused) ∧
      (v % 16 ≤ 8 → ∃ t, exec (.standbyWrite fn v) s = .next t ∧ t.place.standby = v % 16) ∧
      (v % 64 < 8 ∨ 48 < v % 64 → exec (.qholdWrite fn v) s = .next refused) ∧
      (8 ≤ v % 64 → v % 64 ≤ 48 →
        let p := { s.place with qhold := v % 64, qholdNow := v % 64, qholdPending := false }
        (s.place.qholdNow < v % 64 → exec (.qholdWrite fn v) s =
          .next (if poolFits { s with place := p } then { s with place := p } else refused)) ∧
        (v % 64 < s.place.qholdNow → exec (.qholdWrite fn v) s =
          .next (if holdFits s (v % 64) then { s with place := p }
                 else { s with place := { s.place with qhold := v % 64, qholdPending := true } })))) ∧
    (s.place.qholdPending = true → holdFits s s.place.qhold = true → exec .qholdShrinkDone s =
      .next { s with place := { s.place with qholdNow := s.place.qhold, qholdPending := false } }) ∧
    (s.boot.st = 5 → ∃ t, exec (.blockLiveLatch fn) s = .next t ∧
      t.outs = s.outs ++ [.bar fn (leBytes 4 (blockLive s))] ∧ (t.fn fn).liveLatch = blockLive s ∧
      ∀ b, b < 64 → bit (t.fn fn).liveLatch b = !(s.block b).retired) ∧
    (let last := ((s.votes.filter (fun x => x.fn == fn)).foldl (fun a x => max a x.due) 0)
     ∀ off v, off < (if fn % 64 = 0 then 0x100000 else 0x20000) →
      (hardened s fn off = true → exec (.registerWrite fn off v) s = .next { s with votes := s.votes ++
        [⟨fn, off, v, max (s.now + (if 0x3000 ≤ off ∧ off < 0x4000 then 16000 else 7000)) last⟩] }) ∧
      (hardened s fn off = false → (∃ x ∈ s.votes, x.fn = fn) → exec (.registerWrite fn off v) s =
        .next { s with votes := s.votes ++ [⟨fn, off, v, max s.now last⟩] }) ∧
      (hardened s fn off = false → (∀ x ∈ s.votes, x.fn ≠ fn) → exec (.registerWrite fn off v) s =
        .next (writeReg s fn off v))) ∧
    (s.live = true → hardened s fn 0x5000 = true ∧
      (∀ r o, okRing fn r = true → o ≤ 0x2C → hardened s fn (0x8000 + 0x40 * r + o) = true) ∧
      (isPf fn = true → ∀ off ∈ [0x2000, 0x4000, 0x4004, 0x4008], hardened s fn off = true) ∧
      (isPf fn = true → tuWriter s fn = true → ∀ off ∈ [0x3000, 0x3004, 0x3008, 0x3010, 0x3014], hardened s fn off = true)) ∧
    ((∀ x ∈ s.votes, s.now < x.due ∨ (x.off / 0x1000 = 3 ∧ tclkRuns s = false)) → applyVotes s = s) ∧
    (∀ x, s.votes = [x] → x.due ≤ s.now → (x.off / 0x1000 = 3 → tclkRuns s = true) →
      applyVotes s = writeReg { s with votes := [] } x.fn x.off x.value) ∧
    (∀ off v, isPf fn = false → (1 ≤ off / 0x1000 ∧ off / 0x1000 ≤ 4) → writeReg s fn off v = s) ∧
    (∀ off v, s.live = false → off / 0x1000 ≠ 1 → writeReg s fn off v = s) ∧
    (∀ v, s.live = true → ((writeReg s fn 0x5000 v).fn fn).apertureHi = v % 65536) ∧
    (∀ r o v, okRing fn r = true → s.live = true → ((s.fn fn).ring r).enable = false → o ∈ [0x00, 0x04, 0x08, 0x0C, 0x10, 0x14] →
      let t := writeReg s fn (0x8000 + 0x40 * r + o) v
      readReg t fn (0x8000 + 0x40 * r + o) = v % 2 ^ 32 ∧
        ∀ q ∈ [0x00, 0x04, 0x08, 0x0C, 0x10, 0x14], q ≠ o →
          readReg t fn (0x8000 + 0x40 * r + q) = readReg s fn (0x8000 + 0x40 * r + q)) ∧
    (∀ e v, e < vectors fn → s.live = true → bit (s.fn fn).msixPend e = true → bit v 0 = false →
      let x := Tbl.getD (s.fn fn).msix e {}
      let t := writeReg s fn (0x10000 + 16 * e + 12) v
      t.outs = s.outs ++ [.msix fn x.addr x.data] ∧ bit (t.fn fn).msixPend e = false) ∧
    (∀ o v, isPf fn = true → s.live = true → o ∈ tuRegs → tuWriter s fn = false →
      (writeReg s fn (0x3000 + o) v).tu = { s.tu with writeDenied := true })

/-! The whole machine. -/

/-- The model's queue (log 2), R265, R541: a step is the effect of the command at the front on the state with the rest of the queue;
with no command waiting one CCLK cycle of 800 ps passes, in which register writes take effect whose votes are over, and
then of each port the oldest fold frame that waits above RES is handled (the model's rate, log 134). -/
def Obligations.StepRunsTheFrontCommand : Prop :=
  (∀ (c : Instr) (q : List Instr) (s : State), s.pending = c :: q → step s = exec c { s with pending := q }) ∧
  (∀ s : State, s.pending = [] →
    ∃ t, step s = .next t ∧ t.cycle = s.cycle + 1 ∧ t.now = s.now + 800 ∧
      (let v := applyVotes (tickCycle s)
       (v.foldIn = [] → t = v) ∧
       (∀ w l, v.foldIn = w :: l → (∀ x ∈ l, x.port = w.port) →
         t = foldHandle w.poisoned (pauseUpdate { v with foldIn := l } w.port) w.x) ∧
       (∀ w x, v.foldIn = [w, x] → w.port ≠ x.port →
         let u := foldHandle w.poisoned (pauseUpdate { v with foldIn := [x] } w.port) w.x
         u.foldIn = [x] → t = foldHandle x.poisoned (pauseUpdate { u with foldIn := [] } x.port) x.x)) ∧
      (s.votes = [] → s.foldIn = [] →
        t = { s with now := t.now, cycle := t.cycle, tu := t.tu,
                     power := { s.power with stopped := t.power.stopped, stopAt := t.power.stopAt } }))

/-- Chapter 01, R24, R150, R219, R251, R328, R397, R433: every command has an effect in every state, none is a fault and none
is refused; one that names an object the device does not have is an event that cannot happen, and changes nothing
(log 1). -/
def Obligations.EveryCommandAnswers : Prop :=
  ∀ (c : Instr) (s : State), ∃ t, exec c s = .next t ∧ (c.wf = false → t = s)

/-- R360, R418, R477, R496, R502, R544, R551, SYS_RESET and KEEPALIVE_LOSS: the device's work, tables and registers are at
their reset values, every port is DISABLED and every board link enabled; SYS_RESET_N leaves the fault record of the
lantern island and a power cycle nothing. -/
def Obligations.ResetsClearTheDevice : Prop :=
  ∀ s : State,
    (∃ t, exec .sysReset s = .next t ∧ t = { keepModel s State.reset with power := t.power } ∧ t.power.fault = s.power.fault ∧
      t.power.fences = s.power.fences ∧ t.power.powered = s.power.powered ∧ t.power.st = 0 ∧ t.power.fenced = false ∧
      t.power.transit = .none) ∧
    (∃ t, exec .keepaliveLoss s = .next t ∧ t.power = { State.reset.power with powered := false, dumping := true } ∧
      t = { keepModel s State.reset with power := t.power }) ∧
    (∀ p, (State.reset.port p).st = .disabled ∧ (State.reset.port p).cfg.enable = false) ∧
    (∀ l, (State.reset.link l).enable = true) ∧ (∀ f r, ((State.reset.fn f).ring r).enable = false) ∧
    State.reset.models = [] ∧ State.reset.groups = [] ∧ State.reset.flows = [] ∧ State.reset.plans = [] ∧
    State.reset.counters = [] ∧ State.reset.tu.slots = [] ∧ State.reset.boot.st = 0 ∧ State.reset.place.stakes = [] ∧
    State.reset.pending = [] ∧ Memory.wf State.reset.hbm = true

/-- R219, R479: no step takes HBM out of its canonical form: addresses rise strictly and no listed byte is 0, as the bytes
of an address not listed are. -/
def Obligations.MemoryStaysCanonical : Prop :=
  ∀ s t : State, Memory.wf s.hbm = true → step s = .next t → Memory.wf t.hbm = true

/-- R301, R486: only SYS_RESET_N or a power cycle leaves FENCED, and HALT. -/
def Obligations.FencedAndHaltHold : Prop :=
  ∀ (c : Instr) (s t : State), exec c s = .next t → isReset c = false →
    (s.power.fenced = true → t.power.fenced = true) ∧
    (s.boot.released = true → s.boot.st = 6 → t.boot.released = true ∧ t.boot.st = 6)

/-- The model's time and queue (log 2), R52, R477: no command moves time or the queue; only the cycles between commands do. A
reset of the whole device alone sets the CCLK count back to 0. -/
def Obligations.CommandsTakeNoTime : Prop :=
  ∀ (c : Instr) (s t : State), exec c s = .next t → t.now = s.now ∧ t.pending = s.pending ∧
    (isReset c = false → t.cycle = s.cycle) ∧ (isReset c = true → t.cycle = 0)

/-- R155 to R157, R161: every legal stage-program instruction is read back from its word, with every operand; and a word
that decodes is the word of what it decodes to, so no field is dropped and every reserved bit is 0. -/
def Obligations.StageWordsRoundTrip : Prop :=
  (∀ i : VIns, i.legal = true → decodeV (encodeV i) = some i) ∧
  (∀ (w : Nat) (i : VIns), w < 2 ^ 32 → decodeV w = some i → encodeV i = w ∧ i.legal = true)
end

