-- ==== Sys2Proof/Laws/Table.lean ====
section
/-! SUPPORT. Laws of the sparse tables: what a lookup gives after each update, and that updates keep numbers rising. -/

namespace Sys2Proof.Tbl

theorem find?_put {α : Type} (t : Tbl α) (k : Nat) (v : α) (j : Nat) :
    find? (put t k v) j = if j = k then some v else find? t j := by
  induction t with
  | nil => simp [put, find?, eq_comm]
  | cons p t ih =>
    obtain ⟨k', v'⟩ := p
    simp only [put]
    split
    · simp [find?, eq_comm]
    · split
      · subst_vars; simp only [find?]; split <;> simp_all [eq_comm]
      · simp only [find?, ih]
        split
        · split <;> simp_all
        · rfl

@[simp] theorem find?_put_self {α : Type} (t : Tbl α) (k : Nat) (v : α) : find? (put t k v) k = some v := by
  simp [find?_put]

@[simp] theorem find?_put_ne {α : Type} (t : Tbl α) {k j : Nat} (v : α) (h : j ≠ k) :
    find? (put t k v) j = find? t j := by simp [find?_put, h]

theorem find?_filter {α : Type} (t : Tbl α) (f : Nat → Bool) (j : Nat) :
    find? (t.filter (fun p => f p.1)) j = if f j then find? t j else none := by
  induction t with
  | nil => simp [find?]
  | cons p t ih =>
    obtain ⟨k', v'⟩ := p
    by_cases hf : f k' = true
    · simp only [List.filter_cons_of_pos, hf, find?, ih]; split <;> simp_all
    · rw [List.filter_cons_of_neg (by simpa using hf), ih]; simp only [find?]
      by_cases e : k' = j
      · subst e; simp [hf]
      · simp [e]

theorem find?_del {α : Type} (t : Tbl α) (k j : Nat) : find? (del t k) j = if j = k then none else find? t j := by
  unfold del
  rw [find?_filter t (fun x => x != k) j]
  by_cases h : j = k <;> simp [h]

@[simp] theorem find?_del_self {α : Type} (t : Tbl α) (k : Nat) : find? (del t k) k = none := by simp [find?_del]

theorem find?_modify {α : Type} (t : Tbl α) (k : Nat) (f : α → α) (j : Nat) :
    find? (modify t k f) j = if j = k then (find? t k).map f else find? t j := by
  unfold modify
  split
  · rename_i h; by_cases e : j = k <;> simp [e, h]
  · rename_i v h; simp [find?_put, h]

theorem find?_mapVals {α β : Type} (t : Tbl α) (f : Nat → α → β) (j : Nat) :
    find? (mapVals t f) j = (find? t j).map (f j) := by
  induction t with
  | nil => rfl
  | cons p t ih =>
    obtain ⟨k', v'⟩ := p
    simp only [mapVals] at ih
    simp only [mapVals, List.map_cons, find?, ih]
    split <;> simp_all

theorem find?_putD {α : Type} [DecidableEq α] (d : α) (t : Tbl α) (k : Nat) (v : α) (j : Nat) :
    find? (putD d t k v) j = if j = k then (if v = d then none else some v) else find? t j := by
  unfold putD
  split <;> simp [find?_del, find?_put]

theorem getD_put {α : Type} (t : Tbl α) (k : Nat) (v d : α) (j : Nat) :
    getD (put t k v) j d = if j = k then v else getD t j d := by
  simp only [getD, find?_put]; split <;> rfl

theorem getD_putD {α : Type} [DecidableEq α] (d : α) (t : Tbl α) (k : Nat) (v : α) (j : Nat) :
    getD (putD d t k v) j d = if j = k then v else getD t j d := by
  simp only [getD, find?_putD]
  split
  · split <;> simp_all
  · rfl

@[simp] theorem has_put_self {α : Type} (t : Tbl α) (k : Nat) (v : α) : has (put t k v) k = true := by simp [has]

theorem has_eq {α : Type} (t : Tbl α) (k : Nat) : has t k = (find? t k).isSome := rfl

theorem find?_mem {α : Type} {t : Tbl α} {k : Nat} {v : α} (h : find? t k = some v) : (k, v) ∈ t := by
  induction t with
  | nil => cases h
  | cons p t ih =>
    obtain ⟨k', v'⟩ := p
    simp only [find?] at h
    split at h
    · cases h; subst_vars; exact List.mem_cons_self
    · exact List.mem_cons_of_mem _ (ih h)

theorem freeKey_free {α : Type} {t : Tbl α} {lo n k : Nat} (h : freeKey t lo n = some k) :
    find? t k = none ∧ lo ≤ k ∧ k < lo + n := by
  induction n generalizing lo with
  | zero => cases h
  | succ n ih =>
    simp only [freeKey] at h
    split at h
    · obtain ⟨a, b, c⟩ := ih h; exact ⟨a, by omega, by omega⟩
    · rename_i e; cases h; exact ⟨by simpa [has] using e, by omega, by omega⟩

/-! Rising numbers. -/

theorem sortedFrom_weaken {α : Type} {lo lo' : Option Nat} {t : Tbl α} (h : sortedFrom lo t = true)
    (hw : ∀ l', lo' = some l' → ∃ l, lo = some l ∧ l' ≤ l) : sortedFrom lo' t = true := by
  cases t with
  | nil => rfl
  | cons p t =>
    obtain ⟨k, v⟩ := p
    simp only [sortedFrom, Bool.and_eq_true] at *
    refine ⟨?_, h.2⟩
    cases lo' with
    | none => rfl
    | some l' => obtain ⟨l, rfl, hl⟩ := hw l' rfl; simp at *; omega

theorem sortedFrom_lt {α : Type} {lo : Nat} {t : Tbl α} (h : sortedFrom (some lo) t = true) :
    ∀ p ∈ t, lo < p.1 := by
  induction t generalizing lo with
  | nil => intro p hp; cases hp
  | cons q t ih =>
    obtain ⟨k, v⟩ := q
    simp only [sortedFrom, Bool.and_eq_true, decide_eq_true_eq] at h
    intro p hp
    rcases List.mem_cons.mp hp with rfl | hp
    · exact h.1
    · have := ih h.2 p hp; omega

theorem sortedFrom_filter {α : Type} {lo : Option Nat} {t : Tbl α} (f : Nat × α → Bool) (h : sortedFrom lo t = true) :
    sortedFrom lo (t.filter f) = true := by
  induction t generalizing lo with
  | nil => rfl
  | cons q t ih =>
    obtain ⟨k, v⟩ := q
    simp only [sortedFrom, Bool.and_eq_true] at h
    by_cases e : f (k, v) = true
    · simp only [List.filter_cons_of_pos e, sortedFrom, Bool.and_eq_true]; exact ⟨h.1, ih h.2⟩
    · rw [List.filter_cons_of_neg (by simpa using e)]
      refine ih (sortedFrom_weaken h.2 ?_)
      intro l' hl; subst hl; simp at h; exact ⟨k, rfl, by omega⟩

theorem sortedFrom_put {α : Type} {lo : Option Nat} {t : Tbl α} {k : Nat} (v : α) (h : sortedFrom lo t = true)
    (hk : ∀ l, lo = some l → l < k) : sortedFrom lo (put t k v) = true := by
  induction t generalizing lo with
  | nil => cases lo <;> simp_all [put, sortedFrom]
  | cons q t ih =>
    obtain ⟨k', v'⟩ := q
    simp only [sortedFrom, Bool.and_eq_true] at h
    unfold put
    split
    · simp only [sortedFrom, Bool.and_eq_true, decide_eq_true_eq]
      refine ⟨?_, by assumption, h.2⟩
      cases lo <;> simp_all
    · split
      · subst_vars; simp only [sortedFrom, Bool.and_eq_true]; exact h
      · simp only [sortedFrom, Bool.and_eq_true]
        exact ⟨h.1, ih h.2 (by intro l hl; cases hl; omega)⟩

theorem sorted_put {α : Type} {t : Tbl α} (k : Nat) (v : α) (h : sorted t = true) : sorted (put t k v) = true :=
  sortedFrom_put v h (by intro l hl; cases hl)

theorem sorted_del {α : Type} {t : Tbl α} (k : Nat) (h : sorted t = true) : sorted (del t k) = true :=
  sortedFrom_filter _ h

theorem sorted_mapVals {α β : Type} {t : Tbl α} (f : Nat → α → β) (h : sorted t = true) : sorted (mapVals t f) = true := by
  unfold sorted at *
  generalize (none : Option Nat) = lo at *
  induction t generalizing lo with
  | nil => rfl
  | cons q t ih =>
    obtain ⟨k, v⟩ := q
    simp only [sortedFrom, Bool.and_eq_true] at h
    show sortedFrom lo ((k, f k v) :: mapVals t f) = true
    simp only [sortedFrom, Bool.and_eq_true]
    exact ⟨h.1, ih _ h.2⟩

theorem mem_put {α : Type} {t : Tbl α} {k : Nat} {v : α} {p : Nat × α} (h : p ∈ put t k v) : p = (k, v) ∨ p ∈ t := by
  induction t with
  | nil => simpa [put] using h
  | cons q t ih =>
    obtain ⟨k', v'⟩ := q
    simp only [put] at h
    split at h
    · simpa using h
    · split at h
      · rcases List.mem_cons.mp h with h | h
        · exact .inl h
        · exact .inr (List.mem_cons_of_mem _ h)
      · rcases List.mem_cons.mp h with h | h
        · exact .inr (h ▸ List.mem_cons_self)
        · rcases ih h with h | h
          · exact .inl h
          · exact .inr (List.mem_cons_of_mem _ h)

end Sys2Proof.Tbl
end

