-- ==== Sys2Proof/Laws/Counters.lean ====
section
/-! SUPPORT. Counters: what a reading gives after a count (R304). -/

namespace Sys2Proof.Machine

theorem cntGet_cntAdd (t : Tbl Nat) (c d : CName) (o p n i j : Nat) :
    cntGet (cntAdd t c o n i) d p j =
      if cntKey d p j = cntKey c o i then sat64 (cntGet t c o i + n) else cntGet t d p j := by
  unfold cntGet cntAdd
  exact Tbl.getD_putD _ _ _ _ _

@[simp] theorem cntGet_cntAdd_self (t : Tbl Nat) (c : CName) (o n i : Nat) :
    cntGet (cntAdd t c o n i) c o i = sat64 (cntGet t c o i + n) := by
  rw [cntGet_cntAdd]; exact if_pos rfl

/-- Two counters are the same only with the same name, object and index, as far as the device has objects. -/
theorem cntKey_inj {c d : CName} {o p i j : Nat} (ho : o < 2 ^ 17) (hp : p < 2 ^ 17) (hi : i < 16) (hj : j < 16)
    (h : cntKey c o i = cntKey d p j) : c.spec.code = d.spec.code ∧ o = p ∧ i = j := by
  unfold cntKey at h
  omega

theorem State.cntGet_count (s : State) (c d : CName) (o p n i j : Nat) :
    cntGet (s.count c o n i).counters d p j =
      if cntKey d p j = cntKey c o i then sat64 (cntGet s.counters c o i + n) else cntGet s.counters d p j :=
  cntGet_cntAdd _ _ _ _ _ _ _ _

end Sys2Proof.Machine
end

