-- ==== Sys2Proof/Laws/Cycle.lean ====
section
/-! SUPPORT. What a CCLK cycle on an empty queue does, part by part, and small lemmas of rule entries and lanes. -/

namespace Sys2Proof.Machine

/-! The parts of a cycle. -/

@[simp] theorem tickCycle_votes (s : State) : (tickCycle s).votes = s.votes := rfl
@[simp] theorem tickCycle_foldIn (s : State) : (tickCycle s).foldIn = s.foldIn := rfl
@[simp] theorem tickCycle_hbm (s : State) : (tickCycle s).hbm = s.hbm := rfl
@[simp] theorem tickCycle_cmds (s : State) : (tickCycle s).cmds = s.cmds := rfl
@[simp] theorem tickCycle_pending (s : State) : (tickCycle s).pending = s.pending := rfl
@[simp] theorem tickCycle_now (s : State) : (tickCycle s).now = s.now + 800 := rfl
@[simp] theorem tickCycle_cycle (s : State) : (tickCycle s).cycle = s.cycle + 1 := rfl

/-- Without a vote that is over, none takes effect (R541). -/
theorem applyVotes_none (s : State) (h : s.votes.filter (Vote.isDone s) = []) :
    applyVotes s = { s with votes := s.votes.filter (fun x => !x.isDone s) } := by
  simp [applyVotes, h]
/-- Nothing waits above RES: the cycle handles no fold frame (R265). -/
theorem drainFold_nil (s : State) (h : s.foldIn = []) : drainFold s = s := by
  simp [drainFold, h, List.eraseDups, List.eraseDupsBy, List.eraseDupsBy.loop]
/-- A port without a waiting frame leaves the state as it is. -/
theorem drainPort_none (s : State) (p : Nat) (h : s.foldIn.find? (fun w => w.port == p) = none) : drainPort s p = s := by
  simp [drainPort, h]
/-- A cycle of a block with neither vote nor waiting fold frame only passes time (R265, R541). -/
theorem idleCycle_quiet (s : State) (hv : s.votes = []) (hf : s.foldIn = []) : idleCycle s = tickCycle s := by
  have e : applyVotes (tickCycle s) = { tickCycle s with votes := [] } := by
    rw [applyVotes_none] <;> simp [hv]
  have e' : ({ tickCycle s with votes := [] } : State) = tickCycle s := by
    have : (tickCycle s).votes = [] := by simp [hv]
    rw [← this]
  rw [idleCycle, e, e', drainFold_nil _ (by simp [hf])]

/-! Rule entries (R109). -/

/-- What a load writes passes its check. -/
theorem entryGood_ruleEntry (v c g : Nat) : entryGood (ruleEntry v c g) = true := by
  simp [entryGood, ruleEntry, entryCheck, entryFields]
theorem entryGood_emptyEntry : entryGood emptyEntry = true := by
  simp [entryGood, emptyEntry, entryCheck, entryFields]
/-- No flipped bit leaves the entry as it is. -/
theorem flipEntry_zero (e : BankEntry) : flipEntry e 0 = e := by
  simp only [flipEntry, Nat.zero_mod, Nat.zero_div, Nat.xor_zero, bit, Nat.zero_shiftRight]
  rw [show (e.valid != ((0 : Nat) == 1)) = e.valid by cases e.valid <;> rfl]

/-! Lanes (R404, R410). -/

@[simp] theorem countViol_zero (now : Nat) (y : BlLane) : countViol now y 0 = y := rfl
@[simp] theorem Coeffs.hold_hold (a b : Nat) (c : Coeffs) : (c.hold a).hold b = c.hold a := by cases c <;> rfl
@[simp] theorem Link.goodAt_nil (now : Nat) (l : Link) (h : l.lanes = []) : l.goodAt now = l.good := by simp [Link.goodAt, h]

end Sys2Proof.Machine
end

