-- ==== Sys2Proof/Laws/Memory.lean ====
section
/-! SUPPORT. Laws of HBM: a byte after a write, and that every operation keeps the canonical form (R219, R479). -/

namespace Sys2Proof.Machine

theorem Memory.get_set (m : List Host.Cell) (a : Nat) (v : BitVec 8) (j : Nat) :
    Memory.get (Memory.set m a v) j = if j = a then v else Memory.get m j := Tbl.getD_putD _ _ _ _ _

theorem Memory.get_write (l : Bytes) (m : List Host.Cell) (a j : Nat) :
    Memory.get (Memory.write m a l) j = if a ≤ j ∧ j < a + l.length then l.getD (j - a) 0 else Memory.get m j := by
  induction l generalizing m a with
  | nil =>
    simp only [Memory.write, List.length_nil]
    rw [if_neg (by omega)]
  | cons b t ih =>
    simp only [Memory.write, ih, Memory.get_set, List.length_cons]
    by_cases h : j = a
    · subst h
      have h1 : ¬ (j + 1 ≤ j ∧ j < j + 1 + t.length) := by omega
      have h2 : j ≤ j ∧ j < j + (t.length + 1) := by omega
      rw [if_neg h1, if_pos rfl, if_pos h2]
      simp
    · by_cases h1 : a + 1 ≤ j ∧ j < a + 1 + t.length
      · have h2 : a ≤ j ∧ j < a + (t.length + 1) := by omega
        have h3 : j - a = (j - (a + 1)) + 1 := by omega
        simp only [h1, h2, and_self, if_true, h3, List.getD_cons_succ]
      · have h2 : ¬ (a ≤ j ∧ j < a + (t.length + 1)) := by omega
        rw [if_neg h1, if_neg h, if_neg h2]

theorem Memory.read_length (m : List Host.Cell) (a n : Nat) : (Memory.read m a n).length = n := by
  induction n generalizing a with
  | zero => rfl
  | succ n ih => simp [Memory.read, ih]

theorem Memory.read_getElem? (m : List Host.Cell) (a n i : Nat) (h : i < n) :
    (Memory.read m a n)[i]? = some (Memory.get m (a + i)) := by
  induction n generalizing a i with
  | zero => omega
  | succ n ih =>
    cases i with
    | zero => rfl
    | succ i => simp only [Memory.read, List.getElem?_cons_succ]; rw [ih (a + 1) i (by omega)]; congr 2; omega

theorem Memory.wf_iff (m : List Host.Cell) :
    Memory.wf m = true ↔ Tbl.sorted m = true ∧ ∀ c ∈ m, c.2 ≠ Memory.unlisted := by
  simp [Memory.wf, List.all_eq_true]

theorem Memory.wf_filter {m : List Host.Cell} (f : Host.Cell → Bool) (h : Memory.wf m = true) :
    Memory.wf (m.filter f) = true := by
  rw [Memory.wf_iff] at *
  exact ⟨Tbl.sortedFrom_filter f h.1, fun c hc => h.2 c ((List.mem_filter.mp hc).1)⟩

theorem Memory.wf_set {m : List Host.Cell} (a : Nat) (v : BitVec 8) (h : Memory.wf m = true) :
    Memory.wf (Memory.set m a v) = true := by
  unfold Memory.set Tbl.putD
  split
  · exact Memory.wf_filter _ h
  · rename_i hv
    rw [Memory.wf_iff] at *
    refine ⟨Tbl.sorted_put a v h.1, fun c hc => ?_⟩
    rcases Tbl.mem_put hc with rfl | hc
    · exact hv
    · exact h.2 c hc

theorem Memory.wf_write (l : Bytes) {m : List Host.Cell} (a : Nat) (h : Memory.wf m = true) :
    Memory.wf (Memory.write m a l) = true := by
  induction l generalizing m a with
  | nil => exact h
  | cons b t ih => exact ih (a + 1) (Memory.wf_set a b h)

theorem Memory.wf_reset : Memory.wf State.reset.hbm = true := rfl

end Sys2Proof.Machine
end

