-- ==== Sys2Proof/Laws/State.lean ====
section
/-! SUPPORT. What each named update of the state leaves of every field, and what a read gives after it. -/

namespace Sys2Proof.Machine

/-! Reads after updates. -/

theorem State.port_setPort (s : State) (p : Nat) (v : Port) (q : Nat) :
    (s.setPort p v).port q = if q = p then v else s.port q := Tbl.getD_put _ _ _ _ _
theorem State.port_updPort (s : State) (p : Nat) (f : Port → Port) (q : Nat) :
    (s.updPort p f).port q = if q = p then f (s.port p) else s.port q := Tbl.getD_put _ _ _ _ _
theorem State.fn_updFn (s : State) (n : Nat) (f : Fn → Fn) (j : Nat) :
    (s.updFn n f).fn j = if j = n then f (s.fn n) else s.fn j := Tbl.getD_put _ _ _ _ _
theorem State.block_updBlock (s : State) (b : Nat) (f : Block → Block) (j : Nat) :
    (s.updBlock b f).block j = if j = b then f (s.block b) else s.block j := Tbl.getD_put _ _ _ _ _
theorem State.model_updModel (s : State) (m : Nat) (f : Model → Model) (j : Nat) :
    (s.updModel m f).model j = if j = m then f (s.model m) else s.model j := Tbl.getD_put _ _ _ _ _
theorem State.link_updLink (s : State) (l : Nat) (f : Link → Link) (j : Nat) :
    (s.updLink l f).link j = if j = l then f (s.link l) else s.link j := Tbl.getD_put _ _ _ _ _
theorem State.find_updReq (s : State) (r : Nat) (f : Request → Request) (j : Nat) :
    Tbl.find? (s.updReq r f).reqs j = if j = r then (Tbl.find? s.reqs r).map f else Tbl.find? s.reqs j :=
  Tbl.find?_modify _ _ _ _
theorem State.find_updThread (s : State) (n : Nat) (f : Thread → Thread) (j : Nat) :
    Tbl.find? (s.updThread n f).threads j = if j = n then (Tbl.find? s.threads n).map f else Tbl.find? s.threads j :=
  Tbl.find?_modify _ _ _ _
theorem State.find_updGroup (s : State) (n : Nat) (f : Group → Group) (j : Nat) :
    Tbl.find? (s.updGroup n f).groups j = if j = n then (Tbl.find? s.groups n).map f else Tbl.find? s.groups j :=
  Tbl.find?_modify _ _ _ _
theorem State.find_updFlow (s : State) (h : Nat) (f : Flow → Flow) (j : Nat) :
    Tbl.find? (s.updFlow h f).flows j = if j = h then (Tbl.find? s.flows h).map f else Tbl.find? s.flows j :=
  Tbl.find?_modify _ _ _ _
theorem State.ring_updRing (s : State) (n r : Nat) (f : Ring → Ring) (j k : Nat) :
    ((s.updRing n r f).fn j).ring k = if j = n ∧ k = r then f ((s.fn n).ring r) else (s.fn j).ring k := by
  unfold State.updRing
  rw [State.fn_updFn]
  by_cases h : j = n
  · subst h
    simp only [if_true, true_and, Fn.ring]
    exact Tbl.getD_put _ _ _ _ _
  · simp [h]
theorem State.find_ran (s : State) (c : Nat) (x : VCtx) (j : Nat) :
    Tbl.find? (s.ran c x).vctx j = if j = c then some x else
      (Tbl.find? s.vctx j).map (fun y => { y with yieldOn := y.yieldOn.filter (· != c) }) := by
  simp only [State.ran, Tbl.find?_put, Tbl.find?_mapVals]
theorem State.outs_emit (s : State) (o : Out) : (s.emit o).outs = s.outs ++ [o] := rfl
theorem State.tu_updTu (s : State) (f : Tu → Tu) : (s.updTu f).tu = f s.tu := rfl

/-! Ports and blocks seen through updates of something else. -/

@[simp] theorem State.setPort_fn (s : State) (p : Nat) (v : Port) (j : Nat) : (s.setPort p v).fn j = s.fn j := rfl
@[simp] theorem State.setPort_block (s : State) (p : Nat) (v : Port) (j : Nat) : (s.setPort p v).block j = s.block j := rfl
@[simp] theorem State.setPort_model (s : State) (p : Nat) (v : Port) (j : Nat) : (s.setPort p v).model j = s.model j := rfl
@[simp] theorem State.setPort_link (s : State) (p : Nat) (v : Port) (j : Nat) : (s.setPort p v).link j = s.link j := rfl
@[simp] theorem State.updPort_fn (s : State) (p : Nat) (f : Port → Port) (j : Nat) : (s.updPort p f).fn j = s.fn j := rfl
@[simp] theorem State.updPort_block (s : State) (p : Nat) (f : Port → Port) (j : Nat) : (s.updPort p f).block j = s.block j := rfl
@[simp] theorem State.updPort_model (s : State) (p : Nat) (f : Port → Port) (j : Nat) : (s.updPort p f).model j = s.model j := rfl
@[simp] theorem State.updPort_link (s : State) (p : Nat) (f : Port → Port) (j : Nat) : (s.updPort p f).link j = s.link j := rfl
@[simp] theorem State.updFn_port (s : State) (n : Nat) (f : Fn → Fn) (j : Nat) : (s.updFn n f).port j = s.port j := rfl
@[simp] theorem State.updFn_block (s : State) (n : Nat) (f : Fn → Fn) (j : Nat) : (s.updFn n f).block j = s.block j := rfl
@[simp] theorem State.updFn_model (s : State) (n : Nat) (f : Fn → Fn) (j : Nat) : (s.updFn n f).model j = s.model j := rfl
@[simp] theorem State.updFn_link (s : State) (n : Nat) (f : Fn → Fn) (j : Nat) : (s.updFn n f).link j = s.link j := rfl
@[simp] theorem State.updRing_port (s : State) (n r : Nat) (f : Ring → Ring) (j : Nat) : (s.updRing n r f).port j = s.port j := rfl
@[simp] theorem State.updRing_block (s : State) (n r : Nat) (f : Ring → Ring) (j : Nat) : (s.updRing n r f).block j = s.block j := rfl
@[simp] theorem State.updRing_model (s : State) (n r : Nat) (f : Ring → Ring) (j : Nat) : (s.updRing n r f).model j = s.model j := rfl
@[simp] theorem State.updRing_link (s : State) (n r : Nat) (f : Ring → Ring) (j : Nat) : (s.updRing n r f).link j = s.link j := rfl
@[simp] theorem State.updBlock_port (s : State) (b : Nat) (f : Block → Block) (j : Nat) : (s.updBlock b f).port j = s.port j := rfl
@[simp] theorem State.updBlock_fn (s : State) (b : Nat) (f : Block → Block) (j : Nat) : (s.updBlock b f).fn j = s.fn j := rfl
@[simp] theorem State.updBlock_model (s : State) (b : Nat) (f : Block → Block) (j : Nat) : (s.updBlock b f).model j = s.model j := rfl
@[simp] theorem State.updBlock_link (s : State) (b : Nat) (f : Block → Block) (j : Nat) : (s.updBlock b f).link j = s.link j := rfl
@[simp] theorem State.updModel_port (s : State) (m : Nat) (f : Model → Model) (j : Nat) : (s.updModel m f).port j = s.port j := rfl
@[simp] theorem State.updModel_fn (s : State) (m : Nat) (f : Model → Model) (j : Nat) : (s.updModel m f).fn j = s.fn j := rfl
@[simp] theorem State.updModel_block (s : State) (m : Nat) (f : Model → Model) (j : Nat) : (s.updModel m f).block j = s.block j := rfl
@[simp] theorem State.updModel_link (s : State) (m : Nat) (f : Model → Model) (j : Nat) : (s.updModel m f).link j = s.link j := rfl
@[simp] theorem State.updLink_port (s : State) (l : Nat) (f : Link → Link) (j : Nat) : (s.updLink l f).port j = s.port j := rfl
@[simp] theorem State.updLink_fn (s : State) (l : Nat) (f : Link → Link) (j : Nat) : (s.updLink l f).fn j = s.fn j := rfl
@[simp] theorem State.updLink_block (s : State) (l : Nat) (f : Link → Link) (j : Nat) : (s.updLink l f).block j = s.block j := rfl
@[simp] theorem State.updLink_model (s : State) (l : Nat) (f : Link → Link) (j : Nat) : (s.updLink l f).model j = s.model j := rfl
@[simp] theorem State.updReq_port (s : State) (r : Nat) (f : Request → Request) (j : Nat) : (s.updReq r f).port j = s.port j := rfl
@[simp] theorem State.updReq_fn (s : State) (r : Nat) (f : Request → Request) (j : Nat) : (s.updReq r f).fn j = s.fn j := rfl
@[simp] theorem State.updReq_block (s : State) (r : Nat) (f : Request → Request) (j : Nat) : (s.updReq r f).block j = s.block j := rfl
@[simp] theorem State.updReq_model (s : State) (r : Nat) (f : Request → Request) (j : Nat) : (s.updReq r f).model j = s.model j := rfl
@[simp] theorem State.updReq_link (s : State) (r : Nat) (f : Request → Request) (j : Nat) : (s.updReq r f).link j = s.link j := rfl
@[simp] theorem State.updThread_port (s : State) (t : Nat) (f : Thread → Thread) (j : Nat) : (s.updThread t f).port j = s.port j := rfl
@[simp] theorem State.updThread_fn (s : State) (t : Nat) (f : Thread → Thread) (j : Nat) : (s.updThread t f).fn j = s.fn j := rfl
@[simp] theorem State.updThread_block (s : State) (t : Nat) (f : Thread → Thread) (j : Nat) : (s.updThread t f).block j = s.block j := rfl
@[simp] theorem State.updThread_model (s : State) (t : Nat) (f : Thread → Thread) (j : Nat) : (s.updThread t f).model j = s.model j := rfl
@[simp] theorem State.updThread_link (s : State) (t : Nat) (f : Thread → Thread) (j : Nat) : (s.updThread t f).link j = s.link j := rfl
@[simp] theorem State.updGroup_port (s : State) (n : Nat) (f : Group → Group) (j : Nat) : (s.updGroup n f).port j = s.port j := rfl
@[simp] theorem State.updGroup_fn (s : State) (n : Nat) (f : Group → Group) (j : Nat) : (s.updGroup n f).fn j = s.fn j := rfl
@[simp] theorem State.updGroup_block (s : State) (n : Nat) (f : Group → Group) (j : Nat) : (s.updGroup n f).block j = s.block j := rfl
@[simp] theorem State.updGroup_model (s : State) (n : Nat) (f : Group → Group) (j : Nat) : (s.updGroup n f).model j = s.model j := rfl
@[simp] theorem State.updGroup_link (s : State) (n : Nat) (f : Group → Group) (j : Nat) : (s.updGroup n f).link j = s.link j := rfl
@[simp] theorem State.updFlow_port (s : State) (h : Nat) (f : Flow → Flow) (j : Nat) : (s.updFlow h f).port j = s.port j := rfl
@[simp] theorem State.updFlow_fn (s : State) (h : Nat) (f : Flow → Flow) (j : Nat) : (s.updFlow h f).fn j = s.fn j := rfl
@[simp] theorem State.updFlow_block (s : State) (h : Nat) (f : Flow → Flow) (j : Nat) : (s.updFlow h f).block j = s.block j := rfl
@[simp] theorem State.updFlow_model (s : State) (h : Nat) (f : Flow → Flow) (j : Nat) : (s.updFlow h f).model j = s.model j := rfl
@[simp] theorem State.updFlow_link (s : State) (h : Nat) (f : Flow → Flow) (j : Nat) : (s.updFlow h f).link j = s.link j := rfl
@[simp] theorem State.count_port (s : State) (c : CName) (o n i : Nat) (j : Nat) : (s.count c o n i).port j = s.port j := rfl
@[simp] theorem State.count_fn (s : State) (c : CName) (o n i : Nat) (j : Nat) : (s.count c o n i).fn j = s.fn j := rfl
@[simp] theorem State.count_block (s : State) (c : CName) (o n i : Nat) (j : Nat) : (s.count c o n i).block j = s.block j := rfl
@[simp] theorem State.count_model (s : State) (c : CName) (o n i : Nat) (j : Nat) : (s.count c o n i).model j = s.model j := rfl
@[simp] theorem State.count_link (s : State) (c : CName) (o n i : Nat) (j : Nat) : (s.count c o n i).link j = s.link j := rfl
@[simp] theorem State.emit_port (s : State) (o : Out) (j : Nat) : (s.emit o).port j = s.port j := rfl
@[simp] theorem State.emit_fn (s : State) (o : Out) (j : Nat) : (s.emit o).fn j = s.fn j := rfl
@[simp] theorem State.emit_block (s : State) (o : Out) (j : Nat) : (s.emit o).block j = s.block j := rfl
@[simp] theorem State.emit_model (s : State) (o : Out) (j : Nat) : (s.emit o).model j = s.model j := rfl
@[simp] theorem State.emit_link (s : State) (o : Out) (j : Nat) : (s.emit o).link j = s.link j := rfl
@[simp] theorem State.updTu_port (s : State) (f : Tu → Tu) (j : Nat) : (s.updTu f).port j = s.port j := rfl
@[simp] theorem State.updTu_fn (s : State) (f : Tu → Tu) (j : Nat) : (s.updTu f).fn j = s.fn j := rfl
@[simp] theorem State.updTu_block (s : State) (f : Tu → Tu) (j : Nat) : (s.updTu f).block j = s.block j := rfl
@[simp] theorem State.updTu_model (s : State) (f : Tu → Tu) (j : Nat) : (s.updTu f).model j = s.model j := rfl
@[simp] theorem State.updTu_link (s : State) (f : Tu → Tu) (j : Nat) : (s.updTu f).link j = s.link j := rfl
@[simp] theorem State.ran_port (s : State) (c : Nat) (x : VCtx) (j : Nat) : (s.ran c x).port j = s.port j := rfl
@[simp] theorem State.ran_fn (s : State) (c : Nat) (x : VCtx) (j : Nat) : (s.ran c x).fn j = s.fn j := rfl
@[simp] theorem State.ran_block (s : State) (c : Nat) (x : VCtx) (j : Nat) : (s.ran c x).block j = s.block j := rfl
@[simp] theorem State.ran_model (s : State) (c : Nat) (x : VCtx) (j : Nat) : (s.ran c x).model j = s.model j := rfl
@[simp] theorem State.ran_link (s : State) (c : Nat) (x : VCtx) (j : Nat) : (s.ran c x).link j = s.link j := rfl
@[simp] theorem State.starting_port (s : State) (n : Nat) (o : ObjRef) (j : Nat) : (s.starting n o).port j = s.port j := rfl
@[simp] theorem State.starting_fn (s : State) (n : Nat) (o : ObjRef) (j : Nat) : (s.starting n o).fn j = s.fn j := rfl
@[simp] theorem State.starting_block (s : State) (n : Nat) (o : ObjRef) (j : Nat) : (s.starting n o).block j = s.block j := rfl
@[simp] theorem State.starting_model (s : State) (n : Nat) (o : ObjRef) (j : Nat) : (s.starting n o).model j = s.model j := rfl
@[simp] theorem State.starting_link (s : State) (n : Nat) (o : ObjRef) (j : Nat) : (s.starting n o).link j = s.link j := rfl

/-! Fields. -/

@[simp] theorem State.setPort_now (s : State) (p : Nat) (v : Port) : (s.setPort p v).now = s.now := rfl
@[simp] theorem State.setPort_cycle (s : State) (p : Nat) (v : Port) : (s.setPort p v).cycle = s.cycle := rfl
@[simp] theorem State.setPort_fns (s : State) (p : Nat) (v : Port) : (s.setPort p v).fns = s.fns := rfl
@[simp] theorem State.setPort_hostUp (s : State) (p : Nat) (v : Port) : (s.setPort p v).hostUp = s.hostUp := rfl
@[simp] theorem State.setPort_votes (s : State) (p : Nat) (v : Port) : (s.setPort p v).votes = s.votes := rfl
@[simp] theorem State.setPort_cmds (s : State) (p : Nat) (v : Port) : (s.setPort p v).cmds = s.cmds := rfl
@[simp] theorem State.setPort_nextCmd (s : State) (p : Nat) (v : Port) : (s.setPort p v).nextCmd = s.nextCmd := rfl
@[simp] theorem State.setPort_boot (s : State) (p : Nat) (v : Port) : (s.setPort p v).boot = s.boot := rfl
@[simp] theorem State.setPort_power (s : State) (p : Nat) (v : Port) : (s.setPort p v).power = s.power := rfl
@[simp] theorem State.setPort_place (s : State) (p : Nat) (v : Port) : (s.setPort p v).place = s.place := rfl
@[simp] theorem State.setPort_tu (s : State) (p : Nat) (v : Port) : (s.setPort p v).tu = s.tu := rfl
@[simp] theorem State.setPort_dev (s : State) (p : Nat) (v : Port) : (s.setPort p v).dev = s.dev := rfl
@[simp] theorem State.setPort_mgmts (s : State) (p : Nat) (v : Port) : (s.setPort p v).mgmts = s.mgmts := rfl
@[simp] theorem State.setPort_neigh (s : State) (p : Nat) (v : Port) : (s.setPort p v).neigh = s.neigh := rfl
@[simp] theorem State.setPort_plans (s : State) (p : Nat) (v : Port) : (s.setPort p v).plans = s.plans := rfl
@[simp] theorem State.setPort_fwd (s : State) (p : Nat) (v : Port) : (s.setPort p v).fwd = s.fwd := rfl
@[simp] theorem State.setPort_flows (s : State) (p : Nat) (v : Port) : (s.setPort p v).flows = s.flows := rfl
@[simp] theorem State.setPort_reqs (s : State) (p : Nat) (v : Port) : (s.setPort p v).reqs = s.reqs := rfl
@[simp] theorem State.setPort_nextReq (s : State) (p : Nat) (v : Port) : (s.setPort p v).nextReq = s.nextReq := rfl
@[simp] theorem State.setPort_relNo (s : State) (p : Nat) (v : Port) : (s.setPort p v).relNo = s.relNo := rfl
@[simp] theorem State.setPort_threads (s : State) (p : Nat) (v : Port) : (s.setPort p v).threads = s.threads := rfl
@[simp] theorem State.setPort_blocks (s : State) (p : Nat) (v : Port) : (s.setPort p v).blocks = s.blocks := rfl
@[simp] theorem State.setPort_banks (s : State) (p : Nat) (v : Port) : (s.setPort p v).banks = s.banks := rfl
@[simp] theorem State.setPort_vctx (s : State) (p : Nat) (v : Port) : (s.setPort p v).vctx = s.vctx := rfl
@[simp] theorem State.setPort_vseLast (s : State) (p : Nat) (v : Port) : (s.setPort p v).vseLast = s.vseLast := rfl
@[simp] theorem State.setPort_models (s : State) (p : Nat) (v : Port) : (s.setPort p v).models = s.models := rfl
@[simp] theorem State.setPort_groups (s : State) (p : Nat) (v : Port) : (s.setPort p v).groups = s.groups := rfl
@[simp] theorem State.setPort_foldTok (s : State) (p : Nat) (v : Port) : (s.setPort p v).foldTok = s.foldTok := rfl
@[simp] theorem State.setPort_foldIn (s : State) (p : Nat) (v : Port) : (s.setPort p v).foldIn = s.foldIn := rfl
@[simp] theorem State.setPort_regions (s : State) (p : Nat) (v : Port) : (s.setPort p v).regions = s.regions := rfl
@[simp] theorem State.setPort_hbm (s : State) (p : Nat) (v : Port) : (s.setPort p v).hbm = s.hbm := rfl
@[simp] theorem State.setPort_poison (s : State) (p : Nat) (v : Port) : (s.setPort p v).poison = s.poison := rfl
@[simp] theorem State.setPort_blpReqs (s : State) (p : Nat) (v : Port) : (s.setPort p v).blpReqs = s.blpReqs := rfl
@[simp] theorem State.setPort_blpGot (s : State) (p : Nat) (v : Port) : (s.setPort p v).blpGot = s.blpGot := rfl
@[simp] theorem State.setPort_blpWait (s : State) (p : Nat) (v : Port) : (s.setPort p v).blpWait = s.blpWait := rfl
@[simp] theorem State.setPort_peerUp (s : State) (p : Nat) (v : Port) : (s.setPort p v).peerUp = s.peerUp := rfl
@[simp] theorem State.setPort_guests (s : State) (p : Nat) (v : Port) : (s.setPort p v).guests = s.guests := rfl
@[simp] theorem State.setPort_blpRoute (s : State) (p : Nat) (v : Port) : (s.setPort p v).blpRoute = s.blpRoute := rfl
@[simp] theorem State.setPort_links (s : State) (p : Nat) (v : Port) : (s.setPort p v).links = s.links := rfl
@[simp] theorem State.setPort_tileLanes (s : State) (p : Nat) (v : Port) : (s.setPort p v).tileLanes = s.tileLanes := rfl
@[simp] theorem State.setPort_laserIn (s : State) (p : Nat) (v : Port) : (s.setPort p v).laserIn = s.laserIn := rfl
@[simp] theorem State.setPort_laserLow (s : State) (p : Nat) (v : Port) : (s.setPort p v).laserLow = s.laserLow := rfl
@[simp] theorem State.setPort_counters (s : State) (p : Nat) (v : Port) : (s.setPort p v).counters = s.counters := rfl
@[simp] theorem State.setPort_freeCount (s : State) (p : Nat) (v : Port) : (s.setPort p v).freeCount = s.freeCount := rfl
@[simp] theorem State.setPort_outs (s : State) (p : Nat) (v : Port) : (s.setPort p v).outs = s.outs := rfl
@[simp] theorem State.setPort_pending (s : State) (p : Nat) (v : Port) : (s.setPort p v).pending = s.pending := rfl

@[simp] theorem State.updPort_now (s : State) (p : Nat) (f : Port → Port) : (s.updPort p f).now = s.now := rfl
@[simp] theorem State.updPort_cycle (s : State) (p : Nat) (f : Port → Port) : (s.updPort p f).cycle = s.cycle := rfl
@[simp] theorem State.updPort_fns (s : State) (p : Nat) (f : Port → Port) : (s.updPort p f).fns = s.fns := rfl
@[simp] theorem State.updPort_hostUp (s : State) (p : Nat) (f : Port → Port) : (s.updPort p f).hostUp = s.hostUp := rfl
@[simp] theorem State.updPort_votes (s : State) (p : Nat) (f : Port → Port) : (s.updPort p f).votes = s.votes := rfl
@[simp] theorem State.updPort_cmds (s : State) (p : Nat) (f : Port → Port) : (s.updPort p f).cmds = s.cmds := rfl
@[simp] theorem State.updPort_nextCmd (s : State) (p : Nat) (f : Port → Port) : (s.updPort p f).nextCmd = s.nextCmd := rfl
@[simp] theorem State.updPort_boot (s : State) (p : Nat) (f : Port → Port) : (s.updPort p f).boot = s.boot := rfl
@[simp] theorem State.updPort_power (s : State) (p : Nat) (f : Port → Port) : (s.updPort p f).power = s.power := rfl
@[simp] theorem State.updPort_place (s : State) (p : Nat) (f : Port → Port) : (s.updPort p f).place = s.place := rfl
@[simp] theorem State.updPort_tu (s : State) (p : Nat) (f : Port → Port) : (s.updPort p f).tu = s.tu := rfl
@[simp] theorem State.updPort_dev (s : State) (p : Nat) (f : Port → Port) : (s.updPort p f).dev = s.dev := rfl
@[simp] theorem State.updPort_mgmts (s : State) (p : Nat) (f : Port → Port) : (s.updPort p f).mgmts = s.mgmts := rfl
@[simp] theorem State.updPort_neigh (s : State) (p : Nat) (f : Port → Port) : (s.updPort p f).neigh = s.neigh := rfl
@[simp] theorem State.updPort_plans (s : State) (p : Nat) (f : Port → Port) : (s.updPort p f).plans = s.plans := rfl
@[simp] theorem State.updPort_fwd (s : State) (p : Nat) (f : Port → Port) : (s.updPort p f).fwd = s.fwd := rfl
@[simp] theorem State.updPort_flows (s : State) (p : Nat) (f : Port → Port) : (s.updPort p f).flows = s.flows := rfl
@[simp] theorem State.updPort_reqs (s : State) (p : Nat) (f : Port → Port) : (s.updPort p f).reqs = s.reqs := rfl
@[simp] theorem State.updPort_nextReq (s : State) (p : Nat) (f : Port → Port) : (s.updPort p f).nextReq = s.nextReq := rfl
@[simp] theorem State.updPort_relNo (s : State) (p : Nat) (f : Port → Port) : (s.updPort p f).relNo = s.relNo := rfl
@[simp] theorem State.updPort_threads (s : State) (p : Nat) (f : Port → Port) : (s.updPort p f).threads = s.threads := rfl
@[simp] theorem State.updPort_blocks (s : State) (p : Nat) (f : Port → Port) : (s.updPort p f).blocks = s.blocks := rfl
@[simp] theorem State.updPort_banks (s : State) (p : Nat) (f : Port → Port) : (s.updPort p f).banks = s.banks := rfl
@[simp] theorem State.updPort_vctx (s : State) (p : Nat) (f : Port → Port) : (s.updPort p f).vctx = s.vctx := rfl
@[simp] theorem State.updPort_vseLast (s : State) (p : Nat) (f : Port → Port) : (s.updPort p f).vseLast = s.vseLast := rfl
@[simp] theorem State.updPort_models (s : State) (p : Nat) (f : Port → Port) : (s.updPort p f).models = s.models := rfl
@[simp] theorem State.updPort_groups (s : State) (p : Nat) (f : Port → Port) : (s.updPort p f).groups = s.groups := rfl
@[simp] theorem State.updPort_foldTok (s : State) (p : Nat) (f : Port → Port) : (s.updPort p f).foldTok = s.foldTok := rfl
@[simp] theorem State.updPort_foldIn (s : State) (p : Nat) (f : Port → Port) : (s.updPort p f).foldIn = s.foldIn := rfl
@[simp] theorem State.updPort_regions (s : State) (p : Nat) (f : Port → Port) : (s.updPort p f).regions = s.regions := rfl
@[simp] theorem State.updPort_hbm (s : State) (p : Nat) (f : Port → Port) : (s.updPort p f).hbm = s.hbm := rfl
@[simp] theorem State.updPort_poison (s : State) (p : Nat) (f : Port → Port) : (s.updPort p f).poison = s.poison := rfl
@[simp] theorem State.updPort_blpReqs (s : State) (p : Nat) (f : Port → Port) : (s.updPort p f).blpReqs = s.blpReqs := rfl
@[simp] theorem State.updPort_blpGot (s : State) (p : Nat) (f : Port → Port) : (s.updPort p f).blpGot = s.blpGot := rfl
@[simp] theorem State.updPort_blpWait (s : State) (p : Nat) (f : Port → Port) : (s.updPort p f).blpWait = s.blpWait := rfl
@[simp] theorem State.updPort_peerUp (s : State) (p : Nat) (f : Port → Port) : (s.updPort p f).peerUp = s.peerUp := rfl
@[simp] theorem State.updPort_guests (s : State) (p : Nat) (f : Port → Port) : (s.updPort p f).guests = s.guests := rfl
@[simp] theorem State.updPort_blpRoute (s : State) (p : Nat) (f : Port → Port) : (s.updPort p f).blpRoute = s.blpRoute := rfl
@[simp] theorem State.updPort_links (s : State) (p : Nat) (f : Port → Port) : (s.updPort p f).links = s.links := rfl
@[simp] theorem State.updPort_tileLanes (s : State) (p : Nat) (f : Port → Port) : (s.updPort p f).tileLanes = s.tileLanes := rfl
@[simp] theorem State.updPort_laserIn (s : State) (p : Nat) (f : Port → Port) : (s.updPort p f).laserIn = s.laserIn := rfl
@[simp] theorem State.updPort_laserLow (s : State) (p : Nat) (f : Port → Port) : (s.updPort p f).laserLow = s.laserLow := rfl
@[simp] theorem State.updPort_counters (s : State) (p : Nat) (f : Port → Port) : (s.updPort p f).counters = s.counters := rfl
@[simp] theorem State.updPort_freeCount (s : State) (p : Nat) (f : Port → Port) : (s.updPort p f).freeCount = s.freeCount := rfl
@[simp] theorem State.updPort_outs (s : State) (p : Nat) (f : Port → Port) : (s.updPort p f).outs = s.outs := rfl
@[simp] theorem State.updPort_pending (s : State) (p : Nat) (f : Port → Port) : (s.updPort p f).pending = s.pending := rfl

@[simp] theorem State.updFn_now (s : State) (n : Nat) (f : Fn → Fn) : (s.updFn n f).now = s.now := rfl
@[simp] theorem State.updFn_cycle (s : State) (n : Nat) (f : Fn → Fn) : (s.updFn n f).cycle = s.cycle := rfl
@[simp] theorem State.updFn_hostUp (s : State) (n : Nat) (f : Fn → Fn) : (s.updFn n f).hostUp = s.hostUp := rfl
@[simp] theorem State.updFn_votes (s : State) (n : Nat) (f : Fn → Fn) : (s.updFn n f).votes = s.votes := rfl
@[simp] theorem State.updFn_cmds (s : State) (n : Nat) (f : Fn → Fn) : (s.updFn n f).cmds = s.cmds := rfl
@[simp] theorem State.updFn_nextCmd (s : State) (n : Nat) (f : Fn → Fn) : (s.updFn n f).nextCmd = s.nextCmd := rfl
@[simp] theorem State.updFn_boot (s : State) (n : Nat) (f : Fn → Fn) : (s.updFn n f).boot = s.boot := rfl
@[simp] theorem State.updFn_power (s : State) (n : Nat) (f : Fn → Fn) : (s.updFn n f).power = s.power := rfl
@[simp] theorem State.updFn_place (s : State) (n : Nat) (f : Fn → Fn) : (s.updFn n f).place = s.place := rfl
@[simp] theorem State.updFn_tu (s : State) (n : Nat) (f : Fn → Fn) : (s.updFn n f).tu = s.tu := rfl
@[simp] theorem State.updFn_dev (s : State) (n : Nat) (f : Fn → Fn) : (s.updFn n f).dev = s.dev := rfl
@[simp] theorem State.updFn_ports (s : State) (n : Nat) (f : Fn → Fn) : (s.updFn n f).ports = s.ports := rfl
@[simp] theorem State.updFn_mgmts (s : State) (n : Nat) (f : Fn → Fn) : (s.updFn n f).mgmts = s.mgmts := rfl
@[simp] theorem State.updFn_neigh (s : State) (n : Nat) (f : Fn → Fn) : (s.updFn n f).neigh = s.neigh := rfl
@[simp] theorem State.updFn_plans (s : State) (n : Nat) (f : Fn → Fn) : (s.updFn n f).plans = s.plans := rfl
@[simp] theorem State.updFn_fwd (s : State) (n : Nat) (f : Fn → Fn) : (s.updFn n f).fwd = s.fwd := rfl
@[simp] theorem State.updFn_flows (s : State) (n : Nat) (f : Fn → Fn) : (s.updFn n f).flows = s.flows := rfl
@[simp] theorem State.updFn_reqs (s : State) (n : Nat) (f : Fn → Fn) : (s.updFn n f).reqs = s.reqs := rfl
@[simp] theorem State.updFn_nextReq (s : State) (n : Nat) (f : Fn → Fn) : (s.updFn n f).nextReq = s.nextReq := rfl
@[simp] theorem State.updFn_relNo (s : State) (n : Nat) (f : Fn → Fn) : (s.updFn n f).relNo = s.relNo := rfl
@[simp] theorem State.updFn_threads (s : State) (n : Nat) (f : Fn → Fn) : (s.updFn n f).threads = s.threads := rfl
@[simp] theorem State.updFn_blocks (s : State) (n : Nat) (f : Fn → Fn) : (s.updFn n f).blocks = s.blocks := rfl
@[simp] theorem State.updFn_banks (s : State) (n : Nat) (f : Fn → Fn) : (s.updFn n f).banks = s.banks := rfl
@[simp] theorem State.updFn_vctx (s : State) (n : Nat) (f : Fn → Fn) : (s.updFn n f).vctx = s.vctx := rfl
@[simp] theorem State.updFn_vseLast (s : State) (n : Nat) (f : Fn → Fn) : (s.updFn n f).vseLast = s.vseLast := rfl
@[simp] theorem State.updFn_models (s : State) (n : Nat) (f : Fn → Fn) : (s.updFn n f).models = s.models := rfl
@[simp] theorem State.updFn_groups (s : State) (n : Nat) (f : Fn → Fn) : (s.updFn n f).groups = s.groups := rfl
@[simp] theorem State.updFn_foldTok (s : State) (n : Nat) (f : Fn → Fn) : (s.updFn n f).foldTok = s.foldTok := rfl
@[simp] theorem State.updFn_foldIn (s : State) (n : Nat) (f : Fn → Fn) : (s.updFn n f).foldIn = s.foldIn := rfl
@[simp] theorem State.updFn_regions (s : State) (n : Nat) (f : Fn → Fn) : (s.updFn n f).regions = s.regions := rfl
@[simp] theorem State.updFn_hbm (s : State) (n : Nat) (f : Fn → Fn) : (s.updFn n f).hbm = s.hbm := rfl
@[simp] theorem State.updFn_poison (s : State) (n : Nat) (f : Fn → Fn) : (s.updFn n f).poison = s.poison := rfl
@[simp] theorem State.updFn_blpReqs (s : State) (n : Nat) (f : Fn → Fn) : (s.updFn n f).blpReqs = s.blpReqs := rfl
@[simp] theorem State.updFn_blpGot (s : State) (n : Nat) (f : Fn → Fn) : (s.updFn n f).blpGot = s.blpGot := rfl
@[simp] theorem State.updFn_blpWait (s : State) (n : Nat) (f : Fn → Fn) : (s.updFn n f).blpWait = s.blpWait := rfl
@[simp] theorem State.updFn_peerUp (s : State) (n : Nat) (f : Fn → Fn) : (s.updFn n f).peerUp = s.peerUp := rfl
@[simp] theorem State.updFn_guests (s : State) (n : Nat) (f : Fn → Fn) : (s.updFn n f).guests = s.guests := rfl
@[simp] theorem State.updFn_blpRoute (s : State) (n : Nat) (f : Fn → Fn) : (s.updFn n f).blpRoute = s.blpRoute := rfl
@[simp] theorem State.updFn_links (s : State) (n : Nat) (f : Fn → Fn) : (s.updFn n f).links = s.links := rfl
@[simp] theorem State.updFn_tileLanes (s : State) (n : Nat) (f : Fn → Fn) : (s.updFn n f).tileLanes = s.tileLanes := rfl
@[simp] theorem State.updFn_laserIn (s : State) (n : Nat) (f : Fn → Fn) : (s.updFn n f).laserIn = s.laserIn := rfl
@[simp] theorem State.updFn_laserLow (s : State) (n : Nat) (f : Fn → Fn) : (s.updFn n f).laserLow = s.laserLow := rfl
@[simp] theorem State.updFn_counters (s : State) (n : Nat) (f : Fn → Fn) : (s.updFn n f).counters = s.counters := rfl
@[simp] theorem State.updFn_freeCount (s : State) (n : Nat) (f : Fn → Fn) : (s.updFn n f).freeCount = s.freeCount := rfl
@[simp] theorem State.updFn_outs (s : State) (n : Nat) (f : Fn → Fn) : (s.updFn n f).outs = s.outs := rfl
@[simp] theorem State.updFn_pending (s : State) (n : Nat) (f : Fn → Fn) : (s.updFn n f).pending = s.pending := rfl

@[simp] theorem State.updRing_now (s : State) (n r : Nat) (f : Ring → Ring) : (s.updRing n r f).now = s.now := rfl
@[simp] theorem State.updRing_cycle (s : State) (n r : Nat) (f : Ring → Ring) : (s.updRing n r f).cycle = s.cycle := rfl
@[simp] theorem State.updRing_hostUp (s : State) (n r : Nat) (f : Ring → Ring) : (s.updRing n r f).hostUp = s.hostUp := rfl
@[simp] theorem State.updRing_votes (s : State) (n r : Nat) (f : Ring → Ring) : (s.updRing n r f).votes = s.votes := rfl
@[simp] theorem State.updRing_cmds (s : State) (n r : Nat) (f : Ring → Ring) : (s.updRing n r f).cmds = s.cmds := rfl
@[simp] theorem State.updRing_nextCmd (s : State) (n r : Nat) (f : Ring → Ring) : (s.updRing n r f).nextCmd = s.nextCmd := rfl
@[simp] theorem State.updRing_boot (s : State) (n r : Nat) (f : Ring → Ring) : (s.updRing n r f).boot = s.boot := rfl
@[simp] theorem State.updRing_power (s : State) (n r : Nat) (f : Ring → Ring) : (s.updRing n r f).power = s.power := rfl
@[simp] theorem State.updRing_place (s : State) (n r : Nat) (f : Ring → Ring) : (s.updRing n r f).place = s.place := rfl
@[simp] theorem State.updRing_tu (s : State) (n r : Nat) (f : Ring → Ring) : (s.updRing n r f).tu = s.tu := rfl
@[simp] theorem State.updRing_dev (s : State) (n r : Nat) (f : Ring → Ring) : (s.updRing n r f).dev = s.dev := rfl
@[simp] theorem State.updRing_ports (s : State) (n r : Nat) (f : Ring → Ring) : (s.updRing n r f).ports = s.ports := rfl
@[simp] theorem State.updRing_mgmts (s : State) (n r : Nat) (f : Ring → Ring) : (s.updRing n r f).mgmts = s.mgmts := rfl
@[simp] theorem State.updRing_neigh (s : State) (n r : Nat) (f : Ring → Ring) : (s.updRing n r f).neigh = s.neigh := rfl
@[simp] theorem State.updRing_plans (s : State) (n r : Nat) (f : Ring → Ring) : (s.updRing n r f).plans = s.plans := rfl
@[simp] theorem State.updRing_fwd (s : State) (n r : Nat) (f : Ring → Ring) : (s.updRing n r f).fwd = s.fwd := rfl
@[simp] theorem State.updRing_flows (s : State) (n r : Nat) (f : Ring → Ring) : (s.updRing n r f).flows = s.flows := rfl
@[simp] theorem State.updRing_reqs (s : State) (n r : Nat) (f : Ring → Ring) : (s.updRing n r f).reqs = s.reqs := rfl
@[simp] theorem State.updRing_nextReq (s : State) (n r : Nat) (f : Ring → Ring) : (s.updRing n r f).nextReq = s.nextReq := rfl
@[simp] theorem State.updRing_relNo (s : State) (n r : Nat) (f : Ring → Ring) : (s.updRing n r f).relNo = s.relNo := rfl
@[simp] theorem State.updRing_threads (s : State) (n r : Nat) (f : Ring → Ring) : (s.updRing n r f).threads = s.threads := rfl
@[simp] theorem State.updRing_blocks (s : State) (n r : Nat) (f : Ring → Ring) : (s.updRing n r f).blocks = s.blocks := rfl
@[simp] theorem State.updRing_banks (s : State) (n r : Nat) (f : Ring → Ring) : (s.updRing n r f).banks = s.banks := rfl
@[simp] theorem State.updRing_vctx (s : State) (n r : Nat) (f : Ring → Ring) : (s.updRing n r f).vctx = s.vctx := rfl
@[simp] theorem State.updRing_vseLast (s : State) (n r : Nat) (f : Ring → Ring) : (s.updRing n r f).vseLast = s.vseLast := rfl
@[simp] theorem State.updRing_models (s : State) (n r : Nat) (f : Ring → Ring) : (s.updRing n r f).models = s.models := rfl
@[simp] theorem State.updRing_groups (s : State) (n r : Nat) (f : Ring → Ring) : (s.updRing n r f).groups = s.groups := rfl
@[simp] theorem State.updRing_foldTok (s : State) (n r : Nat) (f : Ring → Ring) : (s.updRing n r f).foldTok = s.foldTok := rfl
@[simp] theorem State.updRing_foldIn (s : State) (n r : Nat) (f : Ring → Ring) : (s.updRing n r f).foldIn = s.foldIn := rfl
@[simp] theorem State.updRing_regions (s : State) (n r : Nat) (f : Ring → Ring) : (s.updRing n r f).regions = s.regions := rfl
@[simp] theorem State.updRing_hbm (s : State) (n r : Nat) (f : Ring → Ring) : (s.updRing n r f).hbm = s.hbm := rfl
@[simp] theorem State.updRing_poison (s : State) (n r : Nat) (f : Ring → Ring) : (s.updRing n r f).poison = s.poison := rfl
@[simp] theorem State.updRing_blpReqs (s : State) (n r : Nat) (f : Ring → Ring) : (s.updRing n r f).blpReqs = s.blpReqs := rfl
@[simp] theorem State.updRing_blpGot (s : State) (n r : Nat) (f : Ring → Ring) : (s.updRing n r f).blpGot = s.blpGot := rfl
@[simp] theorem State.updRing_blpWait (s : State) (n r : Nat) (f : Ring → Ring) : (s.updRing n r f).blpWait = s.blpWait := rfl
@[simp] theorem State.updRing_peerUp (s : State) (n r : Nat) (f : Ring → Ring) : (s.updRing n r f).peerUp = s.peerUp := rfl
@[simp] theorem State.updRing_guests (s : State) (n r : Nat) (f : Ring → Ring) : (s.updRing n r f).guests = s.guests := rfl
@[simp] theorem State.updRing_blpRoute (s : State) (n r : Nat) (f : Ring → Ring) : (s.updRing n r f).blpRoute = s.blpRoute := rfl
@[simp] theorem State.updRing_links (s : State) (n r : Nat) (f : Ring → Ring) : (s.updRing n r f).links = s.links := rfl
@[simp] theorem State.updRing_tileLanes (s : State) (n r : Nat) (f : Ring → Ring) : (s.updRing n r f).tileLanes = s.tileLanes := rfl
@[simp] theorem State.updRing_laserIn (s : State) (n r : Nat) (f : Ring → Ring) : (s.updRing n r f).laserIn = s.laserIn := rfl
@[simp] theorem State.updRing_laserLow (s : State) (n r : Nat) (f : Ring → Ring) : (s.updRing n r f).laserLow = s.laserLow := rfl
@[simp] theorem State.updRing_counters (s : State) (n r : Nat) (f : Ring → Ring) : (s.updRing n r f).counters = s.counters := rfl
@[simp] theorem State.updRing_freeCount (s : State) (n r : Nat) (f : Ring → Ring) : (s.updRing n r f).freeCount = s.freeCount := rfl
@[simp] theorem State.updRing_outs (s : State) (n r : Nat) (f : Ring → Ring) : (s.updRing n r f).outs = s.outs := rfl
@[simp] theorem State.updRing_pending (s : State) (n r : Nat) (f : Ring → Ring) : (s.updRing n r f).pending = s.pending := rfl

@[simp] theorem State.updBlock_now (s : State) (b : Nat) (f : Block → Block) : (s.updBlock b f).now = s.now := rfl
@[simp] theorem State.updBlock_cycle (s : State) (b : Nat) (f : Block → Block) : (s.updBlock b f).cycle = s.cycle := rfl
@[simp] theorem State.updBlock_fns (s : State) (b : Nat) (f : Block → Block) : (s.updBlock b f).fns = s.fns := rfl
@[simp] theorem State.updBlock_hostUp (s : State) (b : Nat) (f : Block → Block) : (s.updBlock b f).hostUp = s.hostUp := rfl
@[simp] theorem State.updBlock_votes (s : State) (b : Nat) (f : Block → Block) : (s.updBlock b f).votes = s.votes := rfl
@[simp] theorem State.updBlock_cmds (s : State) (b : Nat) (f : Block → Block) : (s.updBlock b f).cmds = s.cmds := rfl
@[simp] theorem State.updBlock_nextCmd (s : State) (b : Nat) (f : Block → Block) : (s.updBlock b f).nextCmd = s.nextCmd := rfl
@[simp] theorem State.updBlock_boot (s : State) (b : Nat) (f : Block → Block) : (s.updBlock b f).boot = s.boot := rfl
@[simp] theorem State.updBlock_power (s : State) (b : Nat) (f : Block → Block) : (s.updBlock b f).power = s.power := rfl
@[simp] theorem State.updBlock_place (s : State) (b : Nat) (f : Block → Block) : (s.updBlock b f).place = s.place := rfl
@[simp] theorem State.updBlock_tu (s : State) (b : Nat) (f : Block → Block) : (s.updBlock b f).tu = s.tu := rfl
@[simp] theorem State.updBlock_dev (s : State) (b : Nat) (f : Block → Block) : (s.updBlock b f).dev = s.dev := rfl
@[simp] theorem State.updBlock_ports (s : State) (b : Nat) (f : Block → Block) : (s.updBlock b f).ports = s.ports := rfl
@[simp] theorem State.updBlock_mgmts (s : State) (b : Nat) (f : Block → Block) : (s.updBlock b f).mgmts = s.mgmts := rfl
@[simp] theorem State.updBlock_neigh (s : State) (b : Nat) (f : Block → Block) : (s.updBlock b f).neigh = s.neigh := rfl
@[simp] theorem State.updBlock_plans (s : State) (b : Nat) (f : Block → Block) : (s.updBlock b f).plans = s.plans := rfl
@[simp] theorem State.updBlock_fwd (s : State) (b : Nat) (f : Block → Block) : (s.updBlock b f).fwd = s.fwd := rfl
@[simp] theorem State.updBlock_flows (s : State) (b : Nat) (f : Block → Block) : (s.updBlock b f).flows = s.flows := rfl
@[simp] theorem State.updBlock_reqs (s : State) (b : Nat) (f : Block → Block) : (s.updBlock b f).reqs = s.reqs := rfl
@[simp] theorem State.updBlock_nextReq (s : State) (b : Nat) (f : Block → Block) : (s.updBlock b f).nextReq = s.nextReq := rfl
@[simp] theorem State.updBlock_relNo (s : State) (b : Nat) (f : Block → Block) : (s.updBlock b f).relNo = s.relNo := rfl
@[simp] theorem State.updBlock_threads (s : State) (b : Nat) (f : Block → Block) : (s.updBlock b f).threads = s.threads := rfl
@[simp] theorem State.updBlock_banks (s : State) (b : Nat) (f : Block → Block) : (s.updBlock b f).banks = s.banks := rfl
@[simp] theorem State.updBlock_vctx (s : State) (b : Nat) (f : Block → Block) : (s.updBlock b f).vctx = s.vctx := rfl
@[simp] theorem State.updBlock_vseLast (s : State) (b : Nat) (f : Block → Block) : (s.updBlock b f).vseLast = s.vseLast := rfl
@[simp] theorem State.updBlock_models (s : State) (b : Nat) (f : Block → Block) : (s.updBlock b f).models = s.models := rfl
@[simp] theorem State.updBlock_groups (s : State) (b : Nat) (f : Block → Block) : (s.updBlock b f).groups = s.groups := rfl
@[simp] theorem State.updBlock_foldTok (s : State) (b : Nat) (f : Block → Block) : (s.updBlock b f).foldTok = s.foldTok := rfl
@[simp] theorem State.updBlock_foldIn (s : State) (b : Nat) (f : Block → Block) : (s.updBlock b f).foldIn = s.foldIn := rfl
@[simp] theorem State.updBlock_regions (s : State) (b : Nat) (f : Block → Block) : (s.updBlock b f).regions = s.regions := rfl
@[simp] theorem State.updBlock_hbm (s : State) (b : Nat) (f : Block → Block) : (s.updBlock b f).hbm = s.hbm := rfl
@[simp] theorem State.updBlock_poison (s : State) (b : Nat) (f : Block → Block) : (s.updBlock b f).poison = s.poison := rfl
@[simp] theorem State.updBlock_blpReqs (s : State) (b : Nat) (f : Block → Block) : (s.updBlock b f).blpReqs = s.blpReqs := rfl
@[simp] theorem State.updBlock_blpGot (s : State) (b : Nat) (f : Block → Block) : (s.updBlock b f).blpGot = s.blpGot := rfl
@[simp] theorem State.updBlock_blpWait (s : State) (b : Nat) (f : Block → Block) : (s.updBlock b f).blpWait = s.blpWait := rfl
@[simp] theorem State.updBlock_peerUp (s : State) (b : Nat) (f : Block → Block) : (s.updBlock b f).peerUp = s.peerUp := rfl
@[simp] theorem State.updBlock_guests (s : State) (b : Nat) (f : Block → Block) : (s.updBlock b f).guests = s.guests := rfl
@[simp] theorem State.updBlock_blpRoute (s : State) (b : Nat) (f : Block → Block) : (s.updBlock b f).blpRoute = s.blpRoute := rfl
@[simp] theorem State.updBlock_links (s : State) (b : Nat) (f : Block → Block) : (s.updBlock b f).links = s.links := rfl
@[simp] theorem State.updBlock_tileLanes (s : State) (b : Nat) (f : Block → Block) : (s.updBlock b f).tileLanes = s.tileLanes := rfl
@[simp] theorem State.updBlock_laserIn (s : State) (b : Nat) (f : Block → Block) : (s.updBlock b f).laserIn = s.laserIn := rfl
@[simp] theorem State.updBlock_laserLow (s : State) (b : Nat) (f : Block → Block) : (s.updBlock b f).laserLow = s.laserLow := rfl
@[simp] theorem State.updBlock_counters (s : State) (b : Nat) (f : Block → Block) : (s.updBlock b f).counters = s.counters := rfl
@[simp] theorem State.updBlock_freeCount (s : State) (b : Nat) (f : Block → Block) : (s.updBlock b f).freeCount = s.freeCount := rfl
@[simp] theorem State.updBlock_outs (s : State) (b : Nat) (f : Block → Block) : (s.updBlock b f).outs = s.outs := rfl
@[simp] theorem State.updBlock_pending (s : State) (b : Nat) (f : Block → Block) : (s.updBlock b f).pending = s.pending := rfl

@[simp] theorem State.updModel_now (s : State) (m : Nat) (f : Model → Model) : (s.updModel m f).now = s.now := rfl
@[simp] theorem State.updModel_cycle (s : State) (m : Nat) (f : Model → Model) : (s.updModel m f).cycle = s.cycle := rfl
@[simp] theorem State.updModel_fns (s : State) (m : Nat) (f : Model → Model) : (s.updModel m f).fns = s.fns := rfl
@[simp] theorem State.updModel_hostUp (s : State) (m : Nat) (f : Model → Model) : (s.updModel m f).hostUp = s.hostUp := rfl
@[simp] theorem State.updModel_votes (s : State) (m : Nat) (f : Model → Model) : (s.updModel m f).votes = s.votes := rfl
@[simp] theorem State.updModel_cmds (s : State) (m : Nat) (f : Model → Model) : (s.updModel m f).cmds = s.cmds := rfl
@[simp] theorem State.updModel_nextCmd (s : State) (m : Nat) (f : Model → Model) : (s.updModel m f).nextCmd = s.nextCmd := rfl
@[simp] theorem State.updModel_boot (s : State) (m : Nat) (f : Model → Model) : (s.updModel m f).boot = s.boot := rfl
@[simp] theorem State.updModel_power (s : State) (m : Nat) (f : Model → Model) : (s.updModel m f).power = s.power := rfl
@[simp] theorem State.updModel_place (s : State) (m : Nat) (f : Model → Model) : (s.updModel m f).place = s.place := rfl
@[simp] theorem State.updModel_tu (s : State) (m : Nat) (f : Model → Model) : (s.updModel m f).tu = s.tu := rfl
@[simp] theorem State.updModel_dev (s : State) (m : Nat) (f : Model → Model) : (s.updModel m f).dev = s.dev := rfl
@[simp] theorem State.updModel_ports (s : State) (m : Nat) (f : Model → Model) : (s.updModel m f).ports = s.ports := rfl
@[simp] theorem State.updModel_mgmts (s : State) (m : Nat) (f : Model → Model) : (s.updModel m f).mgmts = s.mgmts := rfl
@[simp] theorem State.updModel_neigh (s : State) (m : Nat) (f : Model → Model) : (s.updModel m f).neigh = s.neigh := rfl
@[simp] theorem State.updModel_plans (s : State) (m : Nat) (f : Model → Model) : (s.updModel m f).plans = s.plans := rfl
@[simp] theorem State.updModel_fwd (s : State) (m : Nat) (f : Model → Model) : (s.updModel m f).fwd = s.fwd := rfl
@[simp] theorem State.updModel_flows (s : State) (m : Nat) (f : Model → Model) : (s.updModel m f).flows = s.flows := rfl
@[simp] theorem State.updModel_reqs (s : State) (m : Nat) (f : Model → Model) : (s.updModel m f).reqs = s.reqs := rfl
@[simp] theorem State.updModel_nextReq (s : State) (m : Nat) (f : Model → Model) : (s.updModel m f).nextReq = s.nextReq := rfl
@[simp] theorem State.updModel_relNo (s : State) (m : Nat) (f : Model → Model) : (s.updModel m f).relNo = s.relNo := rfl
@[simp] theorem State.updModel_threads (s : State) (m : Nat) (f : Model → Model) : (s.updModel m f).threads = s.threads := rfl
@[simp] theorem State.updModel_blocks (s : State) (m : Nat) (f : Model → Model) : (s.updModel m f).blocks = s.blocks := rfl
@[simp] theorem State.updModel_banks (s : State) (m : Nat) (f : Model → Model) : (s.updModel m f).banks = s.banks := rfl
@[simp] theorem State.updModel_vctx (s : State) (m : Nat) (f : Model → Model) : (s.updModel m f).vctx = s.vctx := rfl
@[simp] theorem State.updModel_vseLast (s : State) (m : Nat) (f : Model → Model) : (s.updModel m f).vseLast = s.vseLast := rfl
@[simp] theorem State.updModel_groups (s : State) (m : Nat) (f : Model → Model) : (s.updModel m f).groups = s.groups := rfl
@[simp] theorem State.updModel_foldTok (s : State) (m : Nat) (f : Model → Model) : (s.updModel m f).foldTok = s.foldTok := rfl
@[simp] theorem State.updModel_foldIn (s : State) (m : Nat) (f : Model → Model) : (s.updModel m f).foldIn = s.foldIn := rfl
@[simp] theorem State.updModel_regions (s : State) (m : Nat) (f : Model → Model) : (s.updModel m f).regions = s.regions := rfl
@[simp] theorem State.updModel_hbm (s : State) (m : Nat) (f : Model → Model) : (s.updModel m f).hbm = s.hbm := rfl
@[simp] theorem State.updModel_poison (s : State) (m : Nat) (f : Model → Model) : (s.updModel m f).poison = s.poison := rfl
@[simp] theorem State.updModel_blpReqs (s : State) (m : Nat) (f : Model → Model) : (s.updModel m f).blpReqs = s.blpReqs := rfl
@[simp] theorem State.updModel_blpGot (s : State) (m : Nat) (f : Model → Model) : (s.updModel m f).blpGot = s.blpGot := rfl
@[simp] theorem State.updModel_blpWait (s : State) (m : Nat) (f : Model → Model) : (s.updModel m f).blpWait = s.blpWait := rfl
@[simp] theorem State.updModel_peerUp (s : State) (m : Nat) (f : Model → Model) : (s.updModel m f).peerUp = s.peerUp := rfl
@[simp] theorem State.updModel_guests (s : State) (m : Nat) (f : Model → Model) : (s.updModel m f).guests = s.guests := rfl
@[simp] theorem State.updModel_blpRoute (s : State) (m : Nat) (f : Model → Model) : (s.updModel m f).blpRoute = s.blpRoute := rfl
@[simp] theorem State.updModel_links (s : State) (m : Nat) (f : Model → Model) : (s.updModel m f).links = s.links := rfl
@[simp] theorem State.updModel_tileLanes (s : State) (m : Nat) (f : Model → Model) : (s.updModel m f).tileLanes = s.tileLanes := rfl
@[simp] theorem State.updModel_laserIn (s : State) (m : Nat) (f : Model → Model) : (s.updModel m f).laserIn = s.laserIn := rfl
@[simp] theorem State.updModel_laserLow (s : State) (m : Nat) (f : Model → Model) : (s.updModel m f).laserLow = s.laserLow := rfl
@[simp] theorem State.updModel_counters (s : State) (m : Nat) (f : Model → Model) : (s.updModel m f).counters = s.counters := rfl
@[simp] theorem State.updModel_freeCount (s : State) (m : Nat) (f : Model → Model) : (s.updModel m f).freeCount = s.freeCount := rfl
@[simp] theorem State.updModel_outs (s : State) (m : Nat) (f : Model → Model) : (s.updModel m f).outs = s.outs := rfl
@[simp] theorem State.updModel_pending (s : State) (m : Nat) (f : Model → Model) : (s.updModel m f).pending = s.pending := rfl

@[simp] theorem State.updLink_now (s : State) (l : Nat) (f : Link → Link) : (s.updLink l f).now = s.now := rfl
@[simp] theorem State.updLink_cycle (s : State) (l : Nat) (f : Link → Link) : (s.updLink l f).cycle = s.cycle := rfl
@[simp] theorem State.updLink_fns (s : State) (l : Nat) (f : Link → Link) : (s.updLink l f).fns = s.fns := rfl
@[simp] theorem State.updLink_hostUp (s : State) (l : Nat) (f : Link → Link) : (s.updLink l f).hostUp = s.hostUp := rfl
@[simp] theorem State.updLink_votes (s : State) (l : Nat) (f : Link → Link) : (s.updLink l f).votes = s.votes := rfl
@[simp] theorem State.updLink_cmds (s : State) (l : Nat) (f : Link → Link) : (s.updLink l f).cmds = s.cmds := rfl
@[simp] theorem State.updLink_nextCmd (s : State) (l : Nat) (f : Link → Link) : (s.updLink l f).nextCmd = s.nextCmd := rfl
@[simp] theorem State.updLink_boot (s : State) (l : Nat) (f : Link → Link) : (s.updLink l f).boot = s.boot := rfl
@[simp] theorem State.updLink_power (s : State) (l : Nat) (f : Link → Link) : (s.updLink l f).power = s.power := rfl
@[simp] theorem State.updLink_place (s : State) (l : Nat) (f : Link → Link) : (s.updLink l f).place = s.place := rfl
@[simp] theorem State.updLink_tu (s : State) (l : Nat) (f : Link → Link) : (s.updLink l f).tu = s.tu := rfl
@[simp] theorem State.updLink_dev (s : State) (l : Nat) (f : Link → Link) : (s.updLink l f).dev = s.dev := rfl
@[simp] theorem State.updLink_ports (s : State) (l : Nat) (f : Link → Link) : (s.updLink l f).ports = s.ports := rfl
@[simp] theorem State.updLink_mgmts (s : State) (l : Nat) (f : Link → Link) : (s.updLink l f).mgmts = s.mgmts := rfl
@[simp] theorem State.updLink_neigh (s : State) (l : Nat) (f : Link → Link) : (s.updLink l f).neigh = s.neigh := rfl
@[simp] theorem State.updLink_plans (s : State) (l : Nat) (f : Link → Link) : (s.updLink l f).plans = s.plans := rfl
@[simp] theorem State.updLink_fwd (s : State) (l : Nat) (f : Link → Link) : (s.updLink l f).fwd = s.fwd := rfl
@[simp] theorem State.updLink_flows (s : State) (l : Nat) (f : Link → Link) : (s.updLink l f).flows = s.flows := rfl
@[simp] theorem State.updLink_reqs (s : State) (l : Nat) (f : Link → Link) : (s.updLink l f).reqs = s.reqs := rfl
@[simp] theorem State.updLink_nextReq (s : State) (l : Nat) (f : Link → Link) : (s.updLink l f).nextReq = s.nextReq := rfl
@[simp] theorem State.updLink_relNo (s : State) (l : Nat) (f : Link → Link) : (s.updLink l f).relNo = s.relNo := rfl
@[simp] theorem State.updLink_threads (s : State) (l : Nat) (f : Link → Link) : (s.updLink l f).threads = s.threads := rfl
@[simp] theorem State.updLink_blocks (s : State) (l : Nat) (f : Link → Link) : (s.updLink l f).blocks = s.blocks := rfl
@[simp] theorem State.updLink_banks (s : State) (l : Nat) (f : Link → Link) : (s.updLink l f).banks = s.banks := rfl
@[simp] theorem State.updLink_vctx (s : State) (l : Nat) (f : Link → Link) : (s.updLink l f).vctx = s.vctx := rfl
@[simp] theorem State.updLink_vseLast (s : State) (l : Nat) (f : Link → Link) : (s.updLink l f).vseLast = s.vseLast := rfl
@[simp] theorem State.updLink_models (s : State) (l : Nat) (f : Link → Link) : (s.updLink l f).models = s.models := rfl
@[simp] theorem State.updLink_groups (s : State) (l : Nat) (f : Link → Link) : (s.updLink l f).groups = s.groups := rfl
@[simp] theorem State.updLink_foldTok (s : State) (l : Nat) (f : Link → Link) : (s.updLink l f).foldTok = s.foldTok := rfl
@[simp] theorem State.updLink_foldIn (s : State) (l : Nat) (f : Link → Link) : (s.updLink l f).foldIn = s.foldIn := rfl
@[simp] theorem State.updLink_regions (s : State) (l : Nat) (f : Link → Link) : (s.updLink l f).regions = s.regions := rfl
@[simp] theorem State.updLink_hbm (s : State) (l : Nat) (f : Link → Link) : (s.updLink l f).hbm = s.hbm := rfl
@[simp] theorem State.updLink_poison (s : State) (l : Nat) (f : Link → Link) : (s.updLink l f).poison = s.poison := rfl
@[simp] theorem State.updLink_blpReqs (s : State) (l : Nat) (f : Link → Link) : (s.updLink l f).blpReqs = s.blpReqs := rfl
@[simp] theorem State.updLink_blpGot (s : State) (l : Nat) (f : Link → Link) : (s.updLink l f).blpGot = s.blpGot := rfl
@[simp] theorem State.updLink_blpWait (s : State) (l : Nat) (f : Link → Link) : (s.updLink l f).blpWait = s.blpWait := rfl
@[simp] theorem State.updLink_peerUp (s : State) (l : Nat) (f : Link → Link) : (s.updLink l f).peerUp = s.peerUp := rfl
@[simp] theorem State.updLink_guests (s : State) (l : Nat) (f : Link → Link) : (s.updLink l f).guests = s.guests := rfl
@[simp] theorem State.updLink_blpRoute (s : State) (l : Nat) (f : Link → Link) : (s.updLink l f).blpRoute = s.blpRoute := rfl
@[simp] theorem State.updLink_tileLanes (s : State) (l : Nat) (f : Link → Link) : (s.updLink l f).tileLanes = s.tileLanes := rfl
@[simp] theorem State.updLink_laserIn (s : State) (l : Nat) (f : Link → Link) : (s.updLink l f).laserIn = s.laserIn := rfl
@[simp] theorem State.updLink_laserLow (s : State) (l : Nat) (f : Link → Link) : (s.updLink l f).laserLow = s.laserLow := rfl
@[simp] theorem State.updLink_counters (s : State) (l : Nat) (f : Link → Link) : (s.updLink l f).counters = s.counters := rfl
@[simp] theorem State.updLink_freeCount (s : State) (l : Nat) (f : Link → Link) : (s.updLink l f).freeCount = s.freeCount := rfl
@[simp] theorem State.updLink_outs (s : State) (l : Nat) (f : Link → Link) : (s.updLink l f).outs = s.outs := rfl
@[simp] theorem State.updLink_pending (s : State) (l : Nat) (f : Link → Link) : (s.updLink l f).pending = s.pending := rfl

@[simp] theorem State.updReq_now (s : State) (r : Nat) (f : Request → Request) : (s.updReq r f).now = s.now := rfl
@[simp] theorem State.updReq_cycle (s : State) (r : Nat) (f : Request → Request) : (s.updReq r f).cycle = s.cycle := rfl
@[simp] theorem State.updReq_fns (s : State) (r : Nat) (f : Request → Request) : (s.updReq r f).fns = s.fns := rfl
@[simp] theorem State.updReq_hostUp (s : State) (r : Nat) (f : Request → Request) : (s.updReq r f).hostUp = s.hostUp := rfl
@[simp] theorem State.updReq_votes (s : State) (r : Nat) (f : Request → Request) : (s.updReq r f).votes = s.votes := rfl
@[simp] theorem State.updReq_cmds (s : State) (r : Nat) (f : Request → Request) : (s.updReq r f).cmds = s.cmds := rfl
@[simp] theorem State.updReq_nextCmd (s : State) (r : Nat) (f : Request → Request) : (s.updReq r f).nextCmd = s.nextCmd := rfl
@[simp] theorem State.updReq_boot (s : State) (r : Nat) (f : Request → Request) : (s.updReq r f).boot = s.boot := rfl
@[simp] theorem State.updReq_power (s : State) (r : Nat) (f : Request → Request) : (s.updReq r f).power = s.power := rfl
@[simp] theorem State.updReq_place (s : State) (r : Nat) (f : Request → Request) : (s.updReq r f).place = s.place := rfl
@[simp] theorem State.updReq_tu (s : State) (r : Nat) (f : Request → Request) : (s.updReq r f).tu = s.tu := rfl
@[simp] theorem State.updReq_dev (s : State) (r : Nat) (f : Request → Request) : (s.updReq r f).dev = s.dev := rfl
@[simp] theorem State.updReq_ports (s : State) (r : Nat) (f : Request → Request) : (s.updReq r f).ports = s.ports := rfl
@[simp] theorem State.updReq_mgmts (s : State) (r : Nat) (f : Request → Request) : (s.updReq r f).mgmts = s.mgmts := rfl
@[simp] theorem State.updReq_neigh (s : State) (r : Nat) (f : Request → Request) : (s.updReq r f).neigh = s.neigh := rfl
@[simp] theorem State.updReq_plans (s : State) (r : Nat) (f : Request → Request) : (s.updReq r f).plans = s.plans := rfl
@[simp] theorem State.updReq_fwd (s : State) (r : Nat) (f : Request → Request) : (s.updReq r f).fwd = s.fwd := rfl
@[simp] theorem State.updReq_flows (s : State) (r : Nat) (f : Request → Request) : (s.updReq r f).flows = s.flows := rfl
@[simp] theorem State.updReq_nextReq (s : State) (r : Nat) (f : Request → Request) : (s.updReq r f).nextReq = s.nextReq := rfl
@[simp] theorem State.updReq_relNo (s : State) (r : Nat) (f : Request → Request) : (s.updReq r f).relNo = s.relNo := rfl
@[simp] theorem State.updReq_threads (s : State) (r : Nat) (f : Request → Request) : (s.updReq r f).threads = s.threads := rfl
@[simp] theorem State.updReq_blocks (s : State) (r : Nat) (f : Request → Request) : (s.updReq r f).blocks = s.blocks := rfl
@[simp] theorem State.updReq_banks (s : State) (r : Nat) (f : Request → Request) : (s.updReq r f).banks = s.banks := rfl
@[simp] theorem State.updReq_vctx (s : State) (r : Nat) (f : Request → Request) : (s.updReq r f).vctx = s.vctx := rfl
@[simp] theorem State.updReq_vseLast (s : State) (r : Nat) (f : Request → Request) : (s.updReq r f).vseLast = s.vseLast := rfl
@[simp] theorem State.updReq_models (s : State) (r : Nat) (f : Request → Request) : (s.updReq r f).models = s.models := rfl
@[simp] theorem State.updReq_groups (s : State) (r : Nat) (f : Request → Request) : (s.updReq r f).groups = s.groups := rfl
@[simp] theorem State.updReq_foldTok (s : State) (r : Nat) (f : Request → Request) : (s.updReq r f).foldTok = s.foldTok := rfl
@[simp] theorem State.updReq_foldIn (s : State) (r : Nat) (f : Request → Request) : (s.updReq r f).foldIn = s.foldIn := rfl
@[simp] theorem State.updReq_regions (s : State) (r : Nat) (f : Request → Request) : (s.updReq r f).regions = s.regions := rfl
@[simp] theorem State.updReq_hbm (s : State) (r : Nat) (f : Request → Request) : (s.updReq r f).hbm = s.hbm := rfl
@[simp] theorem State.updReq_poison (s : State) (r : Nat) (f : Request → Request) : (s.updReq r f).poison = s.poison := rfl
@[simp] theorem State.updReq_blpReqs (s : State) (r : Nat) (f : Request → Request) : (s.updReq r f).blpReqs = s.blpReqs := rfl
@[simp] theorem State.updReq_blpGot (s : State) (r : Nat) (f : Request → Request) : (s.updReq r f).blpGot = s.blpGot := rfl
@[simp] theorem State.updReq_blpWait (s : State) (r : Nat) (f : Request → Request) : (s.updReq r f).blpWait = s.blpWait := rfl
@[simp] theorem State.updReq_peerUp (s : State) (r : Nat) (f : Request → Request) : (s.updReq r f).peerUp = s.peerUp := rfl
@[simp] theorem State.updReq_guests (s : State) (r : Nat) (f : Request → Request) : (s.updReq r f).guests = s.guests := rfl
@[simp] theorem State.updReq_blpRoute (s : State) (r : Nat) (f : Request → Request) : (s.updReq r f).blpRoute = s.blpRoute := rfl
@[simp] theorem State.updReq_links (s : State) (r : Nat) (f : Request → Request) : (s.updReq r f).links = s.links := rfl
@[simp] theorem State.updReq_tileLanes (s : State) (r : Nat) (f : Request → Request) : (s.updReq r f).tileLanes = s.tileLanes := rfl
@[simp] theorem State.updReq_laserIn (s : State) (r : Nat) (f : Request → Request) : (s.updReq r f).laserIn = s.laserIn := rfl
@[simp] theorem State.updReq_laserLow (s : State) (r : Nat) (f : Request → Request) : (s.updReq r f).laserLow = s.laserLow := rfl
@[simp] theorem State.updReq_counters (s : State) (r : Nat) (f : Request → Request) : (s.updReq r f).counters = s.counters := rfl
@[simp] theorem State.updReq_freeCount (s : State) (r : Nat) (f : Request → Request) : (s.updReq r f).freeCount = s.freeCount := rfl
@[simp] theorem State.updReq_outs (s : State) (r : Nat) (f : Request → Request) : (s.updReq r f).outs = s.outs := rfl
@[simp] theorem State.updReq_pending (s : State) (r : Nat) (f : Request → Request) : (s.updReq r f).pending = s.pending := rfl

@[simp] theorem State.updThread_now (s : State) (t : Nat) (f : Thread → Thread) : (s.updThread t f).now = s.now := rfl
@[simp] theorem State.updThread_cycle (s : State) (t : Nat) (f : Thread → Thread) : (s.updThread t f).cycle = s.cycle := rfl
@[simp] theorem State.updThread_fns (s : State) (t : Nat) (f : Thread → Thread) : (s.updThread t f).fns = s.fns := rfl
@[simp] theorem State.updThread_hostUp (s : State) (t : Nat) (f : Thread → Thread) : (s.updThread t f).hostUp = s.hostUp := rfl
@[simp] theorem State.updThread_votes (s : State) (t : Nat) (f : Thread → Thread) : (s.updThread t f).votes = s.votes := rfl
@[simp] theorem State.updThread_cmds (s : State) (t : Nat) (f : Thread → Thread) : (s.updThread t f).cmds = s.cmds := rfl
@[simp] theorem State.updThread_nextCmd (s : State) (t : Nat) (f : Thread → Thread) : (s.updThread t f).nextCmd = s.nextCmd := rfl
@[simp] theorem State.updThread_boot (s : State) (t : Nat) (f : Thread → Thread) : (s.updThread t f).boot = s.boot := rfl
@[simp] theorem State.updThread_power (s : State) (t : Nat) (f : Thread → Thread) : (s.updThread t f).power = s.power := rfl
@[simp] theorem State.updThread_place (s : State) (t : Nat) (f : Thread → Thread) : (s.updThread t f).place = s.place := rfl
@[simp] theorem State.updThread_tu (s : State) (t : Nat) (f : Thread → Thread) : (s.updThread t f).tu = s.tu := rfl
@[simp] theorem State.updThread_dev (s : State) (t : Nat) (f : Thread → Thread) : (s.updThread t f).dev = s.dev := rfl
@[simp] theorem State.updThread_ports (s : State) (t : Nat) (f : Thread → Thread) : (s.updThread t f).ports = s.ports := rfl
@[simp] theorem State.updThread_mgmts (s : State) (t : Nat) (f : Thread → Thread) : (s.updThread t f).mgmts = s.mgmts := rfl
@[simp] theorem State.updThread_neigh (s : State) (t : Nat) (f : Thread → Thread) : (s.updThread t f).neigh = s.neigh := rfl
@[simp] theorem State.updThread_plans (s : State) (t : Nat) (f : Thread → Thread) : (s.updThread t f).plans = s.plans := rfl
@[simp] theorem State.updThread_fwd (s : State) (t : Nat) (f : Thread → Thread) : (s.updThread t f).fwd = s.fwd := rfl
@[simp] theorem State.updThread_flows (s : State) (t : Nat) (f : Thread → Thread) : (s.updThread t f).flows = s.flows := rfl
@[simp] theorem State.updThread_reqs (s : State) (t : Nat) (f : Thread → Thread) : (s.updThread t f).reqs = s.reqs := rfl
@[simp] theorem State.updThread_nextReq (s : State) (t : Nat) (f : Thread → Thread) : (s.updThread t f).nextReq = s.nextReq := rfl
@[simp] theorem State.updThread_relNo (s : State) (t : Nat) (f : Thread → Thread) : (s.updThread t f).relNo = s.relNo := rfl
@[simp] theorem State.updThread_blocks (s : State) (t : Nat) (f : Thread → Thread) : (s.updThread t f).blocks = s.blocks := rfl
@[simp] theorem State.updThread_banks (s : State) (t : Nat) (f : Thread → Thread) : (s.updThread t f).banks = s.banks := rfl
@[simp] theorem State.updThread_vctx (s : State) (t : Nat) (f : Thread → Thread) : (s.updThread t f).vctx = s.vctx := rfl
@[simp] theorem State.updThread_vseLast (s : State) (t : Nat) (f : Thread → Thread) : (s.updThread t f).vseLast = s.vseLast := rfl
@[simp] theorem State.updThread_models (s : State) (t : Nat) (f : Thread → Thread) : (s.updThread t f).models = s.models := rfl
@[simp] theorem State.updThread_groups (s : State) (t : Nat) (f : Thread → Thread) : (s.updThread t f).groups = s.groups := rfl
@[simp] theorem State.updThread_foldTok (s : State) (t : Nat) (f : Thread → Thread) : (s.updThread t f).foldTok = s.foldTok := rfl
@[simp] theorem State.updThread_foldIn (s : State) (t : Nat) (f : Thread → Thread) : (s.updThread t f).foldIn = s.foldIn := rfl
@[simp] theorem State.updThread_regions (s : State) (t : Nat) (f : Thread → Thread) : (s.updThread t f).regions = s.regions := rfl
@[simp] theorem State.updThread_hbm (s : State) (t : Nat) (f : Thread → Thread) : (s.updThread t f).hbm = s.hbm := rfl
@[simp] theorem State.updThread_poison (s : State) (t : Nat) (f : Thread → Thread) : (s.updThread t f).poison = s.poison := rfl
@[simp] theorem State.updThread_blpReqs (s : State) (t : Nat) (f : Thread → Thread) : (s.updThread t f).blpReqs = s.blpReqs := rfl
@[simp] theorem State.updThread_blpGot (s : State) (t : Nat) (f : Thread → Thread) : (s.updThread t f).blpGot = s.blpGot := rfl
@[simp] theorem State.updThread_blpWait (s : State) (t : Nat) (f : Thread → Thread) : (s.updThread t f).blpWait = s.blpWait := rfl
@[simp] theorem State.updThread_peerUp (s : State) (t : Nat) (f : Thread → Thread) : (s.updThread t f).peerUp = s.peerUp := rfl
@[simp] theorem State.updThread_guests (s : State) (t : Nat) (f : Thread → Thread) : (s.updThread t f).guests = s.guests := rfl
@[simp] theorem State.updThread_blpRoute (s : State) (t : Nat) (f : Thread → Thread) : (s.updThread t f).blpRoute = s.blpRoute := rfl
@[simp] theorem State.updThread_links (s : State) (t : Nat) (f : Thread → Thread) : (s.updThread t f).links = s.links := rfl
@[simp] theorem State.updThread_tileLanes (s : State) (t : Nat) (f : Thread → Thread) : (s.updThread t f).tileLanes = s.tileLanes := rfl
@[simp] theorem State.updThread_laserIn (s : State) (t : Nat) (f : Thread → Thread) : (s.updThread t f).laserIn = s.laserIn := rfl
@[simp] theorem State.updThread_laserLow (s : State) (t : Nat) (f : Thread → Thread) : (s.updThread t f).laserLow = s.laserLow := rfl
@[simp] theorem State.updThread_counters (s : State) (t : Nat) (f : Thread → Thread) : (s.updThread t f).counters = s.counters := rfl
@[simp] theorem State.updThread_freeCount (s : State) (t : Nat) (f : Thread → Thread) : (s.updThread t f).freeCount = s.freeCount := rfl
@[simp] theorem State.updThread_outs (s : State) (t : Nat) (f : Thread → Thread) : (s.updThread t f).outs = s.outs := rfl
@[simp] theorem State.updThread_pending (s : State) (t : Nat) (f : Thread → Thread) : (s.updThread t f).pending = s.pending := rfl

@[simp] theorem State.updGroup_now (s : State) (n : Nat) (f : Group → Group) : (s.updGroup n f).now = s.now := rfl
@[simp] theorem State.updGroup_cycle (s : State) (n : Nat) (f : Group → Group) : (s.updGroup n f).cycle = s.cycle := rfl
@[simp] theorem State.updGroup_fns (s : State) (n : Nat) (f : Group → Group) : (s.updGroup n f).fns = s.fns := rfl
@[simp] theorem State.updGroup_hostUp (s : State) (n : Nat) (f : Group → Group) : (s.updGroup n f).hostUp = s.hostUp := rfl
@[simp] theorem State.updGroup_votes (s : State) (n : Nat) (f : Group → Group) : (s.updGroup n f).votes = s.votes := rfl
@[simp] theorem State.updGroup_cmds (s : State) (n : Nat) (f : Group → Group) : (s.updGroup n f).cmds = s.cmds := rfl
@[simp] theorem State.updGroup_nextCmd (s : State) (n : Nat) (f : Group → Group) : (s.updGroup n f).nextCmd = s.nextCmd := rfl
@[simp] theorem State.updGroup_boot (s : State) (n : Nat) (f : Group → Group) : (s.updGroup n f).boot = s.boot := rfl
@[simp] theorem State.updGroup_power (s : State) (n : Nat) (f : Group → Group) : (s.updGroup n f).power = s.power := rfl
@[simp] theorem State.updGroup_place (s : State) (n : Nat) (f : Group → Group) : (s.updGroup n f).place = s.place := rfl
@[simp] theorem State.updGroup_tu (s : State) (n : Nat) (f : Group → Group) : (s.updGroup n f).tu = s.tu := rfl
@[simp] theorem State.updGroup_dev (s : State) (n : Nat) (f : Group → Group) : (s.updGroup n f).dev = s.dev := rfl
@[simp] theorem State.updGroup_ports (s : State) (n : Nat) (f : Group → Group) : (s.updGroup n f).ports = s.ports := rfl
@[simp] theorem State.updGroup_mgmts (s : State) (n : Nat) (f : Group → Group) : (s.updGroup n f).mgmts = s.mgmts := rfl
@[simp] theorem State.updGroup_neigh (s : State) (n : Nat) (f : Group → Group) : (s.updGroup n f).neigh = s.neigh := rfl
@[simp] theorem State.updGroup_plans (s : State) (n : Nat) (f : Group → Group) : (s.updGroup n f).plans = s.plans := rfl
@[simp] theorem State.updGroup_fwd (s : State) (n : Nat) (f : Group → Group) : (s.updGroup n f).fwd = s.fwd := rfl
@[simp] theorem State.updGroup_flows (s : State) (n : Nat) (f : Group → Group) : (s.updGroup n f).flows = s.flows := rfl
@[simp] theorem State.updGroup_reqs (s : State) (n : Nat) (f : Group → Group) : (s.updGroup n f).reqs = s.reqs := rfl
@[simp] theorem State.updGroup_nextReq (s : State) (n : Nat) (f : Group → Group) : (s.updGroup n f).nextReq = s.nextReq := rfl
@[simp] theorem State.updGroup_relNo (s : State) (n : Nat) (f : Group → Group) : (s.updGroup n f).relNo = s.relNo := rfl
@[simp] theorem State.updGroup_threads (s : State) (n : Nat) (f : Group → Group) : (s.updGroup n f).threads = s.threads := rfl
@[simp] theorem State.updGroup_blocks (s : State) (n : Nat) (f : Group → Group) : (s.updGroup n f).blocks = s.blocks := rfl
@[simp] theorem State.updGroup_banks (s : State) (n : Nat) (f : Group → Group) : (s.updGroup n f).banks = s.banks := rfl
@[simp] theorem State.updGroup_vctx (s : State) (n : Nat) (f : Group → Group) : (s.updGroup n f).vctx = s.vctx := rfl
@[simp] theorem State.updGroup_vseLast (s : State) (n : Nat) (f : Group → Group) : (s.updGroup n f).vseLast = s.vseLast := rfl
@[simp] theorem State.updGroup_models (s : State) (n : Nat) (f : Group → Group) : (s.updGroup n f).models = s.models := rfl
@[simp] theorem State.updGroup_foldTok (s : State) (n : Nat) (f : Group → Group) : (s.updGroup n f).foldTok = s.foldTok := rfl
@[simp] theorem State.updGroup_foldIn (s : State) (n : Nat) (f : Group → Group) : (s.updGroup n f).foldIn = s.foldIn := rfl
@[simp] theorem State.updGroup_regions (s : State) (n : Nat) (f : Group → Group) : (s.updGroup n f).regions = s.regions := rfl
@[simp] theorem State.updGroup_hbm (s : State) (n : Nat) (f : Group → Group) : (s.updGroup n f).hbm = s.hbm := rfl
@[simp] theorem State.updGroup_poison (s : State) (n : Nat) (f : Group → Group) : (s.updGroup n f).poison = s.poison := rfl
@[simp] theorem State.updGroup_blpReqs (s : State) (n : Nat) (f : Group → Group) : (s.updGroup n f).blpReqs = s.blpReqs := rfl
@[simp] theorem State.updGroup_blpGot (s : State) (n : Nat) (f : Group → Group) : (s.updGroup n f).blpGot = s.blpGot := rfl
@[simp] theorem State.updGroup_blpWait (s : State) (n : Nat) (f : Group → Group) : (s.updGroup n f).blpWait = s.blpWait := rfl
@[simp] theorem State.updGroup_peerUp (s : State) (n : Nat) (f : Group → Group) : (s.updGroup n f).peerUp = s.peerUp := rfl
@[simp] theorem State.updGroup_guests (s : State) (n : Nat) (f : Group → Group) : (s.updGroup n f).guests = s.guests := rfl
@[simp] theorem State.updGroup_blpRoute (s : State) (n : Nat) (f : Group → Group) : (s.updGroup n f).blpRoute = s.blpRoute := rfl
@[simp] theorem State.updGroup_links (s : State) (n : Nat) (f : Group → Group) : (s.updGroup n f).links = s.links := rfl
@[simp] theorem State.updGroup_tileLanes (s : State) (n : Nat) (f : Group → Group) : (s.updGroup n f).tileLanes = s.tileLanes := rfl
@[simp] theorem State.updGroup_laserIn (s : State) (n : Nat) (f : Group → Group) : (s.updGroup n f).laserIn = s.laserIn := rfl
@[simp] theorem State.updGroup_laserLow (s : State) (n : Nat) (f : Group → Group) : (s.updGroup n f).laserLow = s.laserLow := rfl
@[simp] theorem State.updGroup_counters (s : State) (n : Nat) (f : Group → Group) : (s.updGroup n f).counters = s.counters := rfl
@[simp] theorem State.updGroup_freeCount (s : State) (n : Nat) (f : Group → Group) : (s.updGroup n f).freeCount = s.freeCount := rfl
@[simp] theorem State.updGroup_outs (s : State) (n : Nat) (f : Group → Group) : (s.updGroup n f).outs = s.outs := rfl
@[simp] theorem State.updGroup_pending (s : State) (n : Nat) (f : Group → Group) : (s.updGroup n f).pending = s.pending := rfl

@[simp] theorem State.updFlow_now (s : State) (h : Nat) (f : Flow → Flow) : (s.updFlow h f).now = s.now := rfl
@[simp] theorem State.updFlow_cycle (s : State) (h : Nat) (f : Flow → Flow) : (s.updFlow h f).cycle = s.cycle := rfl
@[simp] theorem State.updFlow_fns (s : State) (h : Nat) (f : Flow → Flow) : (s.updFlow h f).fns = s.fns := rfl
@[simp] theorem State.updFlow_hostUp (s : State) (h : Nat) (f : Flow → Flow) : (s.updFlow h f).hostUp = s.hostUp := rfl
@[simp] theorem State.updFlow_votes (s : State) (h : Nat) (f : Flow → Flow) : (s.updFlow h f).votes = s.votes := rfl
@[simp] theorem State.updFlow_cmds (s : State) (h : Nat) (f : Flow → Flow) : (s.updFlow h f).cmds = s.cmds := rfl
@[simp] theorem State.updFlow_nextCmd (s : State) (h : Nat) (f : Flow → Flow) : (s.updFlow h f).nextCmd = s.nextCmd := rfl
@[simp] theorem State.updFlow_boot (s : State) (h : Nat) (f : Flow → Flow) : (s.updFlow h f).boot = s.boot := rfl
@[simp] theorem State.updFlow_power (s : State) (h : Nat) (f : Flow → Flow) : (s.updFlow h f).power = s.power := rfl
@[simp] theorem State.updFlow_place (s : State) (h : Nat) (f : Flow → Flow) : (s.updFlow h f).place = s.place := rfl
@[simp] theorem State.updFlow_tu (s : State) (h : Nat) (f : Flow → Flow) : (s.updFlow h f).tu = s.tu := rfl
@[simp] theorem State.updFlow_dev (s : State) (h : Nat) (f : Flow → Flow) : (s.updFlow h f).dev = s.dev := rfl
@[simp] theorem State.updFlow_ports (s : State) (h : Nat) (f : Flow → Flow) : (s.updFlow h f).ports = s.ports := rfl
@[simp] theorem State.updFlow_mgmts (s : State) (h : Nat) (f : Flow → Flow) : (s.updFlow h f).mgmts = s.mgmts := rfl
@[simp] theorem State.updFlow_neigh (s : State) (h : Nat) (f : Flow → Flow) : (s.updFlow h f).neigh = s.neigh := rfl
@[simp] theorem State.updFlow_plans (s : State) (h : Nat) (f : Flow → Flow) : (s.updFlow h f).plans = s.plans := rfl
@[simp] theorem State.updFlow_fwd (s : State) (h : Nat) (f : Flow → Flow) : (s.updFlow h f).fwd = s.fwd := rfl
@[simp] theorem State.updFlow_reqs (s : State) (h : Nat) (f : Flow → Flow) : (s.updFlow h f).reqs = s.reqs := rfl
@[simp] theorem State.updFlow_nextReq (s : State) (h : Nat) (f : Flow → Flow) : (s.updFlow h f).nextReq = s.nextReq := rfl
@[simp] theorem State.updFlow_relNo (s : State) (h : Nat) (f : Flow → Flow) : (s.updFlow h f).relNo = s.relNo := rfl
@[simp] theorem State.updFlow_threads (s : State) (h : Nat) (f : Flow → Flow) : (s.updFlow h f).threads = s.threads := rfl
@[simp] theorem State.updFlow_blocks (s : State) (h : Nat) (f : Flow → Flow) : (s.updFlow h f).blocks = s.blocks := rfl
@[simp] theorem State.updFlow_banks (s : State) (h : Nat) (f : Flow → Flow) : (s.updFlow h f).banks = s.banks := rfl
@[simp] theorem State.updFlow_vctx (s : State) (h : Nat) (f : Flow → Flow) : (s.updFlow h f).vctx = s.vctx := rfl
@[simp] theorem State.updFlow_vseLast (s : State) (h : Nat) (f : Flow → Flow) : (s.updFlow h f).vseLast = s.vseLast := rfl
@[simp] theorem State.updFlow_models (s : State) (h : Nat) (f : Flow → Flow) : (s.updFlow h f).models = s.models := rfl
@[simp] theorem State.updFlow_groups (s : State) (h : Nat) (f : Flow → Flow) : (s.updFlow h f).groups = s.groups := rfl
@[simp] theorem State.updFlow_foldTok (s : State) (h : Nat) (f : Flow → Flow) : (s.updFlow h f).foldTok = s.foldTok := rfl
@[simp] theorem State.updFlow_foldIn (s : State) (h : Nat) (f : Flow → Flow) : (s.updFlow h f).foldIn = s.foldIn := rfl
@[simp] theorem State.updFlow_regions (s : State) (h : Nat) (f : Flow → Flow) : (s.updFlow h f).regions = s.regions := rfl
@[simp] theorem State.updFlow_hbm (s : State) (h : Nat) (f : Flow → Flow) : (s.updFlow h f).hbm = s.hbm := rfl
@[simp] theorem State.updFlow_poison (s : State) (h : Nat) (f : Flow → Flow) : (s.updFlow h f).poison = s.poison := rfl
@[simp] theorem State.updFlow_blpReqs (s : State) (h : Nat) (f : Flow → Flow) : (s.updFlow h f).blpReqs = s.blpReqs := rfl
@[simp] theorem State.updFlow_blpGot (s : State) (h : Nat) (f : Flow → Flow) : (s.updFlow h f).blpGot = s.blpGot := rfl
@[simp] theorem State.updFlow_blpWait (s : State) (h : Nat) (f : Flow → Flow) : (s.updFlow h f).blpWait = s.blpWait := rfl
@[simp] theorem State.updFlow_peerUp (s : State) (h : Nat) (f : Flow → Flow) : (s.updFlow h f).peerUp = s.peerUp := rfl
@[simp] theorem State.updFlow_guests (s : State) (h : Nat) (f : Flow → Flow) : (s.updFlow h f).guests = s.guests := rfl
@[simp] theorem State.updFlow_blpRoute (s : State) (h : Nat) (f : Flow → Flow) : (s.updFlow h f).blpRoute = s.blpRoute := rfl
@[simp] theorem State.updFlow_links (s : State) (h : Nat) (f : Flow → Flow) : (s.updFlow h f).links = s.links := rfl
@[simp] theorem State.updFlow_tileLanes (s : State) (h : Nat) (f : Flow → Flow) : (s.updFlow h f).tileLanes = s.tileLanes := rfl
@[simp] theorem State.updFlow_laserIn (s : State) (h : Nat) (f : Flow → Flow) : (s.updFlow h f).laserIn = s.laserIn := rfl
@[simp] theorem State.updFlow_laserLow (s : State) (h : Nat) (f : Flow → Flow) : (s.updFlow h f).laserLow = s.laserLow := rfl
@[simp] theorem State.updFlow_counters (s : State) (h : Nat) (f : Flow → Flow) : (s.updFlow h f).counters = s.counters := rfl
@[simp] theorem State.updFlow_freeCount (s : State) (h : Nat) (f : Flow → Flow) : (s.updFlow h f).freeCount = s.freeCount := rfl
@[simp] theorem State.updFlow_outs (s : State) (h : Nat) (f : Flow → Flow) : (s.updFlow h f).outs = s.outs := rfl
@[simp] theorem State.updFlow_pending (s : State) (h : Nat) (f : Flow → Flow) : (s.updFlow h f).pending = s.pending := rfl

@[simp] theorem State.count_now (s : State) (c : CName) (o n i : Nat) : (s.count c o n i).now = s.now := rfl
@[simp] theorem State.count_cycle (s : State) (c : CName) (o n i : Nat) : (s.count c o n i).cycle = s.cycle := rfl
@[simp] theorem State.count_fns (s : State) (c : CName) (o n i : Nat) : (s.count c o n i).fns = s.fns := rfl
@[simp] theorem State.count_hostUp (s : State) (c : CName) (o n i : Nat) : (s.count c o n i).hostUp = s.hostUp := rfl
@[simp] theorem State.count_votes (s : State) (c : CName) (o n i : Nat) : (s.count c o n i).votes = s.votes := rfl
@[simp] theorem State.count_cmds (s : State) (c : CName) (o n i : Nat) : (s.count c o n i).cmds = s.cmds := rfl
@[simp] theorem State.count_nextCmd (s : State) (c : CName) (o n i : Nat) : (s.count c o n i).nextCmd = s.nextCmd := rfl
@[simp] theorem State.count_boot (s : State) (c : CName) (o n i : Nat) : (s.count c o n i).boot = s.boot := rfl
@[simp] theorem State.count_power (s : State) (c : CName) (o n i : Nat) : (s.count c o n i).power = s.power := rfl
@[simp] theorem State.count_place (s : State) (c : CName) (o n i : Nat) : (s.count c o n i).place = s.place := rfl
@[simp] theorem State.count_tu (s : State) (c : CName) (o n i : Nat) : (s.count c o n i).tu = s.tu := rfl
@[simp] theorem State.count_dev (s : State) (c : CName) (o n i : Nat) : (s.count c o n i).dev = s.dev := rfl
@[simp] theorem State.count_ports (s : State) (c : CName) (o n i : Nat) : (s.count c o n i).ports = s.ports := rfl
@[simp] theorem State.count_mgmts (s : State) (c : CName) (o n i : Nat) : (s.count c o n i).mgmts = s.mgmts := rfl
@[simp] theorem State.count_neigh (s : State) (c : CName) (o n i : Nat) : (s.count c o n i).neigh = s.neigh := rfl
@[simp] theorem State.count_plans (s : State) (c : CName) (o n i : Nat) : (s.count c o n i).plans = s.plans := rfl
@[simp] theorem State.count_fwd (s : State) (c : CName) (o n i : Nat) : (s.count c o n i).fwd = s.fwd := rfl
@[simp] theorem State.count_flows (s : State) (c : CName) (o n i : Nat) : (s.count c o n i).flows = s.flows := rfl
@[simp] theorem State.count_reqs (s : State) (c : CName) (o n i : Nat) : (s.count c o n i).reqs = s.reqs := rfl
@[simp] theorem State.count_nextReq (s : State) (c : CName) (o n i : Nat) : (s.count c o n i).nextReq = s.nextReq := rfl
@[simp] theorem State.count_relNo (s : State) (c : CName) (o n i : Nat) : (s.count c o n i).relNo = s.relNo := rfl
@[simp] theorem State.count_threads (s : State) (c : CName) (o n i : Nat) : (s.count c o n i).threads = s.threads := rfl
@[simp] theorem State.count_blocks (s : State) (c : CName) (o n i : Nat) : (s.count c o n i).blocks = s.blocks := rfl
@[simp] theorem State.count_banks (s : State) (c : CName) (o n i : Nat) : (s.count c o n i).banks = s.banks := rfl
@[simp] theorem State.count_vctx (s : State) (c : CName) (o n i : Nat) : (s.count c o n i).vctx = s.vctx := rfl
@[simp] theorem State.count_vseLast (s : State) (c : CName) (o n i : Nat) : (s.count c o n i).vseLast = s.vseLast := rfl
@[simp] theorem State.count_models (s : State) (c : CName) (o n i : Nat) : (s.count c o n i).models = s.models := rfl
@[simp] theorem State.count_groups (s : State) (c : CName) (o n i : Nat) : (s.count c o n i).groups = s.groups := rfl
@[simp] theorem State.count_foldTok (s : State) (c : CName) (o n i : Nat) : (s.count c o n i).foldTok = s.foldTok := rfl
@[simp] theorem State.count_foldIn (s : State) (c : CName) (o n i : Nat) : (s.count c o n i).foldIn = s.foldIn := rfl
@[simp] theorem State.count_regions (s : State) (c : CName) (o n i : Nat) : (s.count c o n i).regions = s.regions := rfl
@[simp] theorem State.count_hbm (s : State) (c : CName) (o n i : Nat) : (s.count c o n i).hbm = s.hbm := rfl
@[simp] theorem State.count_poison (s : State) (c : CName) (o n i : Nat) : (s.count c o n i).poison = s.poison := rfl
@[simp] theorem State.count_blpReqs (s : State) (c : CName) (o n i : Nat) : (s.count c o n i).blpReqs = s.blpReqs := rfl
@[simp] theorem State.count_blpGot (s : State) (c : CName) (o n i : Nat) : (s.count c o n i).blpGot = s.blpGot := rfl
@[simp] theorem State.count_blpWait (s : State) (c : CName) (o n i : Nat) : (s.count c o n i).blpWait = s.blpWait := rfl
@[simp] theorem State.count_peerUp (s : State) (c : CName) (o n i : Nat) : (s.count c o n i).peerUp = s.peerUp := rfl
@[simp] theorem State.count_guests (s : State) (c : CName) (o n i : Nat) : (s.count c o n i).guests = s.guests := rfl
@[simp] theorem State.count_blpRoute (s : State) (c : CName) (o n i : Nat) : (s.count c o n i).blpRoute = s.blpRoute := rfl
@[simp] theorem State.count_links (s : State) (c : CName) (o n i : Nat) : (s.count c o n i).links = s.links := rfl
@[simp] theorem State.count_tileLanes (s : State) (c : CName) (o n i : Nat) : (s.count c o n i).tileLanes = s.tileLanes := rfl
@[simp] theorem State.count_laserIn (s : State) (c : CName) (o n i : Nat) : (s.count c o n i).laserIn = s.laserIn := rfl
@[simp] theorem State.count_laserLow (s : State) (c : CName) (o n i : Nat) : (s.count c o n i).laserLow = s.laserLow := rfl
@[simp] theorem State.count_freeCount (s : State) (c : CName) (o n i : Nat) : (s.count c o n i).freeCount = s.freeCount := rfl
@[simp] theorem State.count_outs (s : State) (c : CName) (o n i : Nat) : (s.count c o n i).outs = s.outs := rfl
@[simp] theorem State.count_pending (s : State) (c : CName) (o n i : Nat) : (s.count c o n i).pending = s.pending := rfl

@[simp] theorem State.emit_now (s : State) (o : Out) : (s.emit o).now = s.now := rfl
@[simp] theorem State.emit_cycle (s : State) (o : Out) : (s.emit o).cycle = s.cycle := rfl
@[simp] theorem State.emit_fns (s : State) (o : Out) : (s.emit o).fns = s.fns := rfl
@[simp] theorem State.emit_hostUp (s : State) (o : Out) : (s.emit o).hostUp = s.hostUp := rfl
@[simp] theorem State.emit_votes (s : State) (o : Out) : (s.emit o).votes = s.votes := rfl
@[simp] theorem State.emit_cmds (s : State) (o : Out) : (s.emit o).cmds = s.cmds := rfl
@[simp] theorem State.emit_nextCmd (s : State) (o : Out) : (s.emit o).nextCmd = s.nextCmd := rfl
@[simp] theorem State.emit_boot (s : State) (o : Out) : (s.emit o).boot = s.boot := rfl
@[simp] theorem State.emit_power (s : State) (o : Out) : (s.emit o).power = s.power := rfl
@[simp] theorem State.emit_place (s : State) (o : Out) : (s.emit o).place = s.place := rfl
@[simp] theorem State.emit_tu (s : State) (o : Out) : (s.emit o).tu = s.tu := rfl
@[simp] theorem State.emit_dev (s : State) (o : Out) : (s.emit o).dev = s.dev := rfl
@[simp] theorem State.emit_ports (s : State) (o : Out) : (s.emit o).ports = s.ports := rfl
@[simp] theorem State.emit_mgmts (s : State) (o : Out) : (s.emit o).mgmts = s.mgmts := rfl
@[simp] theorem State.emit_neigh (s : State) (o : Out) : (s.emit o).neigh = s.neigh := rfl
@[simp] theorem State.emit_plans (s : State) (o : Out) : (s.emit o).plans = s.plans := rfl
@[simp] theorem State.emit_fwd (s : State) (o : Out) : (s.emit o).fwd = s.fwd := rfl
@[simp] theorem State.emit_flows (s : State) (o : Out) : (s.emit o).flows = s.flows := rfl
@[simp] theorem State.emit_reqs (s : State) (o : Out) : (s.emit o).reqs = s.reqs := rfl
@[simp] theorem State.emit_nextReq (s : State) (o : Out) : (s.emit o).nextReq = s.nextReq := rfl
@[simp] theorem State.emit_relNo (s : State) (o : Out) : (s.emit o).relNo = s.relNo := rfl
@[simp] theorem State.emit_threads (s : State) (o : Out) : (s.emit o).threads = s.threads := rfl
@[simp] theorem State.emit_blocks (s : State) (o : Out) : (s.emit o).blocks = s.blocks := rfl
@[simp] theorem State.emit_banks (s : State) (o : Out) : (s.emit o).banks = s.banks := rfl
@[simp] theorem State.emit_vctx (s : State) (o : Out) : (s.emit o).vctx = s.vctx := rfl
@[simp] theorem State.emit_vseLast (s : State) (o : Out) : (s.emit o).vseLast = s.vseLast := rfl
@[simp] theorem State.emit_models (s : State) (o : Out) : (s.emit o).models = s.models := rfl
@[simp] theorem State.emit_groups (s : State) (o : Out) : (s.emit o).groups = s.groups := rfl
@[simp] theorem State.emit_foldTok (s : State) (o : Out) : (s.emit o).foldTok = s.foldTok := rfl
@[simp] theorem State.emit_foldIn (s : State) (o : Out) : (s.emit o).foldIn = s.foldIn := rfl
@[simp] theorem State.emit_regions (s : State) (o : Out) : (s.emit o).regions = s.regions := rfl
@[simp] theorem State.emit_hbm (s : State) (o : Out) : (s.emit o).hbm = s.hbm := rfl
@[simp] theorem State.emit_poison (s : State) (o : Out) : (s.emit o).poison = s.poison := rfl
@[simp] theorem State.emit_blpReqs (s : State) (o : Out) : (s.emit o).blpReqs = s.blpReqs := rfl
@[simp] theorem State.emit_blpGot (s : State) (o : Out) : (s.emit o).blpGot = s.blpGot := rfl
@[simp] theorem State.emit_blpWait (s : State) (o : Out) : (s.emit o).blpWait = s.blpWait := rfl
@[simp] theorem State.emit_peerUp (s : State) (o : Out) : (s.emit o).peerUp = s.peerUp := rfl
@[simp] theorem State.emit_guests (s : State) (o : Out) : (s.emit o).guests = s.guests := rfl
@[simp] theorem State.emit_blpRoute (s : State) (o : Out) : (s.emit o).blpRoute = s.blpRoute := rfl
@[simp] theorem State.emit_links (s : State) (o : Out) : (s.emit o).links = s.links := rfl
@[simp] theorem State.emit_tileLanes (s : State) (o : Out) : (s.emit o).tileLanes = s.tileLanes := rfl
@[simp] theorem State.emit_laserIn (s : State) (o : Out) : (s.emit o).laserIn = s.laserIn := rfl
@[simp] theorem State.emit_laserLow (s : State) (o : Out) : (s.emit o).laserLow = s.laserLow := rfl
@[simp] theorem State.emit_counters (s : State) (o : Out) : (s.emit o).counters = s.counters := rfl
@[simp] theorem State.emit_freeCount (s : State) (o : Out) : (s.emit o).freeCount = s.freeCount := rfl
@[simp] theorem State.emit_pending (s : State) (o : Out) : (s.emit o).pending = s.pending := rfl

@[simp] theorem State.updTu_now (s : State) (f : Tu → Tu) : (s.updTu f).now = s.now := rfl
@[simp] theorem State.updTu_cycle (s : State) (f : Tu → Tu) : (s.updTu f).cycle = s.cycle := rfl
@[simp] theorem State.updTu_fns (s : State) (f : Tu → Tu) : (s.updTu f).fns = s.fns := rfl
@[simp] theorem State.updTu_hostUp (s : State) (f : Tu → Tu) : (s.updTu f).hostUp = s.hostUp := rfl
@[simp] theorem State.updTu_votes (s : State) (f : Tu → Tu) : (s.updTu f).votes = s.votes := rfl
@[simp] theorem State.updTu_cmds (s : State) (f : Tu → Tu) : (s.updTu f).cmds = s.cmds := rfl
@[simp] theorem State.updTu_nextCmd (s : State) (f : Tu → Tu) : (s.updTu f).nextCmd = s.nextCmd := rfl
@[simp] theorem State.updTu_boot (s : State) (f : Tu → Tu) : (s.updTu f).boot = s.boot := rfl
@[simp] theorem State.updTu_power (s : State) (f : Tu → Tu) : (s.updTu f).power = s.power := rfl
@[simp] theorem State.updTu_place (s : State) (f : Tu → Tu) : (s.updTu f).place = s.place := rfl
@[simp] theorem State.updTu_dev (s : State) (f : Tu → Tu) : (s.updTu f).dev = s.dev := rfl
@[simp] theorem State.updTu_ports (s : State) (f : Tu → Tu) : (s.updTu f).ports = s.ports := rfl
@[simp] theorem State.updTu_mgmts (s : State) (f : Tu → Tu) : (s.updTu f).mgmts = s.mgmts := rfl
@[simp] theorem State.updTu_neigh (s : State) (f : Tu → Tu) : (s.updTu f).neigh = s.neigh := rfl
@[simp] theorem State.updTu_plans (s : State) (f : Tu → Tu) : (s.updTu f).plans = s.plans := rfl
@[simp] theorem State.updTu_fwd (s : State) (f : Tu → Tu) : (s.updTu f).fwd = s.fwd := rfl
@[simp] theorem State.updTu_flows (s : State) (f : Tu → Tu) : (s.updTu f).flows = s.flows := rfl
@[simp] theorem State.updTu_reqs (s : State) (f : Tu → Tu) : (s.updTu f).reqs = s.reqs := rfl
@[simp] theorem State.updTu_nextReq (s : State) (f : Tu → Tu) : (s.updTu f).nextReq = s.nextReq := rfl
@[simp] theorem State.updTu_relNo (s : State) (f : Tu → Tu) : (s.updTu f).relNo = s.relNo := rfl
@[simp] theorem State.updTu_threads (s : State) (f : Tu → Tu) : (s.updTu f).threads = s.threads := rfl
@[simp] theorem State.updTu_blocks (s : State) (f : Tu → Tu) : (s.updTu f).blocks = s.blocks := rfl
@[simp] theorem State.updTu_banks (s : State) (f : Tu → Tu) : (s.updTu f).banks = s.banks := rfl
@[simp] theorem State.updTu_vctx (s : State) (f : Tu → Tu) : (s.updTu f).vctx = s.vctx := rfl
@[simp] theorem State.updTu_vseLast (s : State) (f : Tu → Tu) : (s.updTu f).vseLast = s.vseLast := rfl
@[simp] theorem State.updTu_models (s : State) (f : Tu → Tu) : (s.updTu f).models = s.models := rfl
@[simp] theorem State.updTu_groups (s : State) (f : Tu → Tu) : (s.updTu f).groups = s.groups := rfl
@[simp] theorem State.updTu_foldTok (s : State) (f : Tu → Tu) : (s.updTu f).foldTok = s.foldTok := rfl
@[simp] theorem State.updTu_foldIn (s : State) (f : Tu → Tu) : (s.updTu f).foldIn = s.foldIn := rfl
@[simp] theorem State.updTu_regions (s : State) (f : Tu → Tu) : (s.updTu f).regions = s.regions := rfl
@[simp] theorem State.updTu_hbm (s : State) (f : Tu → Tu) : (s.updTu f).hbm = s.hbm := rfl
@[simp] theorem State.updTu_poison (s : State) (f : Tu → Tu) : (s.updTu f).poison = s.poison := rfl
@[simp] theorem State.updTu_blpReqs (s : State) (f : Tu → Tu) : (s.updTu f).blpReqs = s.blpReqs := rfl
@[simp] theorem State.updTu_blpGot (s : State) (f : Tu → Tu) : (s.updTu f).blpGot = s.blpGot := rfl
@[simp] theorem State.updTu_blpWait (s : State) (f : Tu → Tu) : (s.updTu f).blpWait = s.blpWait := rfl
@[simp] theorem State.updTu_peerUp (s : State) (f : Tu → Tu) : (s.updTu f).peerUp = s.peerUp := rfl
@[simp] theorem State.updTu_guests (s : State) (f : Tu → Tu) : (s.updTu f).guests = s.guests := rfl
@[simp] theorem State.updTu_blpRoute (s : State) (f : Tu → Tu) : (s.updTu f).blpRoute = s.blpRoute := rfl
@[simp] theorem State.updTu_links (s : State) (f : Tu → Tu) : (s.updTu f).links = s.links := rfl
@[simp] theorem State.updTu_tileLanes (s : State) (f : Tu → Tu) : (s.updTu f).tileLanes = s.tileLanes := rfl
@[simp] theorem State.updTu_laserIn (s : State) (f : Tu → Tu) : (s.updTu f).laserIn = s.laserIn := rfl
@[simp] theorem State.updTu_laserLow (s : State) (f : Tu → Tu) : (s.updTu f).laserLow = s.laserLow := rfl
@[simp] theorem State.updTu_counters (s : State) (f : Tu → Tu) : (s.updTu f).counters = s.counters := rfl
@[simp] theorem State.updTu_freeCount (s : State) (f : Tu → Tu) : (s.updTu f).freeCount = s.freeCount := rfl
@[simp] theorem State.updTu_outs (s : State) (f : Tu → Tu) : (s.updTu f).outs = s.outs := rfl
@[simp] theorem State.updTu_pending (s : State) (f : Tu → Tu) : (s.updTu f).pending = s.pending := rfl

@[simp] theorem State.ran_now (s : State) (c : Nat) (x : VCtx) : (s.ran c x).now = s.now := rfl
@[simp] theorem State.ran_cycle (s : State) (c : Nat) (x : VCtx) : (s.ran c x).cycle = s.cycle := rfl
@[simp] theorem State.ran_fns (s : State) (c : Nat) (x : VCtx) : (s.ran c x).fns = s.fns := rfl
@[simp] theorem State.ran_hostUp (s : State) (c : Nat) (x : VCtx) : (s.ran c x).hostUp = s.hostUp := rfl
@[simp] theorem State.ran_votes (s : State) (c : Nat) (x : VCtx) : (s.ran c x).votes = s.votes := rfl
@[simp] theorem State.ran_cmds (s : State) (c : Nat) (x : VCtx) : (s.ran c x).cmds = s.cmds := rfl
@[simp] theorem State.ran_nextCmd (s : State) (c : Nat) (x : VCtx) : (s.ran c x).nextCmd = s.nextCmd := rfl
@[simp] theorem State.ran_boot (s : State) (c : Nat) (x : VCtx) : (s.ran c x).boot = s.boot := rfl
@[simp] theorem State.ran_power (s : State) (c : Nat) (x : VCtx) : (s.ran c x).power = s.power := rfl
@[simp] theorem State.ran_place (s : State) (c : Nat) (x : VCtx) : (s.ran c x).place = s.place := rfl
@[simp] theorem State.ran_tu (s : State) (c : Nat) (x : VCtx) : (s.ran c x).tu = s.tu := rfl
@[simp] theorem State.ran_dev (s : State) (c : Nat) (x : VCtx) : (s.ran c x).dev = s.dev := rfl
@[simp] theorem State.ran_ports (s : State) (c : Nat) (x : VCtx) : (s.ran c x).ports = s.ports := rfl
@[simp] theorem State.ran_mgmts (s : State) (c : Nat) (x : VCtx) : (s.ran c x).mgmts = s.mgmts := rfl
@[simp] theorem State.ran_neigh (s : State) (c : Nat) (x : VCtx) : (s.ran c x).neigh = s.neigh := rfl
@[simp] theorem State.ran_plans (s : State) (c : Nat) (x : VCtx) : (s.ran c x).plans = s.plans := rfl
@[simp] theorem State.ran_fwd (s : State) (c : Nat) (x : VCtx) : (s.ran c x).fwd = s.fwd := rfl
@[simp] theorem State.ran_flows (s : State) (c : Nat) (x : VCtx) : (s.ran c x).flows = s.flows := rfl
@[simp] theorem State.ran_reqs (s : State) (c : Nat) (x : VCtx) : (s.ran c x).reqs = s.reqs := rfl
@[simp] theorem State.ran_nextReq (s : State) (c : Nat) (x : VCtx) : (s.ran c x).nextReq = s.nextReq := rfl
@[simp] theorem State.ran_relNo (s : State) (c : Nat) (x : VCtx) : (s.ran c x).relNo = s.relNo := rfl
@[simp] theorem State.ran_threads (s : State) (c : Nat) (x : VCtx) : (s.ran c x).threads = s.threads := rfl
@[simp] theorem State.ran_blocks (s : State) (c : Nat) (x : VCtx) : (s.ran c x).blocks = s.blocks := rfl
@[simp] theorem State.ran_banks (s : State) (c : Nat) (x : VCtx) : (s.ran c x).banks = s.banks := rfl
@[simp] theorem State.ran_models (s : State) (c : Nat) (x : VCtx) : (s.ran c x).models = s.models := rfl
@[simp] theorem State.ran_groups (s : State) (c : Nat) (x : VCtx) : (s.ran c x).groups = s.groups := rfl
@[simp] theorem State.ran_foldTok (s : State) (c : Nat) (x : VCtx) : (s.ran c x).foldTok = s.foldTok := rfl
@[simp] theorem State.ran_foldIn (s : State) (c : Nat) (x : VCtx) : (s.ran c x).foldIn = s.foldIn := rfl
@[simp] theorem State.ran_regions (s : State) (c : Nat) (x : VCtx) : (s.ran c x).regions = s.regions := rfl
@[simp] theorem State.ran_hbm (s : State) (c : Nat) (x : VCtx) : (s.ran c x).hbm = s.hbm := rfl
@[simp] theorem State.ran_poison (s : State) (c : Nat) (x : VCtx) : (s.ran c x).poison = s.poison := rfl
@[simp] theorem State.ran_blpReqs (s : State) (c : Nat) (x : VCtx) : (s.ran c x).blpReqs = s.blpReqs := rfl
@[simp] theorem State.ran_blpGot (s : State) (c : Nat) (x : VCtx) : (s.ran c x).blpGot = s.blpGot := rfl
@[simp] theorem State.ran_blpWait (s : State) (c : Nat) (x : VCtx) : (s.ran c x).blpWait = s.blpWait := rfl
@[simp] theorem State.ran_peerUp (s : State) (c : Nat) (x : VCtx) : (s.ran c x).peerUp = s.peerUp := rfl
@[simp] theorem State.ran_guests (s : State) (c : Nat) (x : VCtx) : (s.ran c x).guests = s.guests := rfl
@[simp] theorem State.ran_blpRoute (s : State) (c : Nat) (x : VCtx) : (s.ran c x).blpRoute = s.blpRoute := rfl
@[simp] theorem State.ran_links (s : State) (c : Nat) (x : VCtx) : (s.ran c x).links = s.links := rfl
@[simp] theorem State.ran_tileLanes (s : State) (c : Nat) (x : VCtx) : (s.ran c x).tileLanes = s.tileLanes := rfl
@[simp] theorem State.ran_laserIn (s : State) (c : Nat) (x : VCtx) : (s.ran c x).laserIn = s.laserIn := rfl
@[simp] theorem State.ran_laserLow (s : State) (c : Nat) (x : VCtx) : (s.ran c x).laserLow = s.laserLow := rfl
@[simp] theorem State.ran_counters (s : State) (c : Nat) (x : VCtx) : (s.ran c x).counters = s.counters := rfl
@[simp] theorem State.ran_freeCount (s : State) (c : Nat) (x : VCtx) : (s.ran c x).freeCount = s.freeCount := rfl
@[simp] theorem State.ran_outs (s : State) (c : Nat) (x : VCtx) : (s.ran c x).outs = s.outs := rfl
@[simp] theorem State.ran_pending (s : State) (c : Nat) (x : VCtx) : (s.ran c x).pending = s.pending := rfl

@[simp] theorem State.starting_now (s : State) (n : Nat) (o : ObjRef) : (s.starting n o).now = s.now := rfl
@[simp] theorem State.starting_cycle (s : State) (n : Nat) (o : ObjRef) : (s.starting n o).cycle = s.cycle := rfl
@[simp] theorem State.starting_fns (s : State) (n : Nat) (o : ObjRef) : (s.starting n o).fns = s.fns := rfl
@[simp] theorem State.starting_hostUp (s : State) (n : Nat) (o : ObjRef) : (s.starting n o).hostUp = s.hostUp := rfl
@[simp] theorem State.starting_votes (s : State) (n : Nat) (o : ObjRef) : (s.starting n o).votes = s.votes := rfl
@[simp] theorem State.starting_nextCmd (s : State) (n : Nat) (o : ObjRef) : (s.starting n o).nextCmd = s.nextCmd := rfl
@[simp] theorem State.starting_boot (s : State) (n : Nat) (o : ObjRef) : (s.starting n o).boot = s.boot := rfl
@[simp] theorem State.starting_power (s : State) (n : Nat) (o : ObjRef) : (s.starting n o).power = s.power := rfl
@[simp] theorem State.starting_place (s : State) (n : Nat) (o : ObjRef) : (s.starting n o).place = s.place := rfl
@[simp] theorem State.starting_tu (s : State) (n : Nat) (o : ObjRef) : (s.starting n o).tu = s.tu := rfl
@[simp] theorem State.starting_dev (s : State) (n : Nat) (o : ObjRef) : (s.starting n o).dev = s.dev := rfl
@[simp] theorem State.starting_ports (s : State) (n : Nat) (o : ObjRef) : (s.starting n o).ports = s.ports := rfl
@[simp] theorem State.starting_mgmts (s : State) (n : Nat) (o : ObjRef) : (s.starting n o).mgmts = s.mgmts := rfl
@[simp] theorem State.starting_neigh (s : State) (n : Nat) (o : ObjRef) : (s.starting n o).neigh = s.neigh := rfl
@[simp] theorem State.starting_plans (s : State) (n : Nat) (o : ObjRef) : (s.starting n o).plans = s.plans := rfl
@[simp] theorem State.starting_fwd (s : State) (n : Nat) (o : ObjRef) : (s.starting n o).fwd = s.fwd := rfl
@[simp] theorem State.starting_flows (s : State) (n : Nat) (o : ObjRef) : (s.starting n o).flows = s.flows := rfl
@[simp] theorem State.starting_reqs (s : State) (n : Nat) (o : ObjRef) : (s.starting n o).reqs = s.reqs := rfl
@[simp] theorem State.starting_nextReq (s : State) (n : Nat) (o : ObjRef) : (s.starting n o).nextReq = s.nextReq := rfl
@[simp] theorem State.starting_relNo (s : State) (n : Nat) (o : ObjRef) : (s.starting n o).relNo = s.relNo := rfl
@[simp] theorem State.starting_threads (s : State) (n : Nat) (o : ObjRef) : (s.starting n o).threads = s.threads := rfl
@[simp] theorem State.starting_blocks (s : State) (n : Nat) (o : ObjRef) : (s.starting n o).blocks = s.blocks := rfl
@[simp] theorem State.starting_banks (s : State) (n : Nat) (o : ObjRef) : (s.starting n o).banks = s.banks := rfl
@[simp] theorem State.starting_vctx (s : State) (n : Nat) (o : ObjRef) : (s.starting n o).vctx = s.vctx := rfl
@[simp] theorem State.starting_vseLast (s : State) (n : Nat) (o : ObjRef) : (s.starting n o).vseLast = s.vseLast := rfl
@[simp] theorem State.starting_models (s : State) (n : Nat) (o : ObjRef) : (s.starting n o).models = s.models := rfl
@[simp] theorem State.starting_groups (s : State) (n : Nat) (o : ObjRef) : (s.starting n o).groups = s.groups := rfl
@[simp] theorem State.starting_foldTok (s : State) (n : Nat) (o : ObjRef) : (s.starting n o).foldTok = s.foldTok := rfl
@[simp] theorem State.starting_foldIn (s : State) (n : Nat) (o : ObjRef) : (s.starting n o).foldIn = s.foldIn := rfl
@[simp] theorem State.starting_regions (s : State) (n : Nat) (o : ObjRef) : (s.starting n o).regions = s.regions := rfl
@[simp] theorem State.starting_hbm (s : State) (n : Nat) (o : ObjRef) : (s.starting n o).hbm = s.hbm := rfl
@[simp] theorem State.starting_poison (s : State) (n : Nat) (o : ObjRef) : (s.starting n o).poison = s.poison := rfl
@[simp] theorem State.starting_blpReqs (s : State) (n : Nat) (o : ObjRef) : (s.starting n o).blpReqs = s.blpReqs := rfl
@[simp] theorem State.starting_blpGot (s : State) (n : Nat) (o : ObjRef) : (s.starting n o).blpGot = s.blpGot := rfl
@[simp] theorem State.starting_blpWait (s : State) (n : Nat) (o : ObjRef) : (s.starting n o).blpWait = s.blpWait := rfl
@[simp] theorem State.starting_peerUp (s : State) (n : Nat) (o : ObjRef) : (s.starting n o).peerUp = s.peerUp := rfl
@[simp] theorem State.starting_guests (s : State) (n : Nat) (o : ObjRef) : (s.starting n o).guests = s.guests := rfl
@[simp] theorem State.starting_blpRoute (s : State) (n : Nat) (o : ObjRef) : (s.starting n o).blpRoute = s.blpRoute := rfl
@[simp] theorem State.starting_links (s : State) (n : Nat) (o : ObjRef) : (s.starting n o).links = s.links := rfl
@[simp] theorem State.starting_tileLanes (s : State) (n : Nat) (o : ObjRef) : (s.starting n o).tileLanes = s.tileLanes := rfl
@[simp] theorem State.starting_laserIn (s : State) (n : Nat) (o : ObjRef) : (s.starting n o).laserIn = s.laserIn := rfl
@[simp] theorem State.starting_laserLow (s : State) (n : Nat) (o : ObjRef) : (s.starting n o).laserLow = s.laserLow := rfl
@[simp] theorem State.starting_counters (s : State) (n : Nat) (o : ObjRef) : (s.starting n o).counters = s.counters := rfl
@[simp] theorem State.starting_freeCount (s : State) (n : Nat) (o : ObjRef) : (s.starting n o).freeCount = s.freeCount := rfl
@[simp] theorem State.starting_outs (s : State) (n : Nat) (o : ObjRef) : (s.starting n o).outs = s.outs := rfl
@[simp] theorem State.starting_pending (s : State) (n : Nat) (o : ObjRef) : (s.starting n o).pending = s.pending := rfl

end Sys2Proof.Machine
end

