-- ==== Sys2Proof/Laws/Rings.lean ====
section
/-! SUPPORT. What the operations over rings, events and completions may change: each is said once, as the part of the
state they leave. -/

namespace Sys2Proof.Machine

/-- All of a state but its functions and what has left the device. -/
def State.ringless (s : State) : State := { s with fns := [], outs := [] }
/-- All of a state but its functions, what has left the device, and its requests (a host reply that is written ends its
request). -/
def State.drained (s : State) : State := { s with fns := [], outs := [], reqs := [] }
/-- All of a state but its functions, what has left the device, and the event sequence with its coalescing records. -/
def State.eventless (s : State) : State :=
  { s with fns := [], outs := [], place := { s.place with evseq := 0, coal := [] } }
/-- All of a state but its functions, what has left the device, its requests and its commands. -/
def State.hostless (s : State) : State := { s with fns := [], outs := [], reqs := [], cmds := [] }

theorem State.drained_of_ringless {s t : State} (h : t.ringless = s.ringless) : t.drained = s.drained := by
  have := congrArg (fun x : State => ({ x with reqs := [] } : State)) h
  simpa [State.ringless, State.drained] using this
theorem State.eventless_of_ringless {s t : State} (h : t.ringless = s.ringless) : t.eventless = s.eventless := by
  have := congrArg (fun x : State => ({ x with place := { x.place with evseq := 0, coal := [] } } : State)) h
  simpa [State.ringless, State.eventless] using this
theorem State.hostless_of_drained {s t : State} (h : t.drained = s.drained) : t.hostless = s.hostless := by
  have := congrArg (fun x : State => ({ x with cmds := [] } : State)) h
  simpa [State.drained, State.hostless] using this

@[simp] theorem State.updFn_ringless (s : State) (n : Nat) (f : Fn → Fn) : (s.updFn n f).ringless = s.ringless := rfl
@[simp] theorem State.updRing_ringless (s : State) (n r : Nat) (f : Ring → Ring) :
    (s.updRing n r f).ringless = s.ringless := rfl
@[simp] theorem State.emit_ringless (s : State) (o : Out) : (s.emit o).ringless = s.ringless := rfl
@[simp] theorem State.signal_ringless (s : State) (n v : Nat) : (s.signal n v).ringless = s.ringless := by
  unfold State.signal; dsimp only; split <;> simp
@[simp] theorem State.signalRing_ringless (s : State) (n r : Nat) : (s.signalRing n r).ringless = s.ringless := by
  simp [State.signalRing]
@[simp] theorem State.ringWrite_ringless (s : State) (n r : Nat) (d : Bytes) (b : Option Bytes) :
    (s.ringWrite n r d b).ringless = s.ringless := by
  unfold State.ringWrite
  dsimp only
  repeat' split
  all_goals simp

@[simp] theorem drainComps_ringless (n k : Nat) (s : State) : (drainComps n k s).ringless = s.ringless := by
  induction k generalizing s with
  | zero => rfl
  | succ k ih => unfold drainComps; repeat' split
                 all_goals simp [ih]
@[simp] theorem drainEvents_ringless (n k : Nat) (s : State) : (drainEvents n k s).ringless = s.ringless := by
  induction k generalizing s with
  | zero => rfl
  | succ k ih => unfold drainEvents; repeat' split
                 all_goals simp [ih]
@[simp] theorem drainRx_ringless (n k : Nat) (s : State) : (drainRx n k s).ringless = s.ringless := by
  induction k generalizing s with
  | zero => rfl
  | succ k ih => unfold drainRx; repeat' split
                 all_goals simp [ih]
@[simp] theorem State.updFn_drained (s : State) (n : Nat) (f : Fn → Fn) : (s.updFn n f).drained = s.drained := rfl
@[simp] theorem State.ringWrite_drained (s : State) (n r : Nat) (d : Bytes) (b : Option Bytes) :
    (s.ringWrite n r d b).drained = s.drained := State.drained_of_ringless (State.ringWrite_ringless s n r d b)
theorem State.reqs_drained (s : State) (l : Tbl Request) : ({ s with reqs := l } : State).drained = s.drained := rfl
@[simp] theorem drainReplies_drained (n i k : Nat) (s : State) : (drainReplies n i k s).drained = s.drained := by
  induction k generalizing s with
  | zero => rfl
  | succ k ih =>
    unfold drainReplies
    split
    · split
      · rw [ih]
        split
        · rw [State.reqs_drained, State.ringWrite_drained, State.updFn_drained]
        · rw [State.ringWrite_drained, State.updFn_drained]
      · rfl
    · rfl

/-- Writing what waits for a function's rings changes functions, what has left the device, and requests whose reply went
out; nothing else. -/
@[simp] theorem State.drainFn_drained (s : State) (n : Nat) : (s.drainFn n).drained = s.drained := by
  unfold State.drainFn
  dsimp only
  rw [State.drained_of_ringless (drainRx_ringless _ _ _)]
  simp only [drainReplies_drained]
  rw [State.drained_of_ringless (drainEvents_ringless _ _ _), State.drained_of_ringless (drainComps_ringless _ _ _)]

@[simp] theorem State.queueEvent_ringless (s : State) (b : Bytes) (n : Nat) : (s.queueEvent b n).ringless = s.ringless := by
  unfold State.queueEvent
  dsimp only
  rw [drainEvents_ringless]
  split <;> simp

/-- A posted event takes the next EVSEQ and reaches functions; nothing else changes. -/
@[simp] theorem State.post_eventless (s : State) (l : List Nat) (mk : Nat → Bytes) : (s.post l mk).eventless = s.eventless := by
  unfold State.post
  dsimp only
  generalize mk s.place.evseq = body
  suffices h : ∀ t : State, (l.foldl (fun s f => s.queueEvent body f) t).eventless = t.eventless from h _
  induction l with
  | nil => intro t; rfl
  | cons a l ih => intro t; exact (ih _).trans (State.eventless_of_ringless (State.queueEvent_ringless t body a))

@[simp] theorem State.general_eventless (s : State) (l : List Nat) (e c o p x y : Nat) :
    (s.general l e c o p x y).eventless = s.eventless := by
  unfold State.general; exact State.post_eventless _ _ _

/-- An integrity event is posted or joins its coalescing record; nothing else changes. -/
@[simp] theorem State.integ_eventless (s : State) (e : Integ) : (s.integ e).eventless = s.eventless := by
  unfold State.integ
  dsimp only
  repeat' split
  all_goals first
    | rfl
    | (rw [State.post_eventless]; done)
    | (rw [State.post_eventless]; rfl)

/-- A completion ends its command and writes to its function; nothing else changes but the requests whose reply went
out with it. -/
@[simp] theorem State.complete_hostless (s : State) (n st d r0 r1 : Nat) (out : Bytes) :
    (s.complete n st d r0 r1 out).hostless = s.hostless := by
  unfold State.complete
  split
  · rfl
  · dsimp only
    split
    · rfl
    · rw [State.hostless_of_drained (State.drainFn_drained _ _)]
      split <;> rfl

@[simp] theorem refuseUndefined_hostless (fn k : Nat) (s : State) : (refuseUndefined fn k s).hostless = s.hostless := by
  induction k generalizing s with
  | zero => rfl
  | succ k ih => unfold refuseUndefined; repeat' split
                 all_goals simp [ih]

/-- As `complete`, for the commands of its ring that then end for their OPCODE. -/
@[simp] theorem State.finish_hostless (s : State) (n st d r0 r1 : Nat) (out : Bytes) :
    (s.finish n st d r0 r1 out).hostless = s.hostless := by
  unfold State.finish; split <;> simp

/-- A completed command is no longer outstanding; the others still are. -/
theorem State.complete_cmds (s : State) (n st d r0 r1 : Nat) (out : Bytes) :
    (s.complete n st d r0 r1 out).cmds = if Tbl.has s.cmds n then Tbl.del s.cmds n else s.cmds := by
  unfold State.complete Tbl.has
  split
  · rename_i h; simp [h]
  · rename_i c h
    simp only [h, Option.isSome_some, if_true]
    split
    · rfl
    · have := congrArg State.cmds (State.drainFn_drained
        (((if out.isEmpty then { s with cmds := Tbl.del s.cmds n }
          else ({ s with cmds := Tbl.del s.cmds n } : State).emit (.dma c.fn c.outAddr out)).updFn c.fn
            (fun x => { x with comps := x.comps ++ [compDesc c st d r0 r1 out.length] }))) c.fn)
      refine (this : _).trans ?_
      simp only [State.drained, State.updFn_cmds]
      split <;> rfl

end Sys2Proof.Machine
end

