-- ==== Sys2Proof/Laws/Stage.lean ====
section
/-! SUPPORT. What an issuing stage-program instruction does, and the registers of a context after each write. -/

namespace Sys2Proof.Machine

variable {s : State} {c : Nat} {q : Issue}

/-- The context as the instruction that issues on it at a cycle sees it: pc and context cycle moved on. -/
def Issue.go (q : Issue) (now : Nat) : Issue := { q with x := { q.x with pc := q.x.pc + 1, cyc := q.c, since := now, yieldOn := [] } }

/-- An instruction of the row issues: the state with its context replaced. -/
theorem vIssue_next (h : Issues s c q) {row : VIns → Bool} (hr : row q.ins = true) {f : Issue → VCtx ⊕ Nat} {x : VCtx}
    (hf : f (q.go s.cycle) = .inl x) : vIssue s c row f = s.ran c x := by
  obtain ⟨-, hq, hm, hl, ht, hb, hc⟩ := h
  unfold vIssue
  have hc' : ¬ q.hdr.maxCycles < q.c := by omega
  simp only [Issue.go] at hf
  simp [hq, hr, hm, hl, ht, hb, hc', hf, State.ran]

/-- An instruction of the row issues and raises exception `e`. -/
theorem vIssue_exc (h : Issues s c q) {row : VIns → Bool} (hr : row q.ins = true) {f : Issue → VCtx ⊕ Nat} {e : Nat}
    (hf : f (q.go s.cycle) = .inr e) : vIssue s c row f = vException s c q.x q.t.model e := by
  obtain ⟨-, hq, hm, hl, ht, hb, hc⟩ := h
  unfold vIssue
  have hc' : ¬ q.hdr.maxCycles < q.c := by omega
  simp only [Issue.go] at hf
  simp [hq, hr, hm, hl, ht, hb, hc', hf]

/-- An instruction that changes only its context issues. -/
theorem vPure_next (h : Issues s c q) {row : VIns → Bool} (hr : row q.ins = true) {f : Issue → VCtx} :
    vPure c row f s = .next (s.ran c (f (q.go s.cycle))) := by
  unfold vPure onObj
  rw [vIssue_next h hr rfl]
  simp [h.1]

/-- An instruction of another row has no effect. -/
theorem vIssue_other (hq : fetchV s c = some q) {row : VIns → Bool} (hr : row q.ins = false) (f : Issue → VCtx ⊕ Nat) :
    vIssue s c row f = s := by
  unfold vIssue
  simp [hq, hr]

theorem VCtx.getS_lt (x : VCtx) (r : Nat) : x.getS r < 2 ^ 64 := Nat.mod_lt _ (by decide)
theorem VCtx.lane_lt (x : VCtx) (r i : Nat) : x.lane r i < 2 ^ 32 := Nat.mod_lt _ (by decide)

@[simp] theorem VCtx.getS_setS (x : VCtx) (c lat r v j : Nat) :
    (x.setS c lat r v).getS j = if j = r then v % 2 ^ 64 else x.getS j := by
  unfold VCtx.setS VCtx.getS
  simp only [Tbl.find?_put]
  split <;> simp
@[simp] theorem VCtx.lane_setS (x : VCtx) (c lat r v j i : Nat) : (x.setS c lat r v).lane j i = x.lane j i := rfl
@[simp] theorem VCtx.getP_setS (x : VCtx) (c lat r v j : Nat) : (x.setS c lat r v).getP j = x.getP j := rfl
@[simp] theorem VCtx.getS_setV (x : VCtx) (c lat r : Nat) (v : List Nat) (j : Nat) : (x.setV c lat r v).getS j = x.getS j := rfl
@[simp] theorem VCtx.lane_setV (x : VCtx) (c lat r : Nat) (v : List Nat) (j i : Nat) :
    (x.setV c lat r v).lane j i = if j = r then v.getD i 0 % 2 ^ 32 else x.lane j i := by
  unfold VCtx.setV VCtx.lane
  simp only [Tbl.find?_put]
  by_cases h : j = r <;> simp [h]
@[simp] theorem VCtx.getP_setV (x : VCtx) (c lat r : Nat) (v : List Nat) (j : Nat) : (x.setV c lat r v).getP j = x.getP j := rfl
theorem VCtx.getP_setP (x : VCtx) (c lat r v j : Nat) :
    (x.setP c lat r v).getP j = if j = r ∧ r ≠ 0 then v % 2 ^ 256 else x.getP j := by
  unfold VCtx.setP
  by_cases h : r = 0
  · simp [h]
  · simp only [h, if_false, VCtx.getP, Tbl.find?_put]
    by_cases e : j = r
    · subst e; simp [h]
    · simp [e]
@[simp] theorem VCtx.getS_setP (x : VCtx) (c lat r v j : Nat) : (x.setP c lat r v).getS j = x.getS j := by
  unfold VCtx.setP; split <;> rfl
@[simp] theorem VCtx.lane_setP (x : VCtx) (c lat r v j i : Nat) : (x.setP c lat r v).lane j i = x.lane j i := by
  unfold VCtx.setP; split <;> rfl

/-- A binding takes a free context of the VSE it chose and gives it cleared FLAGS. -/
theorem bindRun_next {t : State} {b tid prog vregs : Nat} {lr : Bool} (h : bindRun s b tid prog lr vregs = some t) :
    ∃ v k, chooseVse s b (if lr then 2 else 1) = some v ∧ Tbl.freeKey s.vctx ((b * 4 + v) * 64) 64 = some k ∧
      t = { s with vctx := Tbl.put s.vctx k
                     { thread := tid, prog := prog, layerRun := lr, vregs := vregs, seed := s.freeCount, since := s.cycle },
                   freeCount := s.freeCount + 1 } := by
  unfold bindRun at h
  split at h
  · cases h
  · rename_i v hv
    dsimp only at h
    split at h
    · split at h
      · rename_i k hk; cases h; exact ⟨v, k, hv, hk, rfl⟩
      · cases h
    · cases h

end Sys2Proof.Machine
end

