-- ==== Sys2Proof/Tests/Slice0.lean ====
section
/-! SUPPORT. The author's tests: ill-formed commands, stage-program words written out bit by bit, and for each
obligation with hypotheses small states and operands that meet them. TheDeviceBoots and FirmwareIsReplaced each have
clauses for an accepted firmware image (imageCheck = 0): they rest on Config.rootKeyHash, which has no value, so those
clauses alone have no state evaluated here (log 7). Theorems are checked one after another. -/

namespace Sys2Proof.Tests

open Sys2Proof Sys2Proof.Machine

set_option Elab.async false

/-! Builders of small states. -/

/-- Table and bodies of an image's sections, the first body at `o`. -/
def lay : Nat → List (Nat × Bytes) → Bytes × Bytes
  | _, [] => ([], [])
  | o, (ty, b) :: r =>
    let p := padMul 64 b
    let q := lay (o + p.length) r
    (leBytes 2 ty ++ zeros 6 ++ leBytes 8 o ++ leBytes 8 b.length ++ leBytes 8 (tbc b).toNat ++ q.1, p ++ q.2)

/-- An image of a KIND with these sections (R467, R468). -/
def image (kind : Nat) (secs : List (Nat × Bytes)) : Bytes :=
  let o := ceilDiv (64 + 32 * secs.length) 64 * 64
  let q := lay o secs
  let h := leBytes 4 0x4D425255 ++ leBytes 2 1 ++ leBytes 1 kind ++ zeros 1 ++ leBytes 4 secs.length ++ zeros 4 ++
    leBytes 8 (o + q.2.length) ++ leBytes 2 (1 - kind) ++ leBytes 2 (1 - kind) ++ leBytes 4 1 ++ leBytes 4 1 ++ zeros 20
  padTo o (h ++ leBytes 8 (tbc h).toNat ++ q.1) ++ q.2

/-- PROG with one program of words `w` and constants `k` (R160). -/
def prog (role vregs maxc : Nat) (w : List Nat) (k : Bytes) : Bytes :=
  leBytes 4 1 ++ zeros 12 ++ leBytes 1 role ++ leBytes 1 vregs ++ leBytes 2 0 ++ leBytes 4 w.length ++
    leBytes 4 k.length ++ leBytes 4 maxc ++ leBytes 4 48 ++ leBytes 4 (48 + 4 * w.length) ++ zeros 8 ++
    w.flatMap (leBytes 4) ++ k

/-- A device that is up, with function 0 on a live host port. -/
def up : State :=
  { State.reset with
    boot := { st := 5, released := true, boardPos := 0 }, hostUp := [0], fns := [(0, { bme := true })],
    power := { hbmTrained := true } }

/-- One thread on context 0 that runs the program whose instruction is `w`, in a layer run or as a hook. -/
def runs (layer : Bool) (w : Nat) (k : Bytes) (t : Thread) (x : VCtx) (secs : List (Nat × Bytes) := []) : State :=
  { up with
    models := [(0, { st := 2, vers := [(0, { image := image 1 ((8, prog (if layer then 1 else 0) 32 100 [w] k) :: secs) })] })],
    threads := [(0, t)],
    vctx := [(0, { x with thread := 0, prog := 0, layerRun := layer, vregs := 32 })] }

/-- A thread of model 0. -/
def thr : Thread := { req := 0, qi := 0, model := 0, ver := 0, replica := 0, ffmt := 0, fcount := 2, raw := [5, 7], tArrive := 0, tDeadline := 1000 }
/-- A fresh context. -/
def ctx : VCtx := { thread := 0, prog := 0, layerRun := true, vregs := 32 }

/-- The instruction context 0 would issue. -/
def iss (s : State) : Issue := (fetchV s 0).getD ⟨ctx, thr, [], ⟨0, 0, 0, 0, 0, 0, 0, 0⟩, .ctl 8 0 0, 0⟩
/-- All that `Issues` asks of context 0. -/
def issuesB (s : State) : Bool :=
  okVctx 0 && (fetchV s 0).isSome && mayIssue s (iss s).x && !stallsOnLoad (iss s).x (iss s).ins && vTurn s 0 (iss s).x &&
    !(s.block (vBlock 0)).fenced && decide ((iss s).c ≤ (iss s).hdr.maxCycles)

/-- The layer run whose one instruction is `i`. -/
def lrun (i : VIns) : State := runs true (encodeV i) [] thr ctx
/-- `lrun` issues `i` on context 0. -/
def issuing (i : VIns) : Bool := issuesB (lrun i) && (iss (lrun i)).ins == i

/-- s0 holds `v`. -/
def s0 (v : Nat) : VCtx := { ctx with s := [(0, v)], v := [(0, (upTo 256).map (4 * ·))], p := [(1, 1)] }
/-- LDM of 2048 zero bytes. -/
def ldm : Bytes := zeros 2048
/-- A layer run of `i` with s0 = `v` and an LDM. -/
def mrun (i : VIns) (v : Nat) : State := runs true (encodeV i) ldm thr (s0 v)
/-- NNET with `n` layers and `nout` outputs; layer 0 a GEMM of `cols` columns over `k` values run by program 0 (R470). -/
def net (n nout : Nat) (cols : Nat := 1) (k : Nat := 1) : Nat × Bytes :=
  (0x10, leBytes 2 n ++ leBytes 2 1 ++ leBytes 1 nout ++ leBytes 1 1 ++ zeros 26 ++
    leBytes 1 1 ++ leBytes 1 2 ++ leBytes 1 2 ++ zeros 1 ++ leBytes 2 k ++ leBytes 2 cols ++ zeros 84)
/-- PREP whose one entry is HOOK output 0 (R96). -/
def hookPrep : Nat × Bytes := (1, leBytes 2 1 ++ leBytes 2 1 ++ leBytes 1 0 ++ leBytes 1 4 ++ leBytes 2 100 ++ zeros 8 ++ leBytes 1 3 ++ zeros 31)
/-- END. -/
def endW : Nat := encodeV (.ctl 8 0 0)

/-- One waiting thread and no context bound. -/
def waits (layer : Bool) (t : Thread) (secs : List (Nat × Bytes)) : State := { runs layer endW [] t ctx secs with vctx := [] }
/-- Context 0 loads from a granted board address: its own device's HBM, region 0 of context 0 (R224). -/
def bload (i : VIns) (v : Nat) (tags : Tbl Pend) : State :=
  { runs true (encodeV i) [] thr { s0 v with tags := tags } with
    regions := [(0, { base := 0, len := 4096, owner := 0, ctx := 0 })] }

/-- A tree image: one feature, one predicate, one tree of two rules with leaves 1.0 and 2.0 (R96, R128 to R133). -/
def treeImg (flags link : Nat) : Bytes :=
  image 0 [(1, leBytes 2 1 ++ leBytes 2 1 ++ leBytes 1 0 ++ leBytes 1 1 ++ zeros 42),
    (2, leBytes 2 1 ++ leBytes 1 1 ++ leBytes 1 flags ++ leBytes 1 link ++ zeros 3 ++ leBytes 4 1 ++ leBytes 4 2 ++ leBytes 4 0x3F800000 ++ leBytes 4 2 ++ zeros 12),
    (3, zeros 4 ++ leBytes 4 0x3F800000), (4, zeros 12 ++ leBytes 2 2 ++ leBytes 2 1 ++ zeros 8), (5, zeros 2),
    (6, zeros 32 ++ leBytes 32 1 ++ leBytes 32 1 ++ leBytes 32 1), (7, leBytes 4 0x3F800000 ++ leBytes 4 0x40000000)]
/-- Its score is the exact margin. -/
def treeImage : Bytes := treeImg 0 0

/-- A port up and FORWARDING. -/
def fport : Port := { st := .forwarding, cfg := { enable := true, macAddr := 0x020000000001, foldEn := true } }
/-- 10.0.0.1, the device's address in these states, and 10.0.0.2. -/
def ipA : Nat := mapped4 0x0A000001
def ipB : Nat := mapped4 0x0A000002
/-- `up` with port 0 forwarding and query and fold addresses set. -/
def net0 : State :=
  { up with ports := [(0, fport)],
            dev := { queryAddr := [(0, ipA)], sqfPort := [(0, 4000)], foldAddr := [(0, ipA)], foldPort := [(0, 5000)] } }
/-- A UDP frame from 10.0.0.2 to 10.0.0.1, with its FCS. -/
def udpFrame (sport dport : Nat) (body : Bytes) : Bytes :=
  withFcs true (ethHdr 0x020000000001 0x020000000002 none 0x0800 ++ ip4Hdr ipB ipA 0 64 (8 + body.length) ++
    udpDgram false ipB ipA sport dport body)
/-- A QUERY of one query of one feature to context 5, flow 9, number 3 (R38). -/
def sqf : Bytes :=
  leBytes 2 0x11 ++ beBytes 2 0x0050 ++ zeros 4 ++ beBytes 4 9 ++ beBytes 4 3 ++ beBytes 2 1 ++ beBytes 2 0x0010 ++ beBytes 2 100 ++
    zeros 2 ++ zeros 4
def qframe : Bytes := udpFrame 777 4000 sqf
/-- The IP header of a frame on `net0`. -/
def ipOf (f : Bytes) : Ip := (queryIp net0 f (parsePkt net0.dev.tpid f)).getD default
/-- A request of one record that waits for its commit verdict, and its thread. -/
def rq : Request := { src := .port 0, model := 0, flowId := 9, seq := 3, recs := [{ qid := 1, thread := some 0 }], granules := 2 }
def rqs (q : Request) : State := { net0 with reqs := [(0, q)], nextReq := 1, threads := [(0, thr)] }
/-- The tree model on block 0: tree 0 in bank 0 from entry 0, its predicate on bit 0. -/
def treeState (t : Thread) (img : Bytes := treeImage) : State :=
  { net0 with
    models := [(0, { st := 2, vers := [(0, { image := img, replicas := [(0, { slices :=
      [{ block := 0, trees := [⟨0, 0, 0, 0⟩], comps := [⟨0, 0⟩] }] })] })] })],
    banks := [(0, ruleEntry 0 1 0), (1, ruleEntry 1 1 0)], threads := [(0, t)], reqs := [(0, rq)] }

/-- A frame of 100 bytes waiting for its port. -/
def tf (k : TxKind) : TxFrame := { bytes := zeros 100, kind := k }
/-- NNET of one embedding layer of one bag in table 0 (R145), and its table of one FP32 value (R471). -/
def bagSecs (n : Nat) : List (Nat × Bytes) :=
  [(0x10, leBytes 2 1 ++ leBytes 2 1 ++ leBytes 1 1 ++ leBytes 1 4 ++ zeros 26 ++
     zeros 3 ++ leBytes 1 n ++ zeros 28 ++ leBytes 4 1024 ++ leBytes 4 1024 ++ zeros 56),
   (0x12, leBytes 4 1 ++ leBytes 2 1 ++ leBytes 1 1 ++ zeros 57 ++ leBytes 4 0x3F800000 ++ zeros 60)]
/-- A thread at the bags of layer 0, with `n` bags. -/
def bagState (n : Nat) : State :=
  { waits true { thr with phase := .bags, raw := [0] } (bagSecs n) with
    regions := [(0, { base := 0, len := 64, owner := 0, ctx := 0 })], hbm := [(2, 0x80), (3, 0x3F)], reqs := [(0, rq)] }
/-- A thread of model 0, whose layer 0 has `cols` columns and block 0 holds the first of them. -/
def arr (g : Bool) (y : Thread := { thr with phase := .array }) (cols : Nat := 1) : State :=
  let s := waits true y [net 1 1 cols]
  { s with
    models := Tbl.mapVals s.models (fun _ m => { m with vers := Tbl.mapVals m.vers (fun _ v =>
      { v with replicas := [(0, { slices := [{ block := 0, layers := [{ layer := 0 }] }] })] }) }),
    blocks := [(0, { gated := g })], power := { hbmTrained := true, vins := [48000], samples := [{ vin := 48000 }] } }

/-! Frames whose payload is too long to evaluate: what a receiver reads of them. -/

theorem leBytes_length (n v : Nat) : (leBytes n v).length = n := by
  induction n generalizing v with
  | zero => rfl
  | succ n ih => simp [leBytes, ih]
theorem beBytes_length (n v : Nat) : (beBytes n v).length = n := by simp [beBytes, leBytes_length]
theorem zeros_length (n : Nat) : (zeros n).length = n := by simp [zeros]
theorem padTo_eq {n : Nat} {l : Bytes} (h : n ≤ l.length) : padTo n l = l := by simp [padTo, zeros, Nat.sub_eq_zero_of_le h]

/-- Ethernet, IPv4 and UDP headers before `n` bytes from 10.0.0.2 to 10.0.0.1. -/
def hdr (sport dport n : Nat) : Bytes :=
  ethHdr 0x020000000001 0x020000000002 none 0x0800 ++ ip4Hdr ipB ipA 0 64 (8 + n) ++
    (beBytes 2 sport ++ beBytes 2 dport ++ beBytes 2 (8 + n) ++ beBytes 2 0)
theorem hdr_length (a b n : Nat) : (hdr a b n).length = 42 := by
  simp [hdr, ethHdr, ip4Hdr, beBytes_length]
theorem udpFrame_eq (a b : Nat) (body : Bytes) (h : 18 ≤ body.length) :
    udpFrame a b body = hdr a b body.length ++ (body ++ fcsBytes (hdr a b body.length ++ body)) := by
  unfold udpFrame withFcs
  rw [padTo_eq]
  · simp [hdr, udpDgram, List.append_assoc]
  · simp [ethHdr, ip4Hdr, udpDgram, beBytes_length]
    omega
theorem fcsOk_append (f : Bytes) : fcsOk (f ++ fcsBytes f) = true := by
  have h : (fcsBytes f).length = 4 := leBytes_length _ _
  simp [fcsOk, h]
theorem tbcOk_withTbc (b : Bytes) (ok : Bool) : tbcOk (withTbc ok b) = ok := by
  have h : (tbcOf b).length = 8 := beBytes_length _ _
  cases ok
  · have e : (tbcOf b).map (fun x => x ^^^ 0xFF#8) ≠ tbcOf b := by
      cases ht : tbcOf b with
      | nil => simp [ht] at h
      | cons a l =>
        simp only [List.map_cons, ne_eq, List.cons.injEq, not_and]
        have k : ∀ a : BitVec 8, a ^^^ 255#8 ≠ a := by decide +kernel
        intro c
        exact absurd c (k a)
    simp [tbcOk, withTbc, h, e]
  · simp [tbcOk, withTbc, h]

/-- `net0` with one fold group. -/
def fs (g : Group) : State := { net0 with groups := [(0, g)] }
/-- The IP header of a frame of `n` payload bytes. -/
def fip (n : Nat) : Ip :=
  { v6 := false, hdrOk := true, frag := false, proto := 17, src := ipB, dst := ipA, tos := 0, ttl := 64, off := 14, l4 := 34,
    dgEnd := 14 + 28 + n, flowLabel := 0 }
/-- The UDP payload of a frame is what was put in. -/
theorem payload_frame (a b : Nat) (body : Bytes) (h : 18 ≤ body.length) (hn : body.length ≤ 60000) :
    udpLen (udpFrame a b body) (fip body.length) = 8 + body.length → udpPayload (udpFrame a b body) (fip body.length) = body := by
  intro e
  unfold udpPayload
  rw [e, udpFrame_eq a b body h]
  have h1 : (fcsBytes (hdr a b body.length ++ body)).length = 4 := leBytes_length _ _
  have h2 : (hdr a b body.length).length = 42 := hdr_length _ _ _
  simp only [fip, slice, List.length_append, h1, h2]
  rw [List.drop_append_of_le_length (by omega)]
  have h3 : List.drop (34 + 8) (hdr a b body.length) = [] := List.drop_eq_nil_of_le (by omega)
  rw [h3, List.nil_append]
  have h4 : min (8 + body.length - 8) (42 + (body.length + 4) - 4 - (34 + 8)) = body.length := by omega
  rw [h4]
  simp
/-- Lengths of the fold payloads (R177). -/
def foldLens : List Nat := [40, 72, 104, 4136]
theorem slice_left {h : Bytes} (r : Bytes) {o n : Nat} (e : o + n ≤ h.length) : slice (h ++ r) o n = slice h o n := by
  unfold slice
  rw [List.drop_append_of_le_length (by omega), List.take_append_of_le_length (by simp; omega)]
theorem be_left {h : Bytes} (r : Bytes) {o n : Nat} (e : o + n ≤ h.length) : be (h ++ r) o n = be h o n := by
  unfold be; rw [slice_left r e]
theorem byteAt_left {h : Bytes} (r : Bytes) {o : Nat} (e : o < h.length) : byteAt (h ++ r) o = byteAt h o := by
  unfold byteAt; simp [List.getElem?_append_left e]
/-- The parse of an untagged frame with a plain IPv4 header looks no further than its UDP header. -/
theorem parse_left {h : Bytes} (r : Bytes) (hl : h.length = 42) (h1 : be h 12 2 = 0x0800) (h2 : byteAt h 14 = 0x45) :
    parsePkt [0x8100, 0x88A8] (h ++ r) = parsePkt [0x8100, 0x88A8] h := by
  have e1 : be (h ++ r) 12 2 = 0x0800 := by rw [be_left r (by omega), h1]
  have e2 : byteAt (h ++ r) 14 = 0x45 := by rw [byteAt_left r (by omega), h2]
  have c : ([0x8100, 0x88A8] : List Nat).contains 0x0800 = false := by decide
  unfold parsePkt parseTags
  simp only [e1, h1, c, Bool.false_eq_true, if_false]
  unfold parseIp
  simp only [e2, h2, if_true]
  rw [be_left r (o := 0) (n := 6) (by omega), be_left r (o := 6) (n := 6) (by omega)]
  simp only [show 12 + 2 = 14 from rfl, show 4 * (69 % 16) = 20 from rfl]
  rw [slice_left r (o := 14) (n := 20) (by omega)]
  rw [be_left r (o := 14 + 6) (n := 2) (by omega), byteAt_left r (o := 14 + 9) (by omega), be_left r (o := 14 + 12) (n := 4) (by omega),
    be_left r (o := 14 + 16) (n := 4) (by omega), byteAt_left r (o := 14 + 1) (by omega), byteAt_left r (o := 14 + 8) (by omega),
    be_left r (o := 14 + 2) (n := 2) (by omega)]
theorem hdr_reads (r : Bytes) (g : Group) : ∀ n ∈ foldLens,
    foldIp (fs g) 0 (hdr 0 5000 n ++ r) (parsePkt (fs g).dev.tpid (hdr 0 5000 n ++ r)) = some (fip n) ∧
      udpLen (hdr 0 5000 n ++ r) (fip n) = 8 + n ∧ udpCsum (hdr 0 5000 n ++ r) (fip n) = 0 := by
  have key : ∀ n, (parsePkt (fs g).dev.tpid (hdr 0 5000 n ++ r)).ip = some (fip n) →
      udpDst (hdr 0 5000 n ++ r) (fip n) = 5000 →
      foldIp (fs g) 0 (hdr 0 5000 n ++ r) (parsePkt (fs g).dev.tpid (hdr 0 5000 n ++ r)) = some (fip n) := by
    intro n h1 h2
    unfold foldIp udpTo
    rw [h1]
    simp only [h2]
    rw [if_pos ⟨rfl, rfl, rfl, (by decide +kernel : ([((0 : Nat), ipA)].any (fun a => a.2 == mapped4 ipA)) = true),
      (by decide +kernel : ([((0 : Nat), 5000)].any (fun q => q.2 == 5000)) = true), rfl⟩]
  intro n hn
  simp only [foldLens, List.mem_cons, List.not_mem_nil, or_false] at hn
  have h1 : ∀ n, n ∈ foldLens → be (hdr 0 5000 n) 12 2 = 0x0800 := by decide +kernel
  have h2 : ∀ n, n ∈ foldLens → byteAt (hdr 0 5000 n) 14 = 0x45 := by decide +kernel
  have cut : ∀ n, n ∈ foldLens → (parsePkt [0x8100, 0x88A8] (hdr 0 5000 n)).ip = some (fip n) := by decide +kernel
  rcases hn with rfl | rfl | rfl | rfl
  · exact ⟨key 40 ((congrArg Pkt.ip (parse_left r (hdr_length _ _ _) (h1 40 (by decide)) (h2 40 (by decide)))).trans (cut 40 (by decide))) rfl, rfl, rfl⟩
  · exact ⟨key 72 ((congrArg Pkt.ip (parse_left r (hdr_length _ _ _) (h1 72 (by decide)) (h2 72 (by decide)))).trans (cut 72 (by decide))) rfl, rfl, rfl⟩
  · exact ⟨key 104 ((congrArg Pkt.ip (parse_left r (hdr_length _ _ _) (h1 104 (by decide)) (h2 104 (by decide)))).trans (cut 104 (by decide))) rfl, rfl, rfl⟩
  · exact ⟨key 4136 ((congrArg Pkt.ip (parse_left r (hdr_length _ _ _) (h1 4136 (by decide)) (h2 4136 (by decide)))).trans (cut 4136 (by decide))) rfl, rfl, rfl⟩
/-- A fold payload of the right length arrives on port 0 of `fs g` as a frame. -/
theorem fold_arrives_of (g : Group) (body : Bytes) (ty : Nat) (hl : body.length = foldLen ty) (hm : foldLen ty ∈ foldLens)
    (ht : fTy body = ty) (hv : byteAt body 0 / 16 = 1) : FoldArrives (fs g) 0 (udpFrame 0 5000 body) ty ⟨0, ipB, body⟩ := by
  have hb : 18 ≤ body.length ∧ body.length ≤ 60000 ∧ body.length ≤ 9000 := by
    rw [hl]
    simp only [foldLens, List.mem_cons, List.not_mem_nil, or_false] at hm
    omega
  have he := udpFrame_eq 0 5000 body hb.1
  obtain ⟨r1, r2, r3⟩ := hdr_reads (body ++ fcsBytes (hdr 0 5000 body.length ++ body)) g body.length (hl ▸ hm)
  rw [← he] at r1 r2 r3
  have hlen : (udpFrame 0 5000 body).length = 46 + body.length := by
    rw [he]
    have h1 : (fcsBytes (hdr 0 5000 body.length ++ body)).length = 4 := leBytes_length _ _
    simp only [List.length_append, h1, hdr_length]
    omega
  have hp := payload_frame 0 5000 body hb.1 hb.2.1 r2
  have hr : rxAlive (fs g) 0 = true := rfl
  have hf : fcsOk (udpFrame 0 5000 body) = true := by
    rw [he, ← List.append_assoc]; exact fcsOk_append _
  refine ⟨rfl, ⟨fip body.length, ?_, ?_, ?_⟩, ht, rfl, ?_⟩
  · unfold foldFrame
    rw [hr, r1]
    have : ¬ (udpFrame 0 5000 body).length < 64 := by omega
    simp only [Bool.not_true, Bool.false_or, this, decide_false, hp]
    rfl
  · have h0 : body ≠ [] := by
      rintro rfl
      simp at hb
    simp [foldLegal, ht, hv, r2, ← hl, h0]
  · have hmac : macGood (fs g) 0 (udpFrame 0 5000 body) = true := by
      unfold macGood
      rw [hf]
      have : ((fs g).port 0).cfg.maxFrame = 9216 := rfl
      rw [this]
      simp only [Bool.and_true, Bool.and_eq_true, decide_eq_true_eq]
      omega
    have hlo : lengthsOk (udpFrame 0 5000 body) (fip body.length) = true := by
      unfold lengthsOk
      rw [r2]
      simp only [fip, Bool.and_eq_true]
      exact ⟨⟨decide_eq_true (by omega), decide_eq_true (by omega)⟩, decide_eq_true (by omega)⟩
    simp [foldGood, hmac, hlo, r3]
  · show fport.st ≠ .opened
    decide

/-- A fold payload of a header and a zero body, with its TBC or a stomped one. -/
def fbody (h : FHdr) (ok : Bool := true) : Bytes := withTbc ok (h.bytes ++ zeros (foldLen h.ty - 40))
theorem fbody_length (h : FHdr) (ok : Bool) (e : 40 ≤ foldLen h.ty) : (fbody h ok).length = foldLen h.ty := by
  have h8 : ∀ b, (tbcOf b).length = 8 := fun _ => beBytes_length _ _
  cases ok <;> simp [fbody, withTbc, FHdr.bytes, beBytes_length, zeros_length, h8] <;>
  omega
/-- The frame of a fold header. -/
def ff (h : FHdr) (ok : Bool := true) : Bytes := udpFrame 0 5000 (fbody h ok)
/-- What the receiver reads of it. -/
def fx (h : FHdr) (ok : Bool := true) : FoldIn := ⟨0, ipB, fbody h ok⟩
theorem arrives_f (g : Group) (h : FHdr) (ok : Bool)
    (c : (foldLens.contains (foldLen h.ty) && fTy (fbody h ok) == h.ty && byteAt (fbody h ok) 0 / 16 == 1) = true) :
    FoldArrives (fs g) 0 (ff h ok) h.ty (fx h ok) := by
  simp only [Bool.and_eq_true, List.contains_iff_mem, beq_iff_eq] at c
  refine fold_arrives_of g (fbody h ok) h.ty (fbody_length h ok ?_) c.1.1 c.1.2 c.2
  have := c.1.1
  simp only [foldLens, List.mem_cons, List.not_mem_nil, or_false] at this
  omega
theorem tbcOk_f (h : FHdr) (ok : Bool) : tbcOk (fx h ok).p = ok := tbcOk_withTbc _ ok

/-- Members 1 and 2 on port 0, replicas 0 and 1; member 3 a child device. -/
def mems : Tbl Member :=
  [(1, { child := false, port := 0, udp := 5000, replica := 0, addr := ipB }),
   (2, { child := false, port := 0, udp := 5000, replica := 1, addr := ipB }),
   (3, { child := true, port := 0, udp := 5000, replica := 0, addr := ipB })]
/-- A root group of one element, two replicas and a child. -/
def grp : Group := { nelem := 1, nreplica := 2, members := mems, accBlocks := [0], res := [(0, 1, 1)] }
/-- An inner group: its parent is at 10.0.0.2 too. -/
def inner : Group := { grp with root := false, parentPort := 0, parentAddr := ipB, parentUdp := 5000 }
/-- A contribution header to group 0: step 0, block 0, one element. -/
def ch (child : Bool) (m : Nat) : FHdr := { ty := if child then 2 else 1, group := 0, member := m, fmt := 1, ecount := 1, bmax := 0x8000 }
/-- All that `FoldArrives`, `InGroup` and the check word ask of a frame on `fs g`. -/
def frameB (g : Group) (h : FHdr) (ok : Bool := true) (anyGen : Bool := false) : Bool :=
  foldLens.contains (foldLen h.ty) && fTy (fbody h ok) == h.ty && byteAt (fbody h ok) 0 / 16 == 1 &&
    (fGroup (fx h ok).p == 0 && g.st != 3 && (anyGen || g.gen == fGen (fx h ok).p))
theorem held_of {g : Group} {h : FHdr} {ok anyGen : Bool} (c : frameB g h ok anyGen = true) :
    FoldArrives (fs g) 0 (ff h ok) h.ty (fx h ok) ∧ InGroup (fs g) (fx h ok) anyGen g ∧ tbcOk (fx h ok).p = ok := by
  unfold frameB at c
  rw [Bool.and_eq_true] at c
  obtain ⟨c1, c2⟩ := c
  simp only [Bool.and_eq_true, beq_iff_eq, bne_iff_ne, ne_eq, Bool.or_eq_true] at c2
  exact ⟨arrives_f g h ok c1, ⟨by rw [c2.1.1]; rfl, rfl, c2.1.2, c2.2⟩, tbcOk_f h ok⟩
/-- A frame of a group with a reservation on the port is taken at once. -/
theorem frame_of {g : Group} {h : FHdr} {ok anyGen : Bool} (c : frameB g h ok anyGen = true)
    (r : decide (0 < (Tbl.getD g.res 0 (0, 0)).2) = true) :
    Takes (fs g) 0 (ff h ok) h.ty (fx h ok) ∧ InGroup (fs g) (fx h ok) anyGen g ∧ tbcOk (fx h ok).p = ok := by
  have k := held_of c
  have z : fGroup (fx h ok).p = 0 := by
    unfold frameB at c
    simp only [Bool.and_eq_true, beq_iff_eq] at c
    exact c.2.1.1
  refine ⟨⟨k.1, ?_⟩, k.2⟩
  rw [z]
  have e : withinRes (fs g) 0 0 = (decide (0 < (Tbl.getD g.res 0 (0, 0)).2) && true && true) := rfl
  rw [e, r]
  rfl

/-! Stage programs: every instruction issues on a small state (the hypotheses of the stage-program statements). -/

theorem issues_of {s : State} (h : issuesB s = true) : Issues s 0 (iss s) := by
  simp only [issuesB, Bool.and_eq_true, Bool.not_eq_true', decide_eq_true_eq] at h
  obtain ⟨⟨⟨⟨⟨⟨h1, h2⟩, h3⟩, h4⟩, h5⟩, h6⟩, h7⟩ := h
  refine ⟨h1, ?_, h3, h4, h5, h6, h7⟩
  unfold iss
  cases e : fetchV s 0 with
  | none => rw [e] at h2; cases h2
  | some q => rfl

theorem witness_integer_scalar : ((upTo 0x0D).all (fun op => issuing (.sca op 63 (op % 2) 63))) = true := by decide +kernel
theorem witness_float_scalar : ((upTo 11).all (fun k => issuing (.sca (0x10 + k) 0 63 0))) = true := by decide +kernel
theorem witness_immediate : (immOps.all (fun op => issuing (.imm op 0 63 (-1024)) && issuing (.imm op 0 63 1023)) &&
    (upTo 4).all (fun h => issuing (.movk h 5 65535)) && issuing (.sca 0x1B 0 0 0) && issuing (.sca 0x1C 0 0 0)) = true := by decide +kernel
theorem witness_vector : ((upTo 0x1D).all (fun op => issuing (.vec op 31 0 31 7 (op % 3) false) && issuing (.vec op 0 0 0 0 0 true))) = true := by
  decide +kernel
theorem witness_control : ((upTo 9).all (fun op => issuing (.ctl op 63 (-131072)) && issuing (.ctl op 0 131071))) = true := by decide +kernel
theorem witness_thread_forms : ((upTo 12).all (fun op => issuing (.thr op 31 63 4095))) = true := by decide +kernel

/-- LDL at its last word, one past it and off its alignment; LDVL, GATHL, LDC and STC at their ends (R150, R157). -/
theorem witness_local_loads :
(    issuesB (mrun (.mem 0 1 0 0) 2040) && (iss (mrun (.mem 0 1 0 0) 2040)).hdr.ldm == 2048 &&
    issuesB (mrun (.mem 0 1 0 1) 2040) && issuesB (mrun (.mem 0 1 0 0) 1) &&
    issuesB (mrun (.mem 1 1 0 1) 960) && issuesB (mrun (.mem 4 1 0 31) 0) && issuesB (mrun (.mem 5 1 0 31) 0) &&
    issuesB (mrun (.mem 5 1 0 15) 0) && (iss (mrun (.mem 5 1 0 15) 0)).x.getS 0 == 0) = true := by decide +kernel
/-- GATHL within LDM, with its first lane past the end, and with its first lane off its alignment; LDVL past the end and off its
alignment; LDC and STC at the end of the context, past it and off their alignment. -/
theorem witness_gathl : (issuesB (mrun (.gath 2 1 0 0 0 1 0) 4) &&
    (let q := iss (mrun (.gath 2 1 0 0 0 1 0) 4)
     (upTo 256).all (fun i => !bit (q.x.getP 1) i || (decide ((q.x.getS 0 + q.x.lane 0 i) % 2 ^ 64 + 4 ≤ q.hdr.ldm) &&
       (q.x.getS 0 + q.x.lane 0 i) % 2 ^ 64 % 4 == 0))) &&
    [2048, 1].all (fun v =>
      issuesB (mrun (.gath 2 1 0 0 0 1 0) v) && bit ((iss (mrun (.gath 2 1 0 0 0 1 0) v)).x.getP 1) 0 &&
      issuesB (mrun (.mem 1 1 0 0) (v + 3)) && issuesB (mrun (.mem 1 1 0 0) v)) &&
    [248, 256, 249].all (fun v => issuesB (mrun (.mem 4 1 0 0) v) && issuesB (mrun (.mem 5 1 0 0) v))) = true := by
  decide +kernel
/-- FRDX at the last feature and at FCOUNT. -/
theorem witness_frdx : (issuing (.thr 1 0 0 0) && issuesB (mrun (.thr 1 0 0 1) 0) && issuesB (mrun (.thr 1 0 0 2) 0) &&
    (iss (mrun (.thr 1 0 0 1) 0)).t.fcount == 2) = true := by decide +kernel

/-- END of a final layer with its score and without, of a layer before the last, of a hook with and without its output; and
REFUSE. -/
theorem witness_end :
    (let s := runs true endW [] { thr with scores := [(0, 1)] } ctx [net 1 1]
     issuesB s && (iss s).ins == .ctl 8 0 0 && decide (nlayer (iss s).img ≤ 1) && (upTo (imgNout (iss s).img)).all (fun j => Tbl.has (iss s).t.scores j)) &&
    (let s := runs true endW [] thr ctx [net 1 1]
     issuesB s && !(upTo (imgNout (iss s).img)).all (fun j => Tbl.has (iss s).t.scores j)) &&
    (let s := runs true endW [] thr ctx [net 2 1]
     issuesB s && decide (1 < nlayer (iss s).img)) &&
    (let s := runs false endW [] thr ctx [hookPrep]
     issuesB s && (hookOutputs (prepSec (iss s).img)).any (fun o => !Tbl.has (iss s).t.hookOut o)) &&
    (let s := runs false endW [] { thr with hookOut := [(0, 1)] } ctx [hookPrep]
     issuesB s && !(hookOutputs (prepSec (iss s).img)).any (fun o => !Tbl.has (iss s).t.hookOut o)) = true := by decide +kernel
/-- A context that cannot issue within MAX_CYCLES, and one that has waited past them on its own load. -/
theorem witness_cycles :
    ((let s := runs true endW [] thr { ctx with cyc := 100 }
     okVctx 0 && (fetchV s 0).isSome && decide ((iss s).hdr.maxCycles < (iss s).c)) &&
     (let s := { runs true endW [] thr { ctx with wait := some 0, tags := [(0, { dst := 1, addrs := [], size := 8 })] } with cycle := 101 }
     okVctx 0 && (fetchV s 0).isSome && ((iss s).x.wait.isSome || stallsOnLoad (iss s).x (iss s).ins) &&
       decide ((iss s).hdr.maxCycles ≤ (iss s).x.cyc + (s.cycle - (iss s).x.since - 1)))) = true := by decide +kernel

/-- VSE 0 of block 0 is the one chosen, with room for `n` registers (R152). -/
def mostB (s : State) (cls n : Nat) : Bool :=
  !(s.block 0).retiredVses.contains 0 && decide (0 < freeCtx (boundOn s 0 0) cls) &&
    (upTo 4).all (fun w => decide (freeCtx (boundOn s 0 w) cls ≤ freeCtx (boundOn s 0 0) cls)) &&
    decide ((boundOn s 0 0).foldl (fun a x => a + x.vregs) 0 + n ≤ 256) && Tbl.freeKey s.vctx 0 64 == some 0
theorem witness_binds :
    (let s := waits false { thr with hook := .waiting } [hookPrep]
     Tbl.find? s.threads 0 == some { thr with hook := .waiting } && oldestWaiting s 0 (waitsHook 0) &&
       hookProg (s.verOf (thr)).image == some 0 && mostB s 1 (progHdr (s.verOf thr).image 0).vregs) &&
    (let t := { thr with phase := .vector }
     let s := waits true t [net 1 1]
     layerBlock s 0 t == 0 && oldestWaiting s 0 (waitsVector s 0) &&
       mostB s 2 (progHdr (s.verOf thr).image (layerAt (s.verOf thr).image 0).prog).vregs) = true := by decide +kernel
/-- Loads of every kind, of an address not granted and of one past 48 bits; a load that is there, one poisoned, one whose region
is gone, and one of another device. -/
theorem witness_board_loads :
    (let s := bload (.ldb 8 1 0 0 3) 4088 []
     issuesB s && granted s (s.model 0).owner 0 0 4088 8) &&
    issuesB (bload (.ldb 8 1 0 0 3) 1 []) && issuesB (bload (.ldb 8 1 0 0 3) (2 ^ 48) []) &&
    (let s := bload (.ldb 9 1 0 0 0) 3072 []
     issuesB s && granted s (s.model 0).owner 0 0 3072 1024) &&
    issuesB (bload (.ldb 9 1 0 0 0) 1 []) && issuesB (bload (.ldb 9 1 0 0 0) (2 ^ 48) []) &&
    (let s := bload (.gath 10 1 0 0 2 0 0) 0 []
     issuesB s && (upTo 256).all (fun i => granted s 0 0 0 ((iss s).x.lane 0 i * 2 ^ 2 % 2 ^ 45) 4)) &&
    [1, 2 ^ 48].all (fun v => issuesB (bload (.gath 10 1 0 0 2 0 0) v [])) &&
    (let s := bload (.ldb 8 1 0 0 3) 0 [(3, { dst := 1, addrs := [(0, 4088)], size := 8 })]
     (Tbl.find? s.vctx 0).isSome && granted s 0 0 0 4088 8 && !regionLost s 0 4088 && !s.poisoned 4088 8) &&
    (let s := bload (.ldb 8 1 0 0 3) 0 [(3, { dst := 1, addrs := [(0, 4088)], size := 8 })]
     decide (4088 % 2 ^ 45 < 63 * 64 + 64) && decide (63 * 64 < 4088 % 2 ^ 45 + 8) && bit s.place.stackLive (stackOf (63 * 64)) &&
       !s.poisoned (4088 % 2 ^ 45) 8) &&
    (let s := { bload (.ldb 8 1 0 0 3) 0 [(3, { dst := 1, addrs := [(0, 4088)], size := 8 })] with poison := [63] }
     granted s 0 0 0 4088 8 && s.poisoned 4088 8) &&
    (let s := { bload (.ldb 8 1 0 0 3) 0 [(3, { dst := 1, addrs := [(0, 4088)], size := 8 })] with regions := [] }
     !granted s 0 0 0 4088 8) &&
    (let s := bload (.ldb 8 1 0 0 3) 0 [(3, { dst := 1, addrs := [(0, 2 ^ 45)], size := 8 })]
     (boardGranules (2 ^ 45) 8).any (fun g => (remoteGot s (.load 0 0 3) g).isNone)) = true := by decide +kernel

/-! Queries, replies and trees. -/

theorem witness_query_frame :
    (rxAlive net0 0 && decide (64 ≤ qframe.length) && queryIp net0 qframe (parsePkt net0.dev.tpid qframe) == some (ipOf qframe) &&
      !rxBlocked net0 0 && (net0.port 0).st != .opened && sqfOk (udpPayload qframe (ipOf qframe)) &&
      !admitsPort net0 5 0 (parsePkt net0.dev.tpid qframe) && (findFlow net0 false (ipOf qframe).src 9).isNone) = true := by decide +kernel
/-- A host query descriptor of 28 bytes and one of the most. -/
def hq (n : Nat) : Bytes := zeros 8 ++ leBytes 4 n ++ zeros 4 ++ leBytes 8 77 ++ zeros 40
theorem witness_host_query :
    ([28, 262672].all (fun n =>
      let s := up.updFn 0 (fun f => { f with queryQ := [(3, [hq n])] })
      Tbl.getD (s.fn 0).queryQ 3 [] == [hq n] && s.live && le (hq n) 0 8 % 4 == 0 && le (hq n) 8 4 == n &&
        allZero (slice (hq n) 0x0C 4) && allZero ((hq n).drop 0x18))) &&
    sqfOk (padTo 28 (sqf.take 28)) = true := by decide +kernel
theorem witness_verdicts :
    ((Tbl.find? (rqs rq).reqs 0 == some rq && rq.verdict.isNone && rq.checksGood) &&
    (let q := { rq with checksGood := false }
     Tbl.find? (rqs q).reqs 0 == some q && (q.checksGood && true) == false) &&
    (let q := { rq with retractAt := some 0 }
     Tbl.find? (rqs q).reqs 0 == some q && decide (0 ≤ (rqs q).now))) = true := by decide +kernel
/-- A request held one number ahead of a flow's gap whose wait is over. -/
def gap : State :=
  { rqs { rq with handle := some 16 } with cycle := 100, flows := [(16, { nextSeq := 2, gapEnd := 100 })] }
theorem witness_gap :
    (match Tbl.find? gap.flows 16 with
     | some f => f.gapEnd != 0 && decide (f.gapEnd ≤ gap.cycle) && (flowReqs gap 16).map Prod.fst == [0] &&
         (flowReqs gap 16).all (fun p => heldAhead f p.2 && p.2.verdict.isNone && seqDiff f p.2.seq == 1)
     | none => false) = true := by decide +kernel
/-- A request whose first reply may be built, its record ready. -/
def built : State := { rqs { rq with verdict := some true, recs := [{ qid := 1, thread := some 0, ready := true }] } with cycle := 1001 }
theorem witness_reply :
    (match Tbl.find? built.reqs 0 with
     | some q => mayBuild built 0 q && !q.allBuilt && q.verdict != some false && q.released && (q.recs.take 0).all QRec.built &&
         decide (thr.tDeadline < built.cycle)
     | none => false) = true := by decide +kernel
theorem witness_presentation :
    (let t := { thr with prepd := [(0, 0x3F800000)] }
     let s := treeState t
     (sliceOf s t 0).isSome && Tbl.find? t.prepd 0 == some 0x3F800000 && (waitingPreps s t 0).contains 0 &&
       (match sliceOf s t 0 with
        | some x => lanesFree s 0 t.tArrive (lanesOf treeImage x 0) && decide ((x.comps.map CompPl.bit).Nodup)
        | none => false)) = true := by decide +kernel
/-- A queued lookup, with one, no and two matching entries. -/
def lookup (b : Tbl BankEntry) : State := { treeState { thr with queued := [0], pvec := [(0, true)] } with banks := b }
theorem witness_lookup :
    ([([(0, ruleEntry 0 1 0), (1, ruleEntry 1 1 0)], 1), ([], 0), ([(0, ruleEntry 0 0 0), (1, ruleEntry 1 1 0)], 2)].all
      (fun (p : Tbl BankEntry × Nat) =>
      let s := lookup p.1
      let t := { thr with queued := [0], pvec := [(0, true)] }
      match treePlace s t 0 with
      | some (x, pl) => (treeBanks treeImage pl).all (fun k => bankServes s 0 k && bankTurn s 0 k t.tArrive) &&
          (sumsNeeded treeImage 0 t x.block).all (sumsFree s treeImage t) && !imgOrdered treeImage &&
          (treeHits s treeImage x pl (treeKey treeImage x 0 (fun b => Tbl.getD t.pvec (x.block * 4096 + b) false))).length == p.2
      | none => false)) = true := by decide +kernel
theorem witness_margin :
    ([thr, { thr with fault := true }, { thr with replayed := true }].all (fun t =>
      let t := { t with matched := [(0, 1)] }
      imgKind treeImage == 0 && allLeaves (treeState t) t treeImage && imgNout treeImage == 1 && summed (treeState t) treeImage t &&
        marginOk (marginOf treeImage t 0) (boundOf treeImage 0) && !marginOk (0x7FC00000 % 2 ^ 32) (boundOf treeImage 0)) &&
     (let img := treeImg 1 0
      let t := { thr with matched := [(0, 1)] }
      let s := treeState t img
      let many := { s with threads := (0, t) :: (upTo 16).map (fun i => (i + 1, { thr with sumFrom := some 0 })) }
      allLeaves s t img && imgOrdered img && sumTurn s 0 t && decide (16 ≤ summing many 0) &&
        summed { s with cycle := 1 } img { t with sumFrom := some 0 } && !summed s img { t with sumFrom := some 0 }) &&
     (let img := treeImg 0 3
      let t := { thr with matched := [(0, 1)] }
      allLeaves (treeState t img) t img && imgLink img == 3 && (chooseVse (treeState t img) 0 1).isSome && okExc (some 1) && okExc none &&
        marginOk (marginOf img t 0) (boundOf img 0))) = true := by
  decide +kernel

theorem witness_frames :
    ((let s := { net0 with ports := [(0, { fport with replyQ := [tf (.reply 0)] })] }
      (s.port 0).cur.isNone && txAlive s 0 && (pickFrame (fillTokens s 0) 0 ((fillTokens s 0).port 0)).isSome) &&
     (let s := { net0 with ports := [(0, { fport with cur := some (tf .hello, 0) })] }
      decide (0 ≤ s.now) && !awaitsVerdict s (tf .hello)) &&
     (let s := { net0 with ports := [(0, { fport with cur := some (tf .hello, 1) })] }
      decide (s.now < 1)) &&
     (let f := { tf (.reply 0) with gate := some 0 }
      let s := { rqs rq with ports := [(0, { fport with cur := some (f, 0) })] }
      awaitsVerdict s f)) = true := by decide +kernel
/-- A row in a batch on block 0. -/
def rowIn (c : Tbl Nat) : Thread := { thr with phase := .batch, parts := [0], colRow := c }
theorem witness_arrays :
    ((let s := arr false
      (arrayWaiters s 0 0 0).map Prod.fst == [0] && decide (0 + batchWait (s.verOf thr).image ≤ s.cycle) && (s.block 0).batch.isNone &&
        !(s.block 0).fenced && !s.power.throttle && s.power.st == 0 && !s.power.fenced) &&
     (let s := arr true
      (arrayWaiters s 0 0 0).map Prod.fst == [0] && (s.block 0).gated && hasCredit s) &&
     (let s := arr true
      !hasCredit { s with power := { s.power with starts := (upTo 1000).map (fun _ => 0) } }) &&
     ([(1, []), (2, []), (2, [(1, 7)])].all (fun (p : Nat × Tbl Nat) =>
      let s := { arr false (rowIn p.2) p.1 with blocks := [(0, { batch := some ⟨0, 0, 0, [0]⟩ })] }
      let l := layerAt (s.verOf thr).image 0
      (s.block 0).batch == some ⟨0, 0, 0, [0]⟩ && Tbl.find? s.threads 0 == some (rowIn p.2) && l.prog != 0xFFFF && l.lkind == 1 &&
        l.n == p.1 && layerPart s (rowIn p.2) 0 == some { layer := 0 })) &&
     (let s := { arr false with now := 2000000 }
      !(s.block 0).gated && (s.block 0).batch.isNone && decide ((s.block 0).lastRow + 2000000 ≤ s.now) && hasCredit s)) = true := by
  decide +kernel
theorem witness_bags :
    ([(1, true), (2, false)].all (fun (p : Nat × Bool) =>
      let s := bagState p.1
      match Tbl.find? s.threads 0 with
      | some t =>
        let v := s.verOf t
        let d := bagAt v.image 0 0
        t.phase == .bags && !t.done && !Tbl.has t.bags 0 && (layerAt v.image 0).nbag == p.1 &&
          (bagRows v.image t.raw d).getD [] == [0] && (layerAt v.image 0).prog != 0xFFFF &&
          ((upTo p.1).all (fun j => j == 0 || Tbl.has t.bags j)) == p.2 &&
          (match readBoard s (.bag 0 0 0) 0 0 4 [(0, 0)], readBoard { s with poison := [0] } (.bag 0 0 0) 0 0 4 [(0, 0)],
             readBoard { s with regions := [] } (.bag 0 0 0) 0 0 4 [(0, 0)] with
           | .data _, .poison 0, .denied 0 => true
           | _, _, _ => false)
      | none => false)) = true := by decide +kernel

/-- `up` with port 0 in this state. -/
def up0 (p : Port) : State := { net0 with ports := [(0, p)] }
/-- A frame with its FCS. -/
def fr (b : Bytes) : Bytes := withFcs true (padTo 60 b)
/-- PAUSE and PFC frames. -/
def pauseF : Bytes := fr (ethHdr 0x0180C2000001 2 none 0x8808 ++ beBytes 2 1 ++ beBytes 2 3)
def pfcF : Bytes := fr (ethHdr 0x0180C2000001 2 none 0x8808 ++ beBytes 2 0x0101 ++ beBytes 2 3 ++ beBytes 2 5 ++ beBytes 2 0)

theorem witness_ports :
    ([PortSt.down, .forwarding].all (fun st =>
      let s := { up0 { fport with st := st, remoteFault := true } with now := 10 ^ 13 }
      portExists s 0 && (s.port 0).cfg.enable && !s.power.fenced && decide (s.power.st ≤ 1) &&
        !s.place.lost.any (fun l => l.obj == .port 0) && !dark s 0 &&
        decide ((s.port 0).physSince + (s.port 0).cfg.linkHold * 1000000000 ≤ s.now) && portUp (s.port 0) == (st == .forwarding)) &&
     (portExists net0 0 && (net0.port 0).cfg.enable && portUp (net0.port 0))) = true := by decide +kernel
theorem witness_mac :
    (([fr [], pauseF.take 63, zeros 64, pauseF].map (fun f => (ctlAlive net0 0, macControl net0 0 f)) ==
        [(true, none), (true, none), (true, none), (true, some 1)]) &&
     fcsOk (fr []) && !fcsOk (zeros 64) &&
     (let s := up0 { fport with cfg := { fport.cfg with maxFrame := 63 } }; decide ((s.port 0).cfg.maxFrame < (fr []).length) &&
       macControl s 0 (fr []) == none) &&
     ([0, 1, 2].all (fun m =>
       let s := up0 { fport with cfg := { fport.cfg with fcMode := m, pfcClasses := 1 } }
       macControl s 0 pauseF == some 1 && macControl s 0 pfcF == some 0x0101 && bit (be pfcF 16 2) 0 && bit (be pfcF 16 2) 1 &&
         bit (s.port 0).cfg.pfcClasses 0 && !bit (s.port 0).cfg.pfcClasses 1)) &&
     ([([], false), ([(0, 1)], true)].all (fun (p : List (Nat × Nat) × Bool) =>
       let y := { fport with pause := { loads := p.1 }, pfc := [(7, { loads := p.1 })] }
       pausedNow net0 y == p.2 && (Tbl.getD y.pfc 7 {}).runs 0 == p.2)) &&
     (let s := { up0 { fport with pause := { loads := [(1, 5)] }, pfc := [(7, { loads := [(1, 5)] })], xoff := [(0, 5), (8, 5)] } with now := 5 }
      (s.port 0).pause.loads.all (fun q => decide (q.1 ≤ s.now)) && !pausedNow s (s.port 0) &&
        (Tbl.find? (s.port 0).pfc 7).any (fun x => x.loads.all (fun q => decide (q.1 ≤ s.now)) && !x.runs s.now) &&
      Tbl.find? (s.port 0).xoff 8 == some 5 && (s.port 0).cfg.macAddr != 0 && portUp (s.port 0)) &&
     decide (5 < 5 + fport.cfg.pauseQuanta * quantumPs net0 0 / 2) && decide (5 + fport.cfg.pauseQuanta * quantumPs net0 0 / 2 ≤ 10 ^ 13)) = true := by decide +kernel

/-- The HELLO that `net0` itself sends on port 0, and one with a damaged check word. -/
def helloB (ok : Bool) : Bytes := if ok then helloPayload net0 0 else helloPayload net0 0 |>.dropLast |>.concat 0
/-- Broadcast to the first Fold port with TTL 1 (R174). -/
def helloF (ok : Bool) : Bytes :=
  withFcs true (ethHdr 0xFFFFFFFFFFFF 2 none 0x0800 ++ ip4Hdr ipB (mapped4 0xFFFFFFFF) 0 1 (8 + (helloB ok).length) ++
    udpDgram false ipB (mapped4 0xFFFFFFFF) 5000 5000 (helloB ok))
theorem hello_mac (ok : Bool) : macGood net0 0 (helloF ok) = true := by
  unfold macGood
  rw [show fcsOk (helloF ok) = true from fcsOk_append _]
  cases ok <;> decide +kernel
theorem witness_hello :
    ([true, false].all (fun ok => match foldFrame net0 0 (helloF ok) with
      | some (ip, x) => foldLegal (helloF ok) ip x && fTy x.p == 7 && (net0.port 0).cfg.foldEn &&
          (lengthsOk (helloF ok) ip && (udpCsum (helloF ok) ip == 0 || udpSumOk (helloF ok) ip)) &&
          helloIp net0 0 (helloF ok) ip && tbcOk x.p == ok && byteAt x.p 40 / 16 == 1
      | none => false)) = true := by decide +kernel
/-- An LLDP frame of chassis, port and `n` TTL TLVs. -/
def lldpF (n : Nat) : Bytes :=
  fr (ethHdr 0x0180C200000E 2 none 0x88CC ++ beBytes 2 (512 + 2) ++ [7, 1] ++ beBytes 2 (1024 + 2) ++ [7, 2] ++
    (upTo n).flatMap (fun _ => beBytes 2 (1536 + 2) ++ beBytes 2 120))
theorem witness_lldp :
    ([0, 1].all (fun n =>
      let f := lldpF n
      let k := parsePkt net0.dev.tpid f
      let b := (f.take (f.length - 4)).drop k.l3
      rxAlive net0 0 && macGood net0 0 f && k.etype == 0x88CC && k.dmac == 0x0180C200000E && lldpTlv 1 b.length b == some [7, 1] &&
        lldpTlv 2 b.length b == some [7, 2] && lldpTlv 3 b.length b == (if n = 0 then none else some [0, 120]))) = true := by decide +kernel
theorem witness_hello_tx :
    net0.live = true ∧ net0.power.st ≤ 1 ∧ Tbl.sorted net0.ports = true ∧
    (∀ w, net0.place.helloAt = some w → w + net0.dev.helloPeriod * 1000000000 ≤ net0.now) ∧
    (portExists net0 0 && portUp (net0.port 0) && (net0.port 0).cfg.foldEn && (net0.port 0).cfg.macAddr != 0) = true := by
  decide +kernel

/-- Ports 0 and 8 forward; routes to 10.0.0.9 by the next hop on port 8 or to drop, and VLAN 1's station 9 on port 8. -/
def fwdS (rk : Nat) (st : PortSt) (routes : Bool) : State :=
  { net0 with
    ports := [(0, fport), (8, { fport with st := st })],
    fwd := { ip4 := if routes then [(ip4Key 0 32 0x0A000009, ⟨rk, 4, 0⟩)] else [], nextHop := [(4, ⟨8, 7, 0⟩)],
             l2 := [(fport.cfg.nativeVlan * 2 ^ 48 + 9, ⟨2, 8, 0⟩)], vlan := [(fport.cfg.nativeVlan * 1024 + 8, true)] } }
/-- An IPv4 frame to 10.0.0.9. -/
def ipF (dmac ttl : Nat) : Bytes :=
  fr (ethHdr dmac 2 none 0x0800 ++ ip4Hdr ipB (mapped4 0x0A000009) 0 ttl 8 ++ udpDgram false ipB (mapped4 0x0A000009) 7 7 [])
/-- What FramesForward asks of every frame. -/
def fwdAny (s : State) (f : Bytes) : Bool :=
  let k := parsePkt s.dev.tpid f
  rxAlive s 0 && decide (64 ≤ f.length) && k.etype != 0x8808 && (queryIp s f k).isNone && (foldIp s 0 f k).isNone && !badQueryHdr s k && !isLldp k
/-- And of a frame that port 0 forwards. -/
def fwdGood (s : State) (f : Bytes) : Bool :=
  let k := parsePkt s.dev.tpid f
  let body := (f.take (s.port 0).cfg.maxFrame).take (min f.length (s.port 0).cfg.maxFrame - 4)
  fwdAny s f && !routerLost s k.dmac && !rxBlocked s 0 && macGood s 0 f && (ptpEvent s.dev.tpid body).isNone && k.etype != 0x88F7 &&
    (match k.ip with | some ip => ip.v6 || ip.hdrOk | none => true)
/-- The frame `f` of class 0 has room on port 8. -/
def roomB (s : State) (f : Bytes) : Bool :=
  decide (wireLen f ≤ (s.port 8).cfg.maxFrame) &&
    decide ((queueCells (s.port 8) 0 : Int) * 16 < (poolCells s (dieOf 8) - (poolUsed s (dieOf 8) : Nat)) * 2 ^ s.dev.alpha.getD 0 4)
theorem witness_forward_any :
    (fwdAny { fwdS 0 .forwarding true with ports := [(0, { fport with st := .blocking })] } (ipF fport.cfg.macAddr 64) &&
      rxBlocked { fwdS 0 .forwarding true with ports := [(0, { fport with st := .blocking })] } 0) = true := by decide +kernel
theorem witness_forward_routed :
    ([(0, PortSt.forwarding, true, 64), (0, .down, true, 2), (4, .forwarding, true, 2), (0, .forwarding, true, 1),
      (0, .forwarding, false, 64)].all (fun (p : Nat × PortSt × Bool × Nat) =>
      let s := fwdS p.1 p.2.1 p.2.2.1
      let f := ipF fport.cfg.macAddr p.2.2.2
      let k := parsePkt s.dev.tpid f
      let body := f.take (f.length - 4)
      fwdGood s f && routerMac s k.dmac && frameClass s 0 k == 0 &&
      (match k.ip with
       | some ip => ip.ttl == p.2.2.2 && roomB s (routed s body k ip ⟨8, 7, 0⟩ 0) &&
           (lookupIp s (s.port 0).cfg.vrf ip.v6 ip.dst ==
            (if p.2.2.1 then some (3, ip4Key 0 32 0x0A000009, ⟨p.1, 4, 0⟩) else none)) && !entryLost s 3 (ip4Key 0 32 0x0A000009) &&
           Tbl.find? s.fwd.nextHop 4 == some ⟨8, 7, 0⟩ && !entryLost s 5 4 && fwdLive s 8 == (p.2.1 == .forwarding)
       | none => false))) = true := by decide +kernel
theorem witness_forward_bridged :
    ([(9, PortSt.forwarding), (9, .down), (0x0180C2000011, .forwarding), (10, .forwarding)].all (fun (p : Nat × PortSt) =>
      let s := fwdS 0 p.2 false
      let f := ipF p.1 64
      let k := parsePkt s.dev.tpid f
      let vlan := fport.cfg.nativeVlan
      fwdGood s f && !routerMac s k.dmac && k.tags.isEmpty && roomB s (bridged s (f.take (f.length - 4)) k vlan 8) &&
        (if p.1 = 9 then !macGroup k.dmac && Tbl.find? s.fwd.l2 (vlan * 2 ^ 48 + k.dmac) == some ⟨2, 8, 0⟩ &&
           !entryLost s 1 (vlan * 2 ^ 48 + k.dmac) && !entryLost s 2 (vlan * 1024 + 8) && fwdLive s 8 == (p.2 == .forwarding)
         else (macGroup k.dmac || (Tbl.find? s.fwd.l2 (vlan * 2 ^ 48 + k.dmac)).isNone) && !Tbl.has s.fwd.vlan (vlan * 1024 + 1023)))) = true := by
  decide +kernel

/-- The transmit descriptor of a 60 B frame on a port. -/
def txd (port : Nat) : Bytes := zeros 8 ++ leBytes 2 60 ++ leBytes 2 port ++ zeros 52
/-- Function 0 with one frame to send, on port 0 or management port 0. -/
def cpS (port : Nat) (p : Port) (held : List (Nat × Nat)) : State :=
  { up0 p with fns := [(0, { bme := true, txQ := [txd port] })],
               mgmts := [(0, { owner := some 0, pause := { loads := held } })] }
theorem witness_control_plane :
    ([PortSt.forwarding, .down].all (fun st =>
      let s := cpS 0 { fport with st := st } []
      (s.fn 0).txQ == [txd 0] && s.live && !cpTxBad s (txd 0) && portOf (le (txd 0) 10 2) == 0 && portExists s 0 &&
        !bit (le (txd 0) 10 2) 15 && portUp (s.port 0) == (st == .forwarding))) = true ∧
    cpTxBad (cpS 0x8002 fport []) (txd 0x8002) = true ∧
    ([([(0, 1)], true), ([], false)].all (fun (p : List (Nat × Nat) × Bool) =>
      let s := cpS 0x8000 fport p.1
      !cpTxBad s (txd 0x8000) && bit (le (txd 0x8000) 10 2) 15 && !bit (byteAt (txd 0x8000) 13) 0 &&
      (Tbl.find? s.mgmts (le (txd 0x8000) 10 2 % 2)).map (fun (m : Mgmt) => (m.owner, m.pause.runs s.now)) ==
        some (some 0, p.2))) = true ∧
    (let s := cpS 0x8000 fport []
     okMgmt 0 && s.live && decide (s.power.st ≤ 2) && decide (64 ≤ (fr []).length) && decide ((fr []).length ≤ 9216) && fcsOk (fr []) &&
       be (fr []) 12 2 != 0x8808 && (Tbl.getD s.mgmts 0 {}).owner == some 0 && !s.canWrite 0 12) = true := by decide +kernel

/-- What ContributionsGather asks of every contribution. -/
def contribB (g : Group) (h : FHdr) : Bool :=
  frameB g h &&
  (match Tbl.find? g.members (fMember (fx h).p) with
   | some mem => mem.child == (h.ty == 2) && fromMember mem (fx h)
   | none => false)
def bmaxB (h : FHdr) : Bool :=
  let x := fx h
  bmaxOf ((foldElems (fFmt x.p) (x.p.drop 32) (min (fEcount x.p) (fmtCap (fFmt x.p)))).map Prod.fst) == fBmax x.p
def legalB (g : Group) (h : FHdr) : Bool :=
  let x := fx h
  let n := if h.ty == 2 then min 1024 (g.ecount (fBlock x.p) - 1024 * fSub x.p) else g.ecount (fBlock x.p)
  decide (fBlock x.p < g.nblk) && fFmt x.p == (if h.ty == 2 then 1 else g.inFmt) && fEcount x.p == n && n != 0 &&
    (h.ty == 2 || fSub x.p == 0)
/-- The contributor is active, the group not on hold before this step. -/
def activeB (g : Group) (h : FHdr) : Bool :=
  (match Tbl.find? g.members (fMember (fx h).p) with | some mem => mem.activeAt (fStep (fx h).p) | none => false) &&
    (g.st != 2 || decide (fStep (fx h).p < g.holdStep))
/-- From the member and from the child. -/
def twoHdrs : List FHdr := [ch false 1, ch true 3]
/-- A gathering block that holds nothing, and one that holds what `h` brings. -/
def gath (h : Option FHdr) : FBlock := { st := .gathering, held := h.toList.map (fun h => ⟨h.member, 0, fbody h, true, false⟩) }
theorem witness_contributions :
    (decide (0 < (Tbl.getD grp.res 0 (0, 0)).2) && (twoHdrs.map (fun h => { h with bmax := 1 })).all (fun h => contribB grp h && !bmaxB h) &&
     (twoHdrs.map (fun h => { h with ecount := 2 })).all (fun h => contribB grp h && bmaxB h && !legalB grp h) &&
     twoHdrs.all (fun h =>
       let g := { grp with members := mems.map (fun m => (m.1, { m.2 with untilStep := some 0 })) }
       contribB g h && bmaxB h && legalB g h && !activeB g h) &&
     twoHdrs.all (fun h =>
       [{ grp with oldest := 1 }, { grp with window := 0 }, { grp with st := 2, holdStep := 1, blocks := [(0, gath (some h))] },
        { grp with blocks := [(0, gath none)] }, grp].all (fun g => contribB g h && bmaxB h && legalB g h && activeB g h) &&
       (fx h).pos grp == 0 && decide (grp.oldest + grp.window > 0) &&
       (gath (some h)).held.any (fun y => y.member == fMember (fx h).p && y.sub == fSub (fx h).p)) &&
     twoHdrs.all (fun h =>
       [none, some 0].all (fun w =>
         let g := { grp with st := 2, holdStep := 0, members := mems.map (fun m => (m.1, { m.2 with holdAt := w })) }
         contribB g h && bmaxB h && legalB g h && (match Tbl.find? g.members (fMember (fx h).p) with
           | some mem => mem.activeAt (fStep (fx h).p) && decide (g.holdStep ≤ fStep (fx h).p) | none => false))) &&
     twoHdrs.all (fun h =>
       [{ st := .committed }, { st := .ready }, { st := .emitting }, { st := .sent }, { st := .sent, result := some (fbody h) }].all
         (fun (f : FBlock) =>
         let g := { grp with blocks := [(0, f)] }
         contribB g h && bmaxB h && legalB g h && activeB g h && !f.resultBad && f.held.isEmpty)) &&
     decide (fmtSlots grp.inFmt ≤ slotsFree (fs grp) (grp.accOf 0 / 32)) && sideFree (fs grp) 0 == 16384 &&
     decide ((fs grp).now < 0 + 1000000000) && decide (0 + 1000000000 ≤ ({ fs grp with now := 10 ^ 10 } : State).now) &&
     net0.place.spillPress.isEmpty) = true := by decide +kernel
theorem witness_damaged (child : Bool) : Takes (fs grp) 0 (ff (ch child (if child then 3 else 1)) false) (if child then 2 else 1)
    (fx (ch child (if child then 3 else 1)) false) := by
  cases child
  · exact (frame_of (g := grp) (h := ch false 1) (ok := false) (anyGen := false) (by decide +kernel) (by decide)).1
  · exact (frame_of (g := grp) (h := ch true 3) (ok := false) (anyGen := false) (by decide +kernel) (by decide)).1

/-- A block of two zero contributions that is leaving, and its group. -/
def eb : FBlock :=
  { st := .emitting, held := [⟨1, 0, fbody (ch false 1), true, false⟩, ⟨2, 0, fbody (ch false 2), true, false⟩], elems := [(0, {})],
    slots := [0] }
def two : Group := { grp with members := mems.take 2 }
/-- The same with a sum beyond the exponents its headers allow. -/
def ebr : FBlock :=
  { eb with held := [⟨1, 0, fbody { ch false 1 with bmax := 0 }, true, false⟩, ⟨2, 0, fbody { ch false 2 with bmax := 0 }, true, false⟩],
            elems := [(0, { anchored := true, anchor := 50, window := 633825300114114700748351602688 })] }
def twor : Group := { two with expHi := -10 }
def endsOf (g : Group) (f : FBlock) (bad : List Nat) : List Nat × Bool :=
  let e := checkEnds 0 0 { g with blocks := [(0, f)] } f bad
  (e.flatMap CheckEnd.range, e.any CheckEnd.fault)
theorem witness_checks :
    (([eb, { eb with lastFail := some (true, []) }, { eb with lastFail := some (false, []) }].all (fun f =>
       f.st == .emitting && firstToLeave two 0 f && endsOf two f [] == ([], false) && (endsOf two f [0]).2)) &&
     ([ebr, { ebr with lastFail := some (true, [0]) }, { ebr with lastFail := some (true, [1]) }].all (fun f =>
       f.st == .emitting && firstToLeave twor 0 f && endsOf twor f [] == ([0], false))) && okExc (some 1) && okExc none &&
     two.st != 3 && two.st != 1 && (two.expected (two.stepAt 0)).any (fun m => !eb.acks.contains m.1) && !((fs two).block eb.acc).retired &&
     !((fs two).block eb.acc).fenced) = true := by
  decide +kernel
/-- A state with one spilled block beside one that holds `n` slots of the die. -/
def sp (n : Nat) (f : FBlock) : State := fs { two with blocks := [(0, { f with spilled := true, slots := [] }), (1, { slots := upTo n })] }
/-- Group 0 is in this state next. -/
def goesOnTo (st : Nat) : Host.Outcome State Fault Refusal → Bool
  | .next t => (Tbl.find? t.groups 0).map Group.st == some st
  | _ => false
theorem sp_full (n : Nat) : slotsFree (sp n {}) 0 = 3640 - n := by
  simp [slotsFree, slotsUsed, dieBlocks, sp, fs, upTo]
theorem witness_spills :
    (((dieBlocks (fs two) 0).filter (fun x => x.2.2.spilled)).isEmpty &&
     ([0, 1].all (fun n =>
       let s := sp n { st := .gathering }
       let l := (dieBlocks s 0).filter (fun x => x.2.2.spilled)
       let miss : Nat × Nat × FBlock → Nat := fun x =>
         match Tbl.find? s.groups x.1 with | some g => missingOf g x.2.1 x.2.2 | none => 0
       (sortBy miss l).head? == some (0, 0, { st := .gathering, spilled := true }) &&
       s.fblock 0 0 == some { st := .gathering, spilled := true } && ({} : FBlock).held.all (fun h => h.added) &&
       !({} : FBlock).badHeld && decide (wideCount [] ≤ sideFree s 0)))) = true ∧
    fmtSlots two.inFmt ≤ slotsFree (sp 0 {}) 0 ∧ ¬ fmtSlots two.inFmt ≤ slotsFree (sp 3640 {}) 0 ∧
    (let f : FBlock := { st := .gathering, held := [{ member := 0, sub := 0, payload := [], added := false, damaged := true }] }
     let s := sp 1 f
     let l := (dieBlocks s 0).filter (fun x => x.2.2.spilled)
     l.map (fun x => (x.1, x.2.1)) == [(0, 0)] && (Tbl.find? s.groups 0).map Group.st == some 0 && decide (1 ≤ slotsFree s 0) &&
       [false, true].all (fun bad => f.held.any (fun h => (h.damaged || !tbcOk h.payload) && (bad || !h.added))) &&
       goesOnTo 3 (execSpillRestore 0 false s)) = true := by
  rw [sp_full, sp_full]; decide +kernel

/-- A block whose sum has gone up, or whose result is known. -/
def sentB (r : Option Bytes) : FBlock := { eb with st := .sent, left := true, result := r }
/-- A result of group 0, an acknowledgement of member 1 (R177). -/
def rh : FHdr := { ch false 0 with ty := 3, ecount := 1 }
def ah : FHdr := { ty := 4, group := 0, member := 1, ecount := 1 }
/-- The block of position 0 as in ResultsCommit. -/
def atB (g : Group) (h : FHdr) (f : FBlock) : Bool :=
  frameB g h && decide (fBlock (fx h).p < g.nblk) && decide (g.oldest ≤ (fx h).pos g) && (fx h).pos g == 0 && f.st == .sent
theorem witness_results :
    (frameB two rh && !fromParent two (fx rh) && frameB inner rh && fromParent inner (fx rh) && (Tbl.find? inner.blocks ((fx rh).pos inner)).isNone &&
     [none, some [0#8]].all (fun r =>
       let g := { inner with blocks := [(0, sentB r)] }
       atB g rh (sentB r) && frameB g rh false && fromParent g (fx rh) &&
       (g.expected (g.stepAt 0)).any (fun q => !(sentB r).acks.contains q.1)) &&
     (let g := { inner with blocks := [(0, eb)] }
      frameB g rh && fromParent g (fx rh) && eb.st != .sent)) = true := by decide +kernel
theorem witness_acks :
    (frameB { two with members := [(1, { child := false, port := 8, udp := 5000, replica := 0, addr := ipB })] } ah &&
     !fromMember { child := false, port := 8, udp := 5000, replica := 0, addr := ipB } (fx ah) &&
     fEcount (fx ah).p == 1 && frameB two ah false && frameB two { ah with ecount := 0 } && fEcount (fx { ah with ecount := 0 }).p == 0 && fMember (fx ah).p == 1 && mems.any (fun m => m.1 == 1 && fromMember m.2 (fx ah)) &&
     [(none, false), (some [0#8], false), (some [0#8], true)].all (fun (p : Option Bytes × Bool) =>
       let f := { sentB p.1 with acks := if p.2 then [2] else [] }
       let g := { two with blocks := [(0, f)] }
       atB g ah f && (g.expected (g.stepAt 0)).any (fun q => q.1 != 1 && !f.acks.contains q.1) == !p.2 &&
         (g.expected (g.stepAt 0)).all (fun q => q.1 == 1 || f.acks.contains q.1) == p.2 && g.oldest == 0)) = true := by decide +kernel

/-- A NOTICE of a code, from the parent or member `m`. -/
def nh (code : Nat) (m : Nat := 0) : FHdr := { ty := 6, group := 0, member := m, arg := code * 2 ^ 24 }
theorem witness_notices :
    ([1, 3, 5, 7, 8].all (fun c => [0, 2].all (fun st =>
        let g := { inner with st := st }
        frameB g (nh c) && fromParent g (fx (nh c)) && fCode (fx (nh c)).p == c && Tbl.sorted g.members)) &&
     [sentB none, sentB (some [0#8]), eb, { sentB none with held := [⟨1, 0, [], true, true⟩] }, { sentB none with held := [] }].all (fun f =>
        let g := { inner with blocks := [(0, f)] }
        [1, 3].all (fun c => frameB g (nh c) && fCode (fx (nh c)).p == c && (fx (nh c)).pos g == 0 &&
          decide (fSub (fx (nh c)).p < g.subs (g.blockAt 0)) && decide (0 < g.subs (g.blockAt 0)))) &&
     ({ sentB none with held := [⟨1, 0, [], true, true⟩] } : FBlock).badHeld &&
     !({ sentB none with held := [] } : FBlock).badHeld &&
     [0, 4, 6, 12].all (fun c => [false, true].all (fun ok => frameB inner (nh c) ok && fCode (fx (nh c) ok).p == c)) &&
     [1, 2, 3, 5, 7, 8, 9, 10, 11].all (fun c => frameB inner (nh c) false && fCode (fx (nh c) false).p == c) &&
     [9, 10].all (fun c => [0, 2].all (fun st =>
        let g := { grp with st := st }
        frameB g (nh c 3) && fCode (fx (nh c 3)).p == c && g.members.any (fun m => m.2.child && fromMember m.2 (fx (nh c 3))))) &&
     (let g := { grp with blocks := [(0, sentB (some [0#8]))] }
      frameB g (nh 2 3) && fCode (fx (nh 2 3)).p == 2 && fMember (fx (nh 2 3)).p == 3 &&
        mems.any (fun m => m.1 == 3 && m.2.child && fromMember m.2 (fx (nh 2 3)))) &&
     (frameB two (nh 7) && !fromParent two (fx (nh 7)) && !two.members.any (fun m => m.2.child && fromMember m.2 (fx (nh 7)))) &&
     [0, 1].all (fun st =>
        let g := { inner with gen := 4, st := st }
        frameB g { nh 11 with gen := 5 } true true && fromParent g (fx { nh 11 with gen := 5 }) && fCode (fx { nh 11 with gen := 5 }).p == 11) &&
     [2, 9, 10].all (fun c => frameB two (nh c) && !fromParent two (fx (nh c)) &&
        !two.members.any (fun m => m.2.child && fromMember m.2 (fx (nh c))))) = true := by decide +kernel
/-- A held RESULT with its check word is bad exactly where its cells are. -/
theorem witness_held_result (b : Bool) :
    ({ sentB (some (fbody rh)) with resultBad := b } : FBlock).badResult (fbody rh) = b := by
  have h : tbcOk (fbody rh) = true := tbcOk_f rh true
  simp [FBlock.badResult, h]
/-- A fold datagram of TYPE 0 is no legal frame. -/
theorem witness_type_illegal : ∃ ip x, foldFrame net0 0 (udpFrame 0 5000 (fbody { ty := 0, group := 0 })) = some (ip, x) ∧
    foldLegal (udpFrame 0 5000 (fbody { ty := 0, group := 0 })) ip x = false ∧ rxBlocked net0 0 = false ∧
    (net0.port 0).st ≠ .opened := by
  refine ⟨fip 40, ⟨0, ipB, fbody { ty := 0, group := 0 }⟩, ?_⟩
  decide +kernel

/-- A DIGEST of replica 1 at a step. -/
def dh (step ecount : Nat) : FHdr := { ty := 5, group := 0, member := 2, arg := 1, step := step, ecount := ecount }
theorem witness_digests :
    (let g : Group := { two with k := 1, window := 64 }
     [(g, 31), (g, 32), ({ inner with k := 1 }, 32), ({ g with digests := [(1, ([(1, [0#8])], 0))] }, 32), ({ g with nreplica := 3 }, 32),
       ({ g with decided := [(1, [1])] }, 32)].all
      (fun (p : Group × Nat) =>
        let x := fx (dh 1 p.2)
        frameB p.1 (dh 1 p.2) && frameB p.1 (dh 1 p.2) false && p.1.members.any (fun m => fromMember m.2 x) &&
          (fEcount x.p == p.1.digestLen) == (p.2 == 32) &&
          fArg x.p % 65536 == 1 && fStep x.p == 1 && p.1.k != 0 && decide (p.1.k ≤ fStep x.p) && fStep x.p % p.1.k == 0 &&
          decide (1 < p.1.nreplica))) = true := by decide +kernel
/-- Two replicas agree, or none has a majority. -/
theorem witness_referee :
    ([[(0, [1#8]), (1, [1#8])], [(0, [1#8])], []].all (fun (d : Tbl Bytes) =>
      let g : Group := { two with nreplica := 2, digests := [(1, (d, 0))] }
      Tbl.find? (fs g).groups 0 == some g && Tbl.find? g.digests 1 == some (d, 0) && d.length ≤ g.nreplica && Tbl.sorted g.members &&
      ((d.map Prod.snd).all (fun v => decide (2 * (d.filter (fun p => p.2 == v)).length ≤ g.nreplica)) == (d.length != 2)) &&
      ((d.map Prod.snd).all (fun v => decide (g.nreplica < 2 * (d.filter (fun p => p.2 == v)).length)) == (d.length != 1)) && g.st != 2 &&
      decide ((fs g).now < 0 + g.digestWait * 1000000000) && decide (0 + g.digestWait * 1000000000 ≤ 10 ^ 15))) = true ∧
    (let g : Group := { two with st := 1, missing := [(3, 0)] }
     (3, 0) ∈ g.missing ∧ 0 + 100000000000 ≤ ({ fs g with now := 10 ^ 12 } : State).now ∧
       otherPath { fs g with now := 10 ^ 12 } 3 = none ∧ g.st ≠ 3) := by
  decide +kernel
/-- Above its group's RES a frame of each TYPE finds room in its class's share, and finds none. -/
theorem witness_above_res :
    ([ch false 1, ch true 3, rh, ah, dh 1 32, nh 7].all (fun h => frameB { grp with res := [] } h && fGroup (fx h).p == 0)) = true ∧
    withinRes (fs { grp with res := [] }) 0 0 = false ∧
    (let s := fs { grp with res := [] }
     decide (foldCells s 0 (groupTc s 0) + ceilDiv 200 256 ≤ (s.port 0).cfg.xoffTh.getD (groupTc s 0) 1024)) = true ∧
    (let s := { fs { grp with res := [] } with foldIn := [⟨0, 0, 1024, false, fx (ch false 1)⟩] }
     decide (foldCells s 0 (groupTc s 0) + 1 ≤ (s.port 0).cfg.xoffTh.getD (groupTc s 0) 1024) ||
       ((s.port 0).cfg.fcMode == 2 && lossless (s.port 0) (groupTc s 0))) = false := by decide +kernel

/-- Device 0 with link 0 to device 3 in this state. -/
def bl (k : Link) : State := { net0 with links := [(0, k)] }
def k0 : Link := { st := .active, farPos := 3, farValid := true, good := 255, activeMask := 255, width := 3, met := true }
/-- A packet from device 3 to device 0 with SEQ `q`, its payload `b`. -/
def bp (ty : Nat) (q : Nat := 0) (dst : Nat := 0) (relay : Bool := false) (code addr rid : Nat := 0) (b : Bytes := []) (tag : Nat := 7) : Bytes :=
  withCrc (withSeq (blpHdr ty 3 dst relay tag code addr rid) q ++ b)
/-- A packet kept for replay. -/
def kept (q : Nat) : BlpPkt := ⟨q, blpHdr 1 0 3 false 0 0 0 0⟩
theorem witness_packets :
    (linkRx (bl k0) 0 && !blpCrcOk ((bp 1).dropLast) && blpCrcOk (bp 1 1) && pkSeq (bp 1 1) == 1 && pkTy (bp 1 1) == 1 &&
     blpCrcOk (bp 0) && blpBad (bp 0) && blpBad (bp 10) && blpBad (bp 0 1) && pkSeq (bp 0) == 0 && pkSeq (bp 0 1) == 1 &&
     blpCrcOk (bp 0 1) && blpCrcOk (bp 6 1) && blpCrcOk (bp 7 1) && pkTy (bp 6 1) == 6 && pkTy (bp 7 1) == 7 &&
     [false, true].all (fun r => let s := bl { k0 with replay := [kept 1, kept 2], resume := r }
       (s.link 0).resume == r && (s.link 0).waiting.isEmpty && (s.link 0).deepSince.isNone && linkRx s 0 &&
         ackedRest (pkSeq (bp 7 1)) (s.link 0).replay == [kept 2]) &&
     (let s := bl { k0 with replay := [kept 1], replays := 8 }; ackedRest (pkSeq (bp 7 9)) (s.link 0).replay == [kept 1] && linkRx s 0) &&
     (let s := { bl { k0 with unacked := 1, replay := [kept 1] } with now := 8000000 }
      linkRx s 0 && decide ((s.link 0).unackedAt + 1000000 ≤ s.now) && decide ((s.link 0).lastAck + 8000000 ≤ s.now)) &&
     (let s := bl { k0 with unacked := 1 }; decide (s.now < (s.link 0).unackedAt + 1000000)) &&
     [(0, []), (0, [kept 1]), (8, [kept 1])].all (fun (p : Nat × List BlpPkt) =>
       let s := { bl { k0 with replay := p.2, replays := p.1 } with now := 8000000 }
       !(s.link 0).resume && decide ((s.link 0).lastAck + 8000000 ≤ s.now))) = true := by
  decide +kernel
/-- A packet for device 2, broken on its way in, while link 1 to device 2 is idle; one with a good CRC out of turn, and one that
only the code violations spoil. -/
theorem witness_discards :
    ((let s := { bl k0 with links := [(0, k0), (1, { k0 with farPos := 2 })] }
      let p := (bp 1 0 2).dropLast ++ [0xFF#8]
      linkRx s 0 && decide (20 ≤ p.length) && !blpCrcOk p && pkDst p != s.boot.boardPos && !pkRelay p && pkTy p == 1 &&
        pkSeq p == (s.link 0).rxSeq && linkTo s (pkDst p) == some 1 && (s.link 1).waiting.isEmpty && (s.link 1).maySend (p.take (p.length - 4))) &&
     blpCrcOk (bp 1 5) && pkSeq (bp 1 5) != k0.rxSeq && [0, 3].any (fun n => n != 0) && blpCrcOk (bp 1 0) &&
     (bl k0).blpReqs.isEmpty && (qmsgWaiters (bl k0) 0).isEmpty && (bl k0).groups.isEmpty) = true := by decide +kernel

/-- What BoardProtocolServes asks of every packet, but for its CRC. -/
def arrivesB (s : State) (p : Bytes) : Bool :=
  linkRx s 0 && decide (20 ≤ p.length) && pkSeq p == (s.link 0).rxSeq && blpLenOk p && !blpBad p
/-- The CRC of the packets built here is good. -/
theorem arrives_of {s : State} {b : Bytes} (c : arrivesB s (withCrc b) = true) :
    Arrives s 0 (withCrc b) ∧ blpLenOk (withCrc b) = true ∧ blpBad (withCrc b) = false := by
  simp only [arrivesB, Bool.and_eq_true, decide_eq_true_eq, beq_iff_eq, Bool.not_eq_true'] at c
  have h : (fcsBytes b).length = 4 := leBytes_length _ _
  refine ⟨⟨rfl, c.1.1.1.1, ?_, c.1.1.2⟩, c.1.2, c.2⟩
  have k := c.1.1.1.2
  unfold blpCrcOk
  rw [decide_eq_true k, Bool.true_and]
  simp [withCrc, h]
/-- RID of a control request, and of a thread's of function 0 and context 0 on the requester. -/
def ctrl : Nat := 2 * 2 ^ 30
/-- A granule of data and a device with 0 (poisoned or not), granted to device 3's function 0. -/
def mem0 (k : Link) (poison : Bool) : State :=
  { bl k with poison := if poison then [0] else [], regions := [(0, { base := 0, len := 64, owner := 3 * 256, ctx := 0 })] }
theorem witness_relay :
    ((let p := bp 1 0 2
      arrivesB (bl k0) p && pkDst p == 2 && (linkTo (bl k0) 2).isNone && !pkRelay p) &&
     (let p := bp 1 0 3
      arrivesB (bl k0) p && pkDst p == 3 && linkTo (bl k0) 3 == some 0 && !pkRelay p) &&
     (let p := bp 1 0 3 true
      arrivesB (bl k0) p && pkRelay p)) = true := by decide +kernel
/-- Where a request of a KIND at an address stands: here, in HBM, granted, poisoned. -/
def stands (s : State) (p : Bytes) : Bool × LocalAt × Bool × Bool :=
  let g := pkAddr p % 2 ^ 45 / 64 * 64
  (pkAddr p / 2 ^ 45 == s.boot.boardPos, localAt s g, tenantMay s p g, s.poisoned g 64)
theorem witness_board_reads :
    ([(false, 0, 0), (true, 0, 0), (false, 0, 64), (false, 0, 2 ^ 45), (false, ctrl, 64), (true, ctrl, 0), (false, ctrl, 2 ^ 45),
      (false, ctrl, 2 ^ 43)].map (fun (x : Bool × Nat × Nat) =>
        let s := mem0 k0 x.1
        let p := bp 1 0 0 false 0 x.2.2 x.2.1
        if arrivesB s p && pkTy p == 1 && pkDst p == s.boot.boardPos && ridKind p == x.2.1 / 2 ^ 30 then some (stands s p) else none)) =
      [some (true, .hbm, true, false), some (true, .hbm, true, true), some (true, .hbm, false, false), some (false, .hbm, true, false),
       some (true, .hbm, false, false), some (true, .hbm, true, true), some (false, .hbm, true, false), some (true, .none, false, false)] := by
  decide +kernel
/-- The control cores read a window and a register copy, and the local map has no hole there. -/
theorem witness_board_copies :
    ([(2 ^ 44, LocalAt.window), (0x180000000000, .regs 0 0), (0x180000005000, .regs 0 0x5000)].all (fun (x : Nat × LocalAt) =>
        let s := mem0 k0 false
        [1, 2].all (fun ty =>
          let p := bp ty 0 0 false 0 x.1 ctrl (if ty = 2 then zeros 64 else [])
          arrivesB s p && pkTy p == ty && pkDst p == s.boot.boardPos && ridKind p == 2 && pkAddr p / 2 ^ 45 == s.boot.boardPos &&
            localAt s (pkAddr p % 2 ^ 45 / 64 * 64) == x.2 && s.votes.isEmpty))) = true := by decide +kernel
theorem witness_board_writes :
    ([(0, 0), (ctrl, 0), (ctrl, 2 ^ 45), (ctrl, 2 ^ 43)].map (fun (x : Nat × Nat) =>
        let s := mem0 k0 true
        let p := bp 2 0 0 false 0 x.2 x.1 (zeros 64)
        if arrivesB s p && pkTy p == 2 && pkDst p == s.boot.boardPos && ridKind p == x.1 / 2 ^ 30 then some ((stands s p).1, (stands s p).2.1)
        else none)) = [some (true, .hbm), some (true, .hbm), some (false, .hbm), some (true, .none)] := by decide +kernel
theorem witness_board_atomics :
    ([(0, 1, false), (ctrl, 0, false), (ctrl, 4, false), (ctrl, 1, true), (ctrl, 1, false), (ctrl, 2, false), (ctrl, 3, false)].all
      (fun (x : Nat × Nat × Bool) =>
        let s := mem0 k0 x.2.2
        let p := bp 3 0 0 false x.2.1 0 x.1 (zeros 16)
        arrivesB s p && pkTy p == 3 && pkDst p == s.boot.boardPos && ridKind p == x.1 / 2 ^ 30 && pkCode p == x.2.1 &&
          stands s p == (true, .hbm, true, x.2.2) && s.poisoned 0 8 == x.2.2)) = true := by decide +kernel

/-- A request of a bag's thread to device 3 with TAG 7. -/
def outReq (issued : Option Nat) : State :=
  { bl k0 with blpReqs := [(3 * 4096 + 7, { src := .bag 0 0 0, addr := 0, rid := 0, link := 0, issued := issued })],
               threads := [(0, { thr with phase := .bags })], now := 100000000 }
/-- What waits for a granule of device 3. -/
def wants (src : BlpSrc) : BlpWait := { src := src, addr := 3 * 2 ^ 45, rid := 0 }
/-- Every kind of source that is still there, and one that is not; a request that may be issued, and one that waits for those on
another link. -/
theorem witness_requests :
    ((let s := { bl k0 with threads := [(0, { thr with phase := .bags })], vctx := [(0, { ctx with tags := [(3, { dst := 1, addrs := [], size := 8 })] })] }
      [BlpSrc.load 0 0 3, .bag 0 0 0, .write (zeros 64), .check (zeros 64), .aperture 0 0 0 4].all (fun w => srcAlive s w) &&
        !srcAlive s (.load 1 0 3)) &&
     [0, 1].all (fun l =>
       let s := { bl k0 with blpWait := [wants (.write (zeros 64))], blpReqs := [(3 * 4096, { src := .write [], addr := 0, rid := 0, link := l })] }
       populated s 3 && routeOf s 3 == some 0 && Tbl.freeKey s.blpReqs (3 * 4096) 4096 == some (3 * 4096 + 1) &&
         outstandingElsewhere s 3 0 == (l == 1)) &&
     (let s := { bl k0 with threads := [(0, { thr with phase := .bags })], blpWait := [wants (.bag 0 0 0)] }
      srcAlive s (.bag 0 0 0) && decide (bagReads s 0 0 < 2048))) = true := by decide +kernel
theorem witness_completions :
    ([4, 5].all (fun ty =>
        let s := outReq none
        let p := bp ty 0 0 false 0 0 0 (if ty = 4 then zeros 64 else [])
        arrivesB s p && pkTy p == ty && pkDst p == s.boot.boardPos && Tbl.has s.blpReqs (pkSrc p * 4096 + pkTag p) &&
          !Tbl.has (bl k0).blpReqs (pkSrc p * 4096 + pkTag p)) &&
     (let p := bp 8 0 0 false 0 40 0 (zeros 40)
      arrivesB (bl k0) p && pkTy p == 8 && pkDst p == 0 && (bl k0).live && (bl k0).power.st == 0) &&
     (Tbl.find? (outReq none).blpReqs (3 * 4096 + 7)).map BlpReq.issued == some none &&
     (Tbl.find? (outReq (some 0)).blpReqs (3 * 4096 + 7)).map BlpReq.issued == some (some 0) &&
       decide (0 + 100000000 ≤ (outReq none).now) && decide ((bl k0).now < 0 + 100000000)) = true := by decide +kernel
/-- A QMSG of a kind from block 5 of device 3 for thread 0, with one item. -/
def qmsg (kind rid : Nat) : Bytes :=
  bp 9 0 0 false 0 (kind * 65536 + 64) rid (zeros 4 ++ zeros 2 ++ zeros 2 ++ beBytes 2 1 ++ beBytes 1 5 ++ zeros 5 ++ zeros 48)
def far (img : Bytes) : State :=
  { bl k0 with
    models := [(0, { st := 2, vers := [(0, { image := img, replicas := [(0, { slices := [{ block := 5, dev := some 3 }] })] })] })],
    threads := [(0, thr)] }
theorem witness_partial_sums :
    ([(2, 0), (3, 1)].all (fun (x : Nat × Nat) =>
     let s := far (treeImg x.2 0)
     [0, 2 ^ 10].all (fun rid =>
     let p := qmsg x.1 rid
     arrivesB s p && pkTy p == 9 && pkDst p == 0 && be (pkBody p) 0 4 % 2 ^ 18 == 0 && be (pkBody p) 0 4 / 2 ^ 21 == 0 && be (pkBody p) 4 2 == thr.model && !thr.done &&
       !thr.remoteGot.contains (pkSrc p * 64 + byteAt (pkBody p) 10 % 64) &&
       (ridCtx p == thr.model && ridOwner p % 256 == (s.model thr.model).owner && ridKind p == 0) == (rid == 0) &&
       (replicaOf s thr).map (fun r => (r.slices.find? (fun y => y.dev == some (pkSrc p) && y.block == byteAt (pkBody p) 10 % 64)).isSome) == some true &&
       pkAddr p / 65536 % 16 == x.1 && imgOrdered (s.verOf thr).image == (x.2 == 1)))) = true := by decide +kernel
/-- Features for block 5 of this device, which holds a slice of device 3's model, all of them there and not. -/
theorem witness_features :
    (let g : GuestSlice := { image := treeImage, fn := 0, ctx := 0, slice := { block := 5 } }
     let s := bl k0
     let p := qmsg 1 0
     arrivesB s p && pkDst p == 0 && pkTy p == 9 && pkAddr p / 65536 % 16 == 1 && ridKind p == 0 && ridOwner p % 256 == g.fn && ridCtx p == g.ctx &&
       be (pkBody p) 4 2 == g.ctx && byteAt (pkBody p) 10 % 64 == g.slice.block && inService s 5 && imgNraw g.image == 1 &&
       (guestLeaves g.image g.slice [0]).isSome && ridCtx (qmsg 1 (2 ^ 10)) != g.ctx) = true := by
  decide +kernel
/-- Columns of layer 0 from block 5 of device 3: the last one, and one of two. -/
theorem witness_columns :
    ([1, 2].all (fun cols =>
      let y : Thread := { thr with phase := .array }
      let s := { bl k0 with
        models := [(0, { st := 2, vers := [(0, { image := image 1 [net 1 1 cols], replicas := [(0, { slices :=
          [{ block := 5, dev := some 3, layers := [{ layer := 0, cols := 1 }] }] })] })] })], threads := [(0, y)] }
      let p := qmsg 4 0
      arrivesB s p && pkTy p == 9 && pkDst p == 0 && be (pkBody p) 0 4 % 2 ^ 18 == 0 && be (pkBody p) 0 4 / 2 ^ 21 == 0 && be (pkBody p) 4 2 == y.model &&
        !y.done && !y.remoteGot.contains (pkSrc p * 64 + byteAt (pkBody p) 10 % 64) && ridCtx p == y.model &&
        ridOwner p % 256 == (s.model y.model).owner && ridKind p == 0 && pkAddr p / 65536 % 16 == 4 && byteAt (pkBody p) 11 == y.layer &&
        (let l := layerAt (s.verOf y).image y.layer
         l.prog != 0xFFFF && l.n == cols && be (pkBody p) 6 2 == 0 && be (pkBody p) 8 2 == 1) &&
        (match (replicaOf s y).map (fun r => r.slices.find? (fun z => z.dev == some (pkSrc p) && z.block == byteAt (pkBody p) 10 % 64)) with
         | some (some x) => x.layers.find? (fun q => q.layer == byteAt (pkBody p) 11) == some { layer := 0, first := 0, cols := 1 }
         | _ => false))) = true := by decide +kernel
/-- An input row for block 5 of this device, which holds a column of a layer of device 3's model: all of it there, and one of two. -/
theorem witness_rows :
    ([1, 2].all (fun k =>
      let g : GuestSlice := { image := image 1 [net 1 1 2 k], fn := 0, ctx := 0, slice := { block := 5, layers := [{ layer := 0, cols := 1 }] } }
      let s := bl k0
      let p := bp 9 0 0 false 0 (4 * 65536 + 64) 0 (beBytes 4 (3 * 2 ^ 21) ++ zeros 2 ++ zeros 2 ++ beBytes 2 1 ++ beBytes 1 5 ++ zeros 5 ++ zeros 48)
      arrivesB s p && pkDst p == 0 && pkTy p == 9 && pkAddr p / 65536 % 16 == 4 && be (pkBody p) 0 4 / 2 ^ 21 == 3 && ridKind p == 0 &&
        ridOwner p % 256 == g.fn && ridCtx p == g.ctx && be (pkBody p) 4 2 == g.ctx && byteAt (pkBody p) 10 % 64 == g.slice.block && inService s 5 &&
        g.slice.layers.find? (fun y => y.layer == byteAt (pkBody p) 11 && guestLayer (layerAt g.image y.layer)) == some { layer := 0, first := 0, cols := 1 } &&
        (layerAt g.image 0).k == k && be (pkBody p) 6 2 == 0 && be (pkBody p) 8 2 == 1)) = true := by decide +kernel
/-- A CPL of a granule that is being sent, and one that has gone; routes to device 3 direct and through device 2. -/
def cplP : Bytes := withSeq (blpHdr 4 0 3 false 7 0 64 0) 4 ++ zeros 64
theorem witness_being_sent (b : Bytes) : beingSent 0 b [.blp 0 (withCrc b)] = true := by simp [beingSent]
theorem witness_abort_routes :
    ((let s := bl { k0 with replay := [⟨4, cplP⟩] }
      linkRx s 0 && (match (s.link 0).replay.find? (fun p => p.seq == 4 && pkTy p.bytes == 4 && pkCode p.bytes == 0 && pkSrc p.bytes == s.boot.boardPos) with
       | some p => decide (pkAddr p.bytes % 2 ^ 45 < hbmSize) && !beingSent 0 p.bytes []
       | none => false)) &&
     ([0, 1].all (fun l => let s := { bl k0 with blpReqs := [(3 * 4096, { src := .bag 0 0 0, addr := 0, rid := 0, link := l })] }
        let u := { s with peerUp := Tbl.put s.peerUp 3 [0] }
        routeOf u 3 == some 0 && outstandingElsewhere s 3 0 == (l == 1) && s.blpWait.isEmpty)) &&
     (let s := { bl k0 with peerUp := [(2, []), (3, [])] }; (routeOf s 2).isNone)) = true := by decide +kernel
theorem witness_aperture :
    ([(false, 0, false, 1), (true, 0, false, 1), (false, 0, true, 1), (false, 1, false, 1), (false, 3, false, 1), (false, 0, false, 0)].all (fun (x : Bool × Nat × Bool × Nat) =>
        let s0 := { mem0 k0 x.1 with regions := if x.2.2.2 = 1 then [(0, { base := 0, len := 64, owner := 0, ctx := 0 })] else [],
                                     place := { ({} : Place) with lost := if x.2.2.1 then [⟨.reg 0 0x5000, 0, 0, false⟩] else [] } }
        let s := s0.updFn 0 (fun f => { f with apertureHi := x.2.1 * 2 ^ 13 })
        let d := ((s.fn 0).apertureHi * 2 ^ 32) / 2 ^ 45
        s.live && apertureLost s 0 == x.2.2.1 && (d == s.boot.boardPos) == (x.2.1 == 0) && populated s d == (d != 1) &&
          (x.2.1 == 0 || routeOf s d == some 0) && !outstandingElsewhere s d 0 && s.blpWait.isEmpty && s.blpReqs.isEmpty && s.blpGot.isEmpty &&
          Tbl.freeKey s.blpReqs (d * 4096) 4096 == some (d * 4096) &&
          (grantedTo s (s.boot.boardPos * 256 + 0) none s.boot.boardPos 0 64 && !regionLost s s.boot.boardPos 0) == (x.2.2.2 == 1) && s.poisoned 0 64 == x.1)) = true := by
  decide +kernel

/-- A training set of device 3, link 2, lane `lane`. -/
def tset (ts2 : Bool) (lane good w flags : Nat) : Bytes :=
  let b := beBytes 1 (if ts2 then 2 else 1) ++ beBytes 1 (2 * 16 + 3) ++ beBytes 1 lane ++ beBytes 1 good ++ beBytes 1 w ++ beBytes 1 flags ++ zeros 8
  [0xBC#8] ++ b ++ [crc8 b]
/-- A link that trains. -/
def kt : Link := { good := 255, farGood := 255, farValid := true, farPos := 3 }
theorem witness_training :
    ([(0, false), (63, false), (63, true)].all (fun (p : Nat × Bool) =>
        let s := bl { ({} : Link) with lanes := [(1, { tsCount := p.1 })] }
        let b := tset false (if p.2 then 6 else 1) 0 0 0
        tsOk b && !linksHeld s && (s.link 0).st == .training && (s.link 0).idleUntil.isNone && byteAt b 1 == 1 &&
          !(s.blLane 0 1).noisy s.now) &&
     [(0, false, 3, 0, 0), (3, false, 3, 1, 0), (3, true, 3, 1, 80000), (3, true, 3, 0, 80000), (3, true, 3, 1, 5), (3, true, 2, 1, 80000)].all
      (fun (p : Nat × Bool × Nat × Nat × Nat) =>
        let s := { bl { kt with sendTs2 := true, seen := p.2.1, agree := p.1 } with now := p.2.2.2.2 }
        let b := tset true 1 255 p.2.2.1 (4 * p.2.2.2.1)
        let u := learnTs s 0 1 b
        tsOk b && !linksHeld s && (s.link 0).st == .training && (s.link 0).idleUntil.isNone && byteAt b 1 == 2 && (u.link 0).sendTs2 &&
          (mirror (u.link 0).reversed (byteAt b 4) &&& (u.link 0).goodAt s.now) == (u.link 0).common s.now && (u.link 0).farValid &&
          ((u.link 0).choose s.now == some (byteAt b 5 % 4)) == (p.2.2.1 == 3) && !(s.link 0).farSeen &&
          bit (byteAt b 6) 2 == (p.2.2.2.1 == 1)) &&
     (let s := bl { kt with st := .exiting }
      let b := (tset true 1 255 3 4).dropLast
      !tsOk b && !linksHeld s && (s.link 0).st != .disabled && (s.link 0).st != .deep && (s.link 0).idleUntil.isNone) &&
     linksHeld { bl kt with power := { (bl kt).power with fenced := true } } &&
     (let s := bl kt
      (s.link 0).choose s.now == some 3 && (s.link 0).st != .retrain) &&
     [false, true].all (fun w =>
      let s := { bl { kt with warm := w } with now := 16000000 }
      let k := s.link 0
      k.st == .training && k.goodAt s.now != 0 && !k.sendTs2 && k.idleUntil.isNone && (k.choose s.now).isSome && k.farValid &&
        decide (k.goodSince + (if k.warm then 2000000 else 16000000) ≤ s.now)) &&
     (let s := { bl { kt with lanes := [(0, { violAt := some 0 })], good := 1 } with now := 3999999 }
      (s.link 0).goodAt s.now == 0) &&
     (let s := { bl { kt with idleUntil := none } with now := 2000000000 }
      (s.link 0).st == .training && (s.link 0).idleUntil.isNone && decide ((s.link 0).trainStart + 2000000000 ≤ s.now) && !linksHeld s) &&
     decide ((bl { kt with idleUntil := some 1 }).now < 1) && decide (0 ≤ (bl { kt with idleUntil := some 0 }).now) &&
     [0, 1].all (fun v =>
      let s := bl { k0 with farGood := 255 }
      let k := s.link 0
      let left : Link := { k with good := k.good &&& (255 - 2 ^ 2), lanes := Tbl.put k.lanes 2 (countViol s.now (s.blLane 0 2) v) }
      k.st == .active && bit k.activeMask 2 && (left.choose s.now).isSome && (left.goodAt s.now &&& k.activeMask) != 0) &&
     !bit ((bl { k0 with activeMask := 1 }).link 0).activeMask 2 &&
     (let s := bl { k0 with good := 4, farGood := 255, activeMask := 4, width := 0 }
      let k := s.link 0
      let left : Link := { k with good := k.good &&& (255 - 2 ^ 2), lanes := Tbl.put k.lanes 2 (countViol s.now (s.blLane 0 2) 0) }
      k.st == .active && bit k.activeMask 2 && (left.choose s.now).isNone) &&
     [none, some 2].all (fun n =>
      let s := { bl { k0 with st := .retrain, lostLane := n } with now := 1000000000 }
      (s.link 0).st == .retrain && (s.link 0).lostLane == n && decide ((s.link 0).retrainStart + 1000000000 ≤ s.now)) &&
     [false, true].all (fun z =>
      let s := { bl { k0 with lanes := [(1, { frozen := z })] } with now := 8000000 }
      (s.link 0).st == .active && (s.blLane 0 1).frozen == z && decide ((s.link 0).idleSince + 8000000 ≤ s.now))) = true := by decide +kernel
theorem witness_deep :
    ([{ k0 with owed := 0 }, { k0 with owed := 1 }, { k0 with replay := [kept 1] }].all (fun k =>
        let b := tset true 0 255 3 2
        tsOk b && byteAt b 1 == 2 && bit (byteAt b 6) 1 && k.st == .active && (k.replay.isEmpty && k.owed == 0) == (k == k0)) &&
     [BlSt.retrain, .training].all (fun z => ((bl { k0 with st := z }).link 0).st == z) &&
     (let s := { bl { k0 with deepSince := some 0, deepRetry := some 0 } with now := 1000000000 }
      (s.link 0).deepSince == some 0 && (s.link 0).st == .active && decide (0 + 1000000000 ≤ s.now) && !wantsDeep s 0) &&
     (let s := bl { k0 with deepRetry := some 0, deep := true }
      (s.link 0).deepRetry == some 0 && decide (0 ≤ s.now) && wantsDeep s 0 && (s.link 0).st == .active && (s.link 0).deepSince.isNone &&
        !(s.link 0).deepRcvd) &&
     ((bl { k0 with st := .deep }).link 0).st == .deep &&
     (let s := { bl { k0 with st := .exiting } with now := 100000000 }
      (s.link 0).st == .exiting && decide ((s.link 0).trainStart + 100000000 ≤ s.now))) = true := by decide +kernel
theorem witness_lane_tests :
    ([0, 1, 2, 3].all (fun t => [false, true].all (fun sync =>
        let s := bl { k0 with lanes := [(1, { test := t, prbsSync := sync })] }
        okLane (.board 0 1) && (s.blLane 0 1).test == t && (s.blLane 0 1).prbsSync == sync && s.live)) &&
     [true, false].all (fun e => ((bl { k0 with enable := e }).link 0).enable == e) &&
     (let s := { up0 { fport with st := .disabled } with tileLanes := [(0, { test := 1, prbsSync := true })] }
      okLane (.tile 0 0) && (s.tileLane 0 0).test == 1 && (s.tileLane 0 0).prbsSync && (s.port (laneOwner s 0 0)).st == .disabled) &&
     (net0.port (laneOwner net0 0 0)).st != .disabled && okFn 1 && 1 % 64 != 0) = true := by decide +kernel

/-- The time unit running, with this slot 3. -/
def tuS (c : Option Slot) : State :=
  { up with tu := { locked := true, ticks := 1, views := { linNs := 1000, todSec := 5 }, slots := (c.map (fun c => (3, c))).toList, pin := 0xFFFFFFFF } }
def sl (kind : Nat) (target : Nat := 1000) (param count line : Nat := 0) : Slot := ⟨target, param, kind, 0, false, false, false, line, 100, count, false, 0, 0, 0⟩
theorem witness_actions :
    ([1, 3, 4, 5].all (fun k => [(0, 0), (1000, 0), (1000, 1)].all (fun (p : Nat × Nat) =>
        let c := sl k 1000 p.1 p.2
        (dueSlot (tuS none) 3 k).isNone && (dueSlot (tuS (some (sl k 100000))) 3 k).isNone && dueSlot (tuS (some c)) 3 k == some c &&
          !(tuS (some c)).canWrite (tuOwner (tuS (some c))) 2 && bit (tuS (some c)).tu.pin c.pin && (Tbl.find? (tuS (some c)).tu.toutUntil 0).isNone &&
          !lostReg (tuS (some c)) 0x3004 && decide ((((tuS (some c)).fn (tuOwner (tuS (some c)))).events).length < 256))) &&
     [(0, 1), (1, 9)].all (fun (p : Nat × Nat) =>
        let s := (tuS (some (sl 1))).updTu (fun t => { t with toutUntil := [(0, [p])] })
        dueSlot s 3 1 == some (sl 1) && bit s.tu.pin (sl 1).pin && !lostReg s 0x3004 && Tbl.find? s.tu.toutUntil 0 == some [p] &&
          (decide (p.2 ≤ s.tu.ticks + 2) || (decide (s.tu.ticks + 2 < p.2) && decide (p.1 < s.tu.ticks + 2 + (sl 1).width)))) &&
     decide (d64 1000 (wrap 64 ((1000 : Nat) + (1000 : Nat) : Int)) < 0) && dueSlot (tuS (some (sl 3 1000 0 0 1))) 3 3 == some (sl 3 1000 0 0 1) &&
     [true, false].all (fun b =>
        let s := (tuS (some (sl 2))).updTu (fun t => { t with secCarry := b })
        dueSlot s 3 2 == some (sl 2) && (sl 2).fired != s.tu.ticks + 1 && s.tu.secCarry == b) &&
     (let s := (tuS none).updTu (fun t => { t with ticks := 7, toutUntil := [(0, [(1, 7)]), (1, [(1, 8)])] })
      Tbl.find? s.tu.toutUntil 0 == some [(1, 7)] && Tbl.find? s.tu.toutUntil 1 == some [(1, 8)])) = true := by decide +kernel
theorem witness_steps :
    ([none, some (5, 0), some (-5, 0)].all (fun (a : Option (Int × Nat)) =>
        let c := sl 6 1000 3
        let s := (tuS (some c)).updTu (fun t => { t with armed := a })
        dueSlot s 3 6 == some c && s.tu.slots == [(3, c)] && s.tu.armed == a && (s.tu.slots.all (fun p => p.1 == 3 || p.2.kind != 6))) &&
     (let s := (tuS none).updTu (fun t => { t with armed := some (-5, 0), slots := [(0, { sl 1 with guard := true }), (3, sl 3)] })
      s.tu.armed == some (-5, 0) && s.tu.slots.all (fun p => p.2.kind != 6) && Tbl.sorted s.tu.slots && (s.tu.slots.map (fun p => p.2.guard)).contains true) &&
     [none, some (5, 0), some (-5, 0), some (1, 1)].all (fun (a : Option (Int × Nat)) =>
        let s := (tuS none).updTu (fun t => { t with armed := a })
        s.tu.slots.isEmpty && s.tu.armed == a) &&
     (let s := (tuS none).updTu (fun t => { t with hoMs := 1, sinceInc := 500000 })
      s.tu.hoMs != 0 && !s.tu.holdover && !lostReg s 0x3008 && decide (s.tu.hoMs * 500000 ≤ s.tu.sinceInc)) &&
     (tuS none).tu.hoMs == 0) = true := by decide +kernel
theorem witness_time_registers :
    ((let s := tuS none
      s.live && isPf 0 && !isPf 1 && tuWriter s 0 && isPf 64 && !tuWriter s 64 &&
        decide (1 % 65536 * 2 ^ 32 + s.tu.incLow < 0x010000000000) && decide (0x010000000000 ≤ 0x200 % 65536 * 2 ^ 32 + s.tu.incLow) &&
        decide (0x200 % 65536 * 2 ^ 32 + s.tu.incLow ≤ 0x030000000000) && decide (0x030000000000 < 0x301 % 65536 * 2 ^ 32 + s.tu.incLow) &&
        !lostReg s 0x3010 && s.tu.armed.isNone && !s.tu.holdover) &&
     ((tuS none).updTu (fun t => { t with armed := some (1, 1) })).tu.armed.isSome &&
     [none, some 4].all (fun last => [0, 1024].all (fun n =>
        let s := (tuS none).updTu (fun t => { t with ticks := 4, pin := 0x100, tinTick := (last.map (fun x => (0, x))).toList, ring := List.replicate n ⟨[]⟩ })
        tclkRuns s && !lostReg s 0x3004 && bit (bitsOf s.tu.pin 9 8) 0 && !bit (bitsOf s.tu.pin 9 8) 1 && Tbl.find? s.tu.tinTick 0 == last &&
          s.tu.ring.length == n)) &&
     [false, true].all (fun up1 =>
        let s := ((tuS none).updTu (fun t => { t with ring := [⟨[]⟩] })).updFn 0 (fun f => { f with
          rings := if up1 then [(2, { base := 4096, log2 := 4, enable := true })] else [] })
        s.tu.ring == [⟨[]⟩] && s.canWrite (tuOwner s) 2 == up1)) = true := by decide +kernel

/-- `s` with block `b` in this state. -/
def blk (s : State) (b : Nat) (x : Block) : State := { s with blocks := Tbl.put s.blocks b x }
/-- `s` with these lost words, bank faults, migrations and last tests. -/
def plc (s : State) (p : Place) : State := { s with place := p }
/-- A model on block 0 with a migration of it to block 1. -/
def migS (sw : Bool) (t : List (Nat × Thread)) (f : Option Flow) : State :=
  plc { treeState thr with threads := t, reqs := [], flows := (f.map (fun f => (5, f))).toList }
    { migs := [(7, { cause := 0, src := 0, dst := 1, switched := sw })] }
theorem witness_hardened :
    [HardKind.port 0, .sequencer 3, .reg 0 0x3004].all (fun o => hardOk o && portUp (net0.port 0) && !inVote net0 o &&
      [[], [{ obj := o, at_ := 0, word := 1 }], [{ obj := o, at_ := 0, word := 2 }]].all (fun l =>
        (plc net0 { lost := l }).place.lost.any (fun x => x.obj == o && x.word == 1) == (l == [{ obj := o, at_ := 0, word := 1 }]))) = true ∧
    inVote { net0 with votes := [⟨0, 0x3004, 5, 9⟩] } (.reg 0 0x3004) = true := by decide +kernel
/-- The tree model, the section of its thresholds standing in HBM as in its image. -/
def copied (at_ : Nat) : State :=
  let s := treeState thr
  let v := s.curVer 0
  let x := ((secTable v.image).filter (fun x => x.ty == 7)).headD default
  { s with hbm := Memory.write [] (at_ + v.copyAt + x.off) (slice v.image x.off x.len) }
theorem witness_data_restored :
    (([0, 64].all (fun o =>
      let s := copied o
      let xs := (((s.model 0).vers.map Prod.snd).filter (MVer.on 0)).flatMap
        (fun v => ((secTable v.image).filter (fun x => x.ty == 7)).map (fun x => (v, x)))
      okBlock 0 && okCtx 0 && !xs.isEmpty && [0].all (fun t => (threadsUsing s 0).any (fun p => p.1 == t && p.2.model == 0 && !p.2.done)) &&
        [([], o == 0), ([xs.foldl (fun a x => a + (x.1.copyAt + x.2.off) / 64) 0], false)].all (fun (y : List Nat × Bool) =>
          xs.length == 1 && xs.all (fun x => (copyState (foundBad s (xs.map (fun x => (x.1.copyAt + x.2.off, x.2.len))) y.1) x.1 x.2 == 0) == y.2)))) &&
     ((((copied 0).model 0).vers.map Prod.snd).filter (MVer.on 1)).isEmpty) = true := by decide +kernel
theorem witness_rules :
    (([15, 14].all (fun live => bit (plc net0 { stackLive := live }).place.stackLive (stackOf (0 * 64)) == (live == 15)) &&
      [[], [0]].all (fun l => ({ net0 with poison := l } : State).poison == l)) &&
     (let s := treeState thr
      !(s.block 0).retired && !(s.block 0).retiredBanks.contains 0 && (Tbl.find? s.banks ((0 * 64 + 0) * 1024 + 1)).isSome &&
        entryGood (flipEntry (storedEntry s 0 0 1) 0) && !entryGood (flipEntry (storedEntry s 0 0 1) 1)) &&
     [none, some 0].all (fun w => [[], [(1, 0)]].all (fun more =>
        let s := plc { treeState thr with banks := [(0, { ruleEntry 0 1 0 with restored := w })] }
          { bankFaults := [(0, { group := 0, ctx := 0, since := 0, more := more })] }
        (Tbl.find? s.place.bankFaults (0 * 64 + 0)).map (fun (f : BankFault) => (f.group, f.relocating)) == some (0, false) &&
          (Tbl.find? s.banks ((0 * 64 + 0) * 1024 + 0)).map (fun (e : BankEntry) => (e.group, e.restored)) == some (0, w) &&
          decide (s.cycle < 0 + dayCycles))) &&
     (Tbl.find? (treeState thr).place.bankFaults 0).isNone &&
     (let n : Replica := { slices := [{ block := 0, trees := [⟨0, 1, 0, 0⟩], comps := [⟨0, 0⟩] }] }
      let s := plc (blk (treeState thr) 0 { retiredBanks := [0] }) { bankFaults := [(0, { group := 0, ctx := 0, since := 0, relocating := true })] }
      !mayRelocate s 0 0 [] && mayRelocate s 0 0 [(0, 0, 0, n)])) = true := by decide +kernel
theorem witness_tests_due :
    ((let s := plc (blk net0 3 {}) { lastTest := [(3, 0)] }
      s.live && !(s.block 3).retired && !(s.block 3).failed && !(s.block 3).testing && decide (s.power.st < 3) && (s.block 3).testDue.isNone &&
        decide (s.now < nextDue s 3) && decide (nextDue s 3 ≤ ({ s with now := 10 ^ 15 } : State).now)) &&
     (let s := blk net0 3 { testDue := some 0 }
      (s.block 3).testDue.isSome && testReady s 3) &&
     (let s := blk (treeState thr) 0 { testDue := some 0 }
      (s.block 0).testDue.isSome && !testReady s 0 && (s.block 0).deferEnd.isNone)) = true := by decide +kernel
/-- The tree model's block waits for its test with its deferral over, block 1 a standby block or not, `n` tests skipped. -/
def defr (sb : Bool) (n : Nat) : State :=
  plc (blk (blk (treeState thr) 0 { testDue := some 0, deferEnd := some 0 }) 1 { standby := sb }) { skips := if n = 0 then [] else [(0, n)] }
theorem witness_tests_move :
    ([true, false].all (fun sb => [0, 2].all (fun n =>
        let s := defr sb n
        (s.block 0).deferEnd == some 0 && decide (0 ≤ s.now) && s.power.st == 0 && s.boot.activating.isNone && !migrating s 0 && holdsWork s 0 &&
          decide (2 ≤ Tbl.getD s.place.skips 0 0) == (n == 2) && testTargets s 0 == (if sb then [1] else (upTo 64).filter (· != 0)))) &&
     (let s := blk (defr true 0) 0 { testDue := some 0 }
      (s.block 0).deferEnd.isNone)) = true := by decide +kernel
theorem witness_tests_skip :
    (let s := (upTo 64).foldl (fun s b => if b = 0 then s else blk s b { fenced := true, retired := true }) (defr false 0)
     (s.block 0).deferEnd == some 0 && (testTargets s 0).isEmpty && (standbys s).isEmpty && !migrating s 0 && holdsWork s 0) = true := by
  decide +kernel
theorem witness_tests_run :
    ((let s := blk net0 3 { testing := true, fenced := true }
      ((s.block 3).testing || testReady s 3) && !(s.block 3).retired && (s.block 3).testMove.isNone && (s.block 3).retiredVses.isEmpty) &&
     (let s := blk net0 3 { testing := true, fenced := true, testMove := some (1, true) }
      (s.block 3).testMove == some (1, true) && (s.block 3).testWork.isEmpty && !(s.block 3).retired) &&
     (readRun [(1, 0), (2, 0), (3, 0), (4, 0), (5, 0), (6, 0), (7, 0)] 1).map (fun l => l.all (fun e => e.code == 1)) == some true &&
     (readRun [(1, 1), (1, 0), (2, 0), (3, 0), (4, 0), (5, 0), (6, 0), (7, 0)] 1).map (fun l =>
       l.all (fun e => e.code == 1 || e.code == 2) && l.countP (fun e => e.code == 2) == 1) == some true &&
     (readRun [(1, 0), (2, 0), (3, 0), (4, 0), (5, 5), (5, 5), (6, 0), (7, 0)] 1).map (fun l =>
       l.countP (fun e => e.code == 3) == 1 && l.contains ⟨5, 3, some 3⟩) == some true &&
     (readRun [(1, 0), (2, 0), (3, 65), (3, 65), (4, 0), (5, 0), (6, 0), (7, 0)] 1).map (fun l =>
       l.countP (fun e => e.code == 3) == 1 && l.contains ⟨3, 3, some 63⟩) == some true &&
     (readRun [(1, 1), (1, 1)] 1).map (fun l => l.any (fun e => e.code == 3 && e.unit.isNone)) == some true && (readRun [(2, 0)] 1).isNone) = true := by
  decide +kernel
theorem witness_failures :
    ([false, true].all (fun r => ((blk net0 3 { retired := r }).block 3).retired == r) &&
     (let s := blk (treeState thr) 0 { fenced := true, retired := true, failed := true }
      (s.block 0).failed && (standbys (blk s 1 { standby := true })).length == 1 && Tbl.sorted s.models &&
        maySteer (blk s 1 { standby := true }) 0 1 && !maySteer (blk s 1 { standby := true }) 0 2) &&
     (let s := (upTo 64).foldl (fun s b => blk s b { fenced := true, retired := true, failed := b == 0 }) (treeState thr)
      (s.block 0).failed && noneFits s 0 && !noneFits (treeState thr) 0) &&
     (net0.live && net0.boot.deadCores.isEmpty && (upTo 16).any (fun y => y != 0 && (upTo 16).all (fun c => c == 0 || decide (coreLoad net0 y ≤ coreLoad net0 c))) &&
        !Tbl.has net0.boot.spCore 0) &&
     [(64, false), (65, true)].all (fun (p : Nat × Bool) =>
        let s := plc net0 { poisonRate := [(0, (upTo p.1).map (fun g => (g, 0)))] }
        decide (64 < (badGranules s 0).length) == p.2 && bit s.place.stackLive 0) &&
     [[], [2]].all (fun l => ((blk net0 3 { retiredVses := l }).block 3).retiredVses == l) && !((blk net0 3 {}).block 3).retired &&
     !net0.power.fenced && ({ net0 with power := { net0.power with stalledClk := [6] } } : State).power.stalledClk.contains 6 &&
     [0, 1].all (fun n =>
        let s := plc { net0 with now := second } { coal := [(9, ⟨0, n, 0, 0, 0, 0, 0⟩)] }
        Tbl.find? s.place.coal 9 == some ⟨0, n, 0, 0, 0, 0, 0⟩ && decide (0 + second ≤ s.now)) &&
     decide ((plc net0 { coal := [(9, ⟨0, 0, 0, 0, 0, 0, 0⟩)] }).now < 0 + second)) = true := by decide +kernel

theorem witness_migrations :
    ((let s := migS false [] (some { home := some 0 })
      let g : Mig := { cause := 0, src := 0, dst := 1 }
      Tbl.find? s.place.migs 7 == some g && !(s.block 1).fenced && !(s.block 1).retired && (roomShort (migSteered s g) 1).isNone &&
        !(migModels s g).isEmpty && (Tbl.find? s.flows 5).map Flow.home == some (some 0)) &&
     (blk (migS false [] none) 1 { fenced := true }).block 1 == { fenced := true } &&
     [true, false].all (fun free =>
        let g : Mig := { cause := 0, src := 0, dst := 1, lost := true }
        let s0 := plc (treeState thr) { migs := [(7, g)] }
        let s := (upTo 64).foldl (fun s b => if b = 0 || (free && b == 2) then s else blk s b { fenced := true }) s0
        Tbl.find? s.place.migs 7 == some g && newTarget s g == (if free then some 2 else none)) &&
     [[], [(0, { thr with model := 0 })]].all (fun t =>
        let s0 := migS true t none
        let s := if t.isEmpty then { s0 with models := [] } else s0
        let g : Mig := { cause := 0, src := 0, dst := 1, switched := true }
        Tbl.find? s.place.migs 7 == some g && migBusy (sweepAll s) g == !t.isEmpty)) = true := by decide +kernel
theorem witness_homes :
    [(none, false), (some 1, true), (some 1, false)].all (fun (p : Option Nat × Bool) =>
        let s := { net0 with flows := [(5, { home := some 0, moving := p.1 })], reqs := if p.2 then [(0, { rq with handle := some 5, evalBlock := some 0 })] else [] }
        okFlow 5 && (Tbl.find? s.flows 5).map (fun (f : Flow) => (f.home, f.moving)) == some (some 0, p.1) &&
          (flowReqs s 5).any (fun q => q.2.evalBlock == some 0) == p.2) = true := by decide +kernel
/-- The tree model 100 ms after its last sample, with `n` live replicas. -/
def smp (n high low : Nat) (refused : Bool) (short : Option Nat) : State :=
  let r : Replica := { slices := [{ block := 0, trees := [⟨0, 0, 0, 0⟩], comps := [⟨0, 0⟩] }] }
  { treeState thr with
    now := 100000000000,
    models := Tbl.modify (treeState thr).models 0 (fun m => { m with
      high := high, low := low, refused := refused, shortAt := short,
      vers := Tbl.mapVals m.vers (fun _ v => { v with replicas := (upTo n).map (fun i => (i, r.onBlocks [32 * i])) }), nextRep := n }) }
theorem witness_samples :
    ([(1, 0), (2, 0)].all (fun (p : Nat × Nat) =>
        let s := { net0 with models := [(0, { st := p.1, refused := true })], now := p.2 }
        okCtx 0 && (s.model 0).st == p.1 && decide (s.now < (s.model 0).sampledAt + 100000000000)) &&
     [0, 99].all (fun low =>
        let s := smp 2 0 low false none
        let t := sampled s 0 []
        (s.model 0).st == 2 && decide ((s.model 0).sampledAt + 100000000000 ≤ s.now) && !sampleGrows s t 0 &&
          (t.model 0).low == low + 1 && decide (wantReplicas (t.curVer 0) < (liveReps t 0).length) &&
          !Tbl.has s.place.stakes (stakeKey false 0) && Tbl.sorted (t.curVer 0).replicas)) = true := by decide +kernel
theorem witness_grows :
    ((let s := smp 1 0 0 true none
      let t := sampled s 0 []
      let r : Replica := { slices := [{ block := 32, trees := [⟨0, 0, 0, 0⟩], comps := [⟨0, 0⟩] }] }
      sampleGrows s t 0 && (newReplica t 0 r).isSome && (newReplica t 0 {}).isNone && replicaFits t 0) &&
     [none, some 99999999999].all (fun w =>
        let s := (upTo 64).foldl (fun s b => blk s b { fenced := true }) (smp 1 3 0 true w)
        let t := sampled s 0 []
        sampleGrows s t 0 && !replicaFits t 0 && (s.model 0).shortAt == w)) = true := by decide +kernel
/-- The tree model with a drain, on command 4. -/
def drS (t : List (Nat × Thread)) (d : Option Drain) (sh : Option (Nat × Nat)) : State :=
  { treeState thr with
    models := Tbl.modify (treeState thr).models 0 (fun m => { m with st := if d.isSome then 3 else 2, drain := d, shadow := sh }),
    threads := t }
theorem witness_drains :
    (((drS [] none (some (1, 4))).model 0).shadow == some (1, 4) && ((drS [] none none).model 0).drain.isNone &&
     [(false, 0), (true, 0), (false, 9)].all (fun (p : Bool × Nat) => [[], [(0, thr)]].all (fun t =>
        let s := drS t (some { until_ := p.2, unload := true, cmd := 4, expired := p.1 }) none
        (s.model 0).drain == some { until_ := p.2, unload := true, cmd := 4, expired := p.1 } && (modelThreads s 0).isEmpty == t.isEmpty &&
          decide (p.2 ≤ s.cycle) == (p.2 == 0) &&
          (t.isEmpty || (Tbl.find? s.reqs thr.req).map (fun (q : Request) => q.recs[thr.qi]?.isSome) == some true)))) = true := by decide +kernel
theorem witness_old_flows :
    ([none, some 4].all (fun rm => [false, true].all (fun busy =>
        let s := { net0 with flows := [(5, { removing := rm, lastUse := 0 })], reqs := if busy then [(0, { rq with handle := some 5 })] else [],
                             cycle := 10 ^ 15 }
        okFlow 5 && (Tbl.find? s.flows 5).map (fun (f : Flow) => f.removing) == some rm && (flowInflight s 5 != 0) == busy &&
          decide (0 + s.dev.flowAge * 1250000000 ≤ s.cycle))) &&
     decide (net0.cycle < 0 + net0.dev.flowAge * 1250000000)) = true := by decide +kernel

/-- Command 0 of a function: this OPCODE with `n` argument bytes. -/
def cmd (fn op n : Nat) : Cmd := { fn := fn, opcode := op, fence := false, tag := 1, argAddr := 0, argLen := n, outLen := 64, outAddr := 4096 }
def withCmd (s : State) (fn op n : Nat) : State :=
  { s with cmds := [(0, cmd fn op n)], nextCmd := 1, fns := Tbl.put s.fns fn { s.fn fn with bme := true } }
/-- All that `Starts` asks of command 0 on object `o` with argument block `b`. -/
def startsB (s : State) (fn op : Nat) (o : ObjRef) (b : Bytes) : Bool :=
  okFn fn && s.live && (s.fn fn).bme && headCmd s fn op == some (0, cmd fn op b.length) && Tbl.find? s.cmds 0 == some (cmd fn op b.length) &&
    !objBusy s fn 0 o
theorem starts_of {s : State} {fn op : Nat} {o : ObjRef} {b : Bytes} (h : startsB s fn op o b = true) :
    Starts s fn op 0 o (cmd fn op b.length) b ∧ (cmd fn op b.length).argLen = b.length := by
  simp only [startsB, Bool.and_eq_true, beq_iff_eq, Bool.not_eq_true'] at h
  exact ⟨⟨⟨h.1.1.1.1.1, h.1.1.1.1.2, h.1.1.1.2, h.1.1.2, h.1.2⟩, h.2, rfl, rfl⟩, rfl⟩

/-- A slot record: kind, flags, target, period. -/
def slotB (kind flags target param : Nat) : Bytes :=
  leBytes 8 target ++ leBytes 8 param ++ leBytes 1 3 ++ leBytes 1 kind ++ leBytes 1 flags ++ zeros 13
theorem witness_time_action :
    ([(0, slotB 4 0 2000 0), (64, slotB 4 0 2000 0), (0, slotB 7 0 2000 0), (0, slotB 0 0 0 0), (0, slotB 4 0 (2 ^ 40) 0), (0, slotB 4 0 1000 0),
      (0, slotB 4 1 1000 0)].map (fun (p : Nat × Bytes) =>
        let s := { withCmd (tuS none) p.1 0x0040 32 with hostUp := [0, 1] }
        (startsB s p.1 0x0040 (.slot (byteAt p.2 0x10)) p.2 && p.2.length == 32, decide (p.1 = tuOwner s), slotBad p.2,
          byteAt p.2 0x11 % 16, d64 (le p.2 0 8) s.tu.views.linNs, bit (byteAt p.2 0x12) 0))) =
      [(true, true, none, 4, 1000, false), (true, false, none, 4, 1000, false), (true, true, some 0x11, 7, 1000, false),
       (true, true, none, 0, -1000, false), (true, true, none, 4, 1099511626776, false), (true, true, none, 4, 0, false),
       (true, true, none, 4, 0, true)] := by decide +kernel

/-- Context 0 in state `st`, and a command of 16 bytes on it. -/
def ctxS (st op : Nat) (t : List (Nat × Thread)) : State :=
  withCmd { treeState thr with threads := t, models := Tbl.modify (treeState thr).models 0 (fun m => { m with st := st }) } 0 op 16
theorem witness_contexts :
    [(1, 2), (2, 2), (2, 3), (1, 3), (2, 4), (1, 4)].all (fun (p : Nat × Nat) =>
        let s := ctxS p.1 p.2 (if p.1 = 1 then [] else [(0, thr)])
        startsB s 0 p.2 (.model 0) (zeros 16) && (firstBad ((0, okCtx (le (zeros 16) 0 2)) :: rsvBytes (zeros 16) 2 16)).isNone &&
          Tbl.has s.models 0 && (s.model 0).owner == 0 && (s.model 0).st == p.1 && (p.1 != 1 || s.threads.isEmpty)) = true := by decide +kernel

/-- FLOW_CONFIG of flow 9 of address 10.0.0.2, or of the caller's own queries. -/
def flowB (rm host : Bool) : Bytes :=
  leBytes 1 (b2n rm) ++ leBytes 1 (b2n host) ++ leBytes 2 7 ++ leBytes 4 9 ++ leBytes 4 3 ++ leBytes 4 1000 ++ (if host then zeros 16 else beBytes 16 ipB)
/-- With the flow's bucket: free, holding it, or full of flows with queries in flight. -/
def flowS (host : Bool) (mode : Nat) (busy : Bool) : State :=
  let key := if host then hostKey 0 else ipB
  let s := withCmd net0 0 0x0010 32
  let h := bucketOf s host key 9
  let r := fun (k : Nat) => { rq with handle := some k }
  match mode with
  | 0 => s
  | 1 => { s with flows := [(h, { host := host, keyAddr := key, flowId := 9 })], reqs := if busy then [(0, r h)] else [] }
  | _ => { s with flows := (upTo 16).map (fun i => (h + i, {})), reqs := (upTo 16).map (fun i => (i, r (h + i))) }
theorem witness_flows :
    [false, true].all (fun host => [(0, false), (1, false), (1, true), (2, true)].all (fun (p : Nat × Bool) => [false, true].all (fun rm =>
        let s := flowS host p.1 p.2
        let b := flowB rm host
        let key := if host then hostKey 0 else be b 0x10 16
        startsB s 0 0x0010 (.flow host key (le b 4 4)) b && b.length == 32 && byteAt b 0 == b2n rm && bit (byteAt b 1) 0 == host &&
          collectorOk (le b 2 2) && decide (byteAt b 0 < 2) && decide (byteAt b 1 < 2) && decide (le b 0x0C 4 ≤ 1000000) && (!host || allZero (slice b 0x10 16)) && isPf 0 &&
          (findFlow s host key (le b 4 4)).isSome == (p.1 == 1) && (flowSlot s host key (le b 4 4)).isSome == (p.1 != 2) &&
          (match findFlow s host key (le b 4 4) with | some h => (flowInflight s h != 0) == p.2 && Tbl.has s.flows h | none => true)))) = true := by
  decide +kernel
/-- The tree model, or group 0 on block 0, with these blocks and migrations. -/
def stakeS (group : Bool) (xs : List (Nat × Block)) (migs : Tbl Mig) : State :=
  let s := withCmd (plc { treeState thr with groups := if group then [(0, grp)] else [] } { migs := migs }) 0 0x0051 16
  xs.foldl (fun s p => blk s p.1 p.2) s
theorem witness_stakes :
    [false, true].all (fun group => [(true, 0), (false, 1), (false, 2), (false, 4)].all (fun (p : Bool × Nat) =>
        [([], []), ([(2, { retired := true })], []), ([(1, { fenced := true })], []), ([], [(7, { cause := 0, src := 0, dst := 3 })])].all
         (fun (q : List (Nat × Block) × Tbl Mig) =>
          let s := stakeS group q.1 q.2
          let b := leBytes 1 (b2n group) ++ leBytes 1 (b2n p.1) ++ zeros 6 ++ leBytes 8 p.2
          let o : ObjRef := if group then .group 0 else .model 0
          let k : Stake := ⟨byteAt b 4, le b 8 8⟩
          let u : State := { s.starting 0 o with place := { (s.starting 0 o).place with stakes := Tbl.put s.place.stakes (stakeKey group 0) k } }
          let set_ := (upTo 64).filter (stakeAllows u group 0)
          let out := ((targetBlocks s group 0).eraseDups).filter (fun x => !set_.contains x)
          let none_ := (upTo 64).any (fun x => bit k.blocks x && (s.block x).retired) || set_.isEmpty || staysOutside s group 0 k
          startsB s 0 0x0051 o b && b.length == 16 && decide (byteAt b 0 < 2) && decide (byteAt b 1 < 2) && allZero (slice b 5 3) && le b 2 2 == 0 &&
            (if group then (Tbl.find? s.groups 0).map Group.owner == some 0 else Tbl.has s.models 0 && (s.model 0).owner == 0) &&
            byteAt b 1 == b2n p.1 && le b 8 8 == p.2 && s.boot.activating.isNone &&
            (p.1 || (none_ == (p.2 == 4 && q.1 == [(2, { retired := true })]) && (none_ || (out.isEmpty == (p.2 == 1) && (out.isEmpty ||
              (out.any (migrating s) == !q.2.isEmpty && (!q.2.isEmpty || out == [0] &&
                (match stakePlan o set_ out u with
                  | .inr c => p.2 == 2 && q.1 == [(1, { fenced := true })] && c.foldl min 19 == 19
                  | .inl m => m == [(0, if p.2 == 2 then 1 else 2)] && (startMoves o m u).isSome))))))))))) = true := by decide +kernel
theorem witness_stake_outside :
    (let s := { stakeS false [] [] with models := [(0, { vers := [(0, { replicas := [(0, { slices := [{ block := 0, dev := some 5 }] })] })] })] }
     staysOutside s false 0 ⟨1, 1⟩ && !staysOutside s false 0 ⟨32, 1⟩) = true := by decide +kernel
theorem witness_test_run :
    [({ } : Block), { retired := true }, { failed := true }, { testDue := some 0 }, { testCmd := some 3 }].all (fun x =>
        let s := withCmd (blk net0 3 x) 0 0x0050 16
        let b := leBytes 1 3 ++ zeros 15
        startsB s 0 0x0050 (.block 3) b && isPf 0 && (firstBad ((0, okBlock (byteAt b 0)) :: rsvBytes b 1 16)).isNone &&
          (s.block 3).testCmd.isNone == x.testCmd.isNone &&
          testReady ((s.starting 0 (.block 3)).updBlock 3 (fun x => { x with testDue := some s.now })) 3 == !x.testing) = true := by
  decide +kernel

/-- GROUP_CREATE of group 0 (a root of one FP32 element) with one reservation on port 0, sending `tx` Gb/s. -/
def groupB (tx : Nat) : Bytes :=
  leBytes 2 0 ++ leBytes 2 4 ++ leBytes 1 1 ++ leBytes 1 1 ++ leBytes 1 0 ++ leBytes 1 0 ++ leBytes 8 1 ++ leBytes 4 1 ++ leBytes 2 1 ++
    leBytes 2 0x8000 ++ leBytes 2 0x8000 ++ zeros 22 ++ leBytes 2 1 ++ zeros 14 ++ leBytes 2 0 ++ leBytes 2 tx ++ zeros 4
/-- With every block or none in service. -/
def groupS (old : Option Group) (out : Bool) : State :=
  let s := { withCmd net0 0 0x0020 72 with groups := (old.map (fun g => (0, g))).toList }
  if out then (upTo 64).foldl (fun s b => blk s b { fenced := true, retired := true }) s else s
theorem witness_create :
    ([(some two, false, 1), (none, true, 1), (none, false, 1), (none, false, 1600)].all (fun (p : Option Group × Bool × Nat) =>
        let s := groupS p.1 p.2.1
        let b := groupB p.2.2
        let g := { groupOf 0 b with level := if (groupOf 0 b).root then 0 else 2 + 1 }
        let k0 := ceilDiv (naccOf g) 2
        let c0 := accCandidates s 0 0 g (naccOf g)
        let c1 := accCandidates s 0 1 g (naccOf g)
        let bs := c0.take k0 ++ c1.take (naccOf g - k0)
        let u : State := { s.starting 0 (.group 0) with groups := Tbl.put s.groups 0 { g with accBlocks := bs } }
        startsB s 0 0x0020 (.group 0) b && le b 0x30 2 == 1 && b.length == 64 + 8 * le b 0x30 2 && (groupBad s b).isNone && decide (g.level ≤ 3) &&
          (p.1.isNone || (s.place.lost.isEmpty && (Tbl.find? s.groups 0).map Group.owner == some 0)) &&
          (decide (c0.length < k0) == p.2.1) && (p.2.1 || (decide (k0 ≤ c0.length) && decide (naccOf g - k0 ≤ c1.length) &&
            bs.length == naccOf g && bs.eraseDups.length == naccOf g && (bs.filter (fun x => decide (x < 32))).length == k0 &&
            bs.all (fun x => c0.contains x || c1.contains x) && ([] : List Nat).length != naccOf g &&
            (groupShort u 0).isSome == (p.2.2 == 1600))))) = true := by decide +kernel
theorem witness_create_again :
    (let s := plc (groupS (some two) false) { lost := [{ obj := .group 0, at_ := 0, unrecoverable := true }] }
     s.place.lost.any (fun l => l.obj == .group 0 && l.unrecoverable) && startsB s 0 0x0020 (.group 0) (groupB 1)) = true ∧
    (let b := (groupB 1).take 6 ++ leBytes 1 1 ++ zeros 1 ++ (groupB 1).extract 8 16 ++ zeros 4 ++ (groupB 1).drop 20
     let s := groupS none false
     let g : Group := { groupOf 0 b with level := if (groupOf 0 b).root then 0 else 3 + 1 }
     startsB s 0 0x0020 (.group 0) b && (groupBad s b).isNone && b.length == 72 && le b 0x30 2 == 1 && decide (3 < g.level)) = true := by
  decide +kernel
/-- GROUP_MEMBER that adds member 5 on port 0. -/
def memberB : Bytes := leBytes 2 0 ++ leBytes 2 1 ++ zeros 4 ++ leBytes 1 0 ++ leBytes 1 0 ++ leBytes 2 5 ++ leBytes 2 0 ++ leBytes 2 5000 ++ leBytes 2 1 ++ zeros 6 ++ beBytes 16 ipB
theorem witness_members :
    [0, 3].all (fun old => [0, 3].all (fun level =>
        let g := { two with oldest := old, level := level }
        let s := withCmd (fs g) 0 0x0021 40
        let b := memberB
        match applyMembers (memberStart g) ((upTo 1).map (memberEntry b)) g.members with
        | .inl _ => false
        | .inr t =>
          let u := (s.starting 0 (.group 0)).updGroup 0 (fun x => { x with members := t, memberCmd := some (0, memberStart g) })
          startsB s 0 0x0021 (.group 0) b && le b 2 2 == 1 && b.length == 8 + 32 * le b 2 2 && (memberBad s b 1).isNone && g.owner == 0 && g.st != 3 &&
            s.place.lost.isEmpty && heldFits u && poolFits u && (decide (g.level ≤ 2) || t.all (fun p => !p.2.child || p.2.untilStep.isSome)) &&
            decide (lasting t ≤ 1024) && decide (u.groups.foldl (fun a p => a + p.2.members.length) 0 ≤ 65536) &&
            decide (memberStart g ≤ g.stepAt g.oldest) == (old == 0))) = true := by decide +kernel
theorem witness_group_rules :
    ((let s := withCmd (fs two) 0 0x0022 16
      startsB s 0 0x0022 (.group 0) (zeros 16) && (firstBad ((0, okCtx (le (zeros 16) 0 2)) :: rsvBytes (zeros 16) 2 16)).isNone && two.memberCmd.isNone) &&
     (let g := { two with memberCmd := some (1, 7) }
      let s := { withCmd (fs g) 0 0x0022 16 with cmds := [(0, { cmd 0 0x0021 40 with started := true, obj := .group 0 }), (1, cmd 0 0x0022 16)], nextCmd := 2 }
      headCmd s 0 0x0022 == some (1, cmd 0 0x0022 16) && !objBusy (s.finish 0 stState 0x02FF) 0 1 (.group 0) && s.live && (s.fn 0).bme) &&
     (let b := leBytes 2 0 ++ leBytes 2 4 ++ leBytes 1 32 ++ zeros 3 ++ leBytes 4 1000 ++ zeros 4
      let s := withCmd (fs two) 0 0x0023 16
      startsB s 0 0x0023 (.group 0) b && b.length == 16 && decide (1 ≤ byteAt b 4) && decide (byteAt b 4 ≤ 64) && allZero (slice b 5 3) &&
        decide (1 ≤ le b 8 4) && decide (le b 8 4 ≤ 60000) && allZero (slice b 12 4)) &&
     [(0, 0, []), (2, 1, []), (2, 0, [5]), (2, 2, [5])].all (fun (p : Nat × Nat × List Nat) =>
        let g := { two with st := p.1, cause := p.2.1, holdStep := 4, waitExpel := [1], missing := p.2.2.map (fun i => (i, 0)) }
        let b := leBytes 2 0 ++ leBytes 2 1 ++ zeros 4 ++ leBytes 2 0 ++ zeros 6
        let s := withCmd (fs g) 0 0x0024 16
        startsB s 0 0x0024 (.group 0) b && b.length == releaseLen (le b 2 2) && decide (le b 2 2 ≤ 1024) &&
          (firstBad (rsvBytes b 4 8 ++ rsvBytes b (8 + 2 * le b 2 2) (releaseLen (le b 2 2)))).isNone &&
          g.members.any (fun m => !m.2.child && m.2.lastsTo g.holdStep && m.2.replica == 0))) = true := by decide +kernel

/-- PORT_PLAN of port 0: the neighbour shall be device 3. -/
def planB : Bytes := leBytes 2 1 ++ zeros 6 ++ leBytes 2 0 ++ [2#8, 0#8, 3#8] ++ zeros 123
/-- PORT_CONFIG of one setting. -/
def setB (target id idx : Nat) (v : Bytes) : Bytes := leBytes 2 target ++ leBytes 2 1 ++ zeros 4 ++ leBytes 2 id ++ leBytes 2 idx ++ zeros 4 ++ padTo 40 v
theorem witness_plans :
    (let s := withCmd net0 0 0x0030 136
     let b := planB
     isPf 0 && startsB s 0 0x0030 .none b && le b 0 2 == 1 && b.length == 136 &&
       (firstBad (rsvBytes b 2 8 ++ (upTo 1).flatMap (fun i => planFields b (8 + 128 * i)))).isNone &&
       !portUp ((up0 { fport with st := .down }).port 0)) = true := by decide +kernel
theorem witness_port_config :
    [(setB 0 0x0104 0 (leBytes 4 1518), none, true), (setB 0 0x0209 0 (leBytes 4 1999), none, true), (setB 0 0x020A 0 (leBytes 4 200), some 16, true)].all
      (fun (p : Bytes × Option Nat × Bool) =>
        let s := withCmd net0 0 0x0031 56
        let b := p.1
        let u := ((settingsOf b 1).map Prod.snd).foldl (applyPort 0 false) (s.starting 0 (.port 0))
        startsB s 0 0x0031 (.port 0) b && le b 2 2 == 1 && le b 0 2 == 0 && b.length == 56 &&
          (firstBad ((0, portExists s 0) :: (rsvBytes b 4 8 ++ (upTo 1).flatMap (fun i => portFields s b (8 + 48 * i) 0 false)))).isNone &&
          pairBad u 0 false (settingsOf b 1) == p.2.1 && poolFits u == p.2.2) = true := by decide +kernel
theorem witness_device_config :
    ((let s := withCmd net0 0 0x0031 56
      let b := setB 0x3000 0x0502 1 (leBytes 2 4001)
      startsB s 0 0x0031 .device b && (firstBad (rsvBytes b 4 8 ++ (upTo 1).flatMap (fun i => devFields b (8 + 48 * i)))).isNone) &&
     (let s := withCmd net0 0 0x0031 56
      let b := setB 0x1001 0x0302 0 (leBytes 1 3)
      startsB s 0 0x0031 (.mgmt 1) b && (firstBad (rsvBytes b 4 8 ++ (upTo 1).flatMap (fun i => mgmtFields b (8 + 48 * i)))).isNone) &&
     (let s := withCmd (bl k0) 0 0x0031 56
      let b := setB 0x2000 0x0402 0 (leBytes 1 4)
      startsB s 0 0x0031 (.link 0) b && (firstBad (rsvBytes b 4 8 ++ (upTo 1).flatMap (fun i => linkFields b (8 + 48 * i)))).isNone &&
        le b 8 2 == 0x0402)) = true := by decide +kernel
/-- ROUTE of 10.0.0.0/24 by next hop 4. -/
def routeB : Bytes :=
  leBytes 4 1 ++ zeros 4 ++ [3#8, 0#8] ++ leBytes 2 0 ++ [24#8, 0#8] ++ zeros 2 ++ beBytes 16 (mapped4 0x0A000000) ++ [0#8, 0#8] ++ leBytes 2 4 ++ zeros 36
theorem witness_routes :
    (let s := withCmd net0 0 0x0032 72
     let b := routeB
     startsB s 0 0x0032 .routes b && b.length == 72 && le b 0 4 == 1 &&
       (firstBad (rsvBytes b 4 8 ++ ((upTo 1).map (fun i => 8 + 64 * i)).flatMap (routeFields b))).isNone &&
       fwdFits (((upTo 1).map (fun i => 8 + 64 * i)).foldl (applyRoute 0 b) s.fwd)) = true := by decide +kernel

/-- STATS of a scope. -/
def statB (scope op idx : Nat) : Bytes := leBytes 1 scope ++ leBytes 1 op ++ leBytes 2 idx ++ leBytes 4 0 ++ leBytes 4 (if scope = 8 then 64 else 0) ++ zeros 4
theorem witness_stats :
    ([(0, 0), (1, 0), (2, 1), (3, 6), (4, 0), (5, 0), (5, 9), (6, 0), (7, 0), (8, 0)].all (fun (p : Nat × Nat) => [0, 1, 2].all (fun op =>
        let s := withCmd { treeState thr with groups := [(0, two)] } 0 0x0052 16
        let b := statB p.1 op p.2
        startsB s 0 0x0052 .none b && b.length == 16 && (cmd 0 0x0052 16).outAddr % 64 == 0 && (statsBad s b).isNone && isPf 0 && byteAt b 0 == p.1 &&
          byteAt b 1 == op && (p.1 != 5 || (Tbl.has s.models (le b 2 2) && (s.model (le b 2 2)).owner == 0) == (p.2 == 0)) &&
          (p.1 != 6 || le b 2 2 == 0)))) = true := by decide +kernel
theorem witness_window :
    [0, 1].all (fun owner =>
        let s := withCmd (fs { two with owner := owner, blocks := [(0, { slots := [0] })] }) 0 0x0052 16
        let b := leBytes 1 8 ++ zeros 3 ++ leBytes 4 0x10000000 ++ leBytes 4 64 ++ zeros 4
        startsB s 0 0x0052 .none b && b.length == 16 && (statsBad s b).isNone && byteAt b 0 == 8 &&
          windowMine s 0 s.freeCount (le b 4 4) (le b 8 4) == (owner == 0)) = true := by decide +kernel
theorem witness_refusals :
    ([0x0002, 0x0003, 0x0004, 0x0022, 0x0023, 0x0050, 0x0051, 0x0052].all (fun op => [(1, 16, none), (0, 15, none), (0, 16, some 4)].all
      (fun (p : Nat × Nat × Option Nat) =>
        let c := { cmd p.1 op p.2.1 with badOff := p.2.2 }
        let s := { withCmd net0 p.1 op p.2.1 with cmds := [(0, c)] }
        okFn p.1 && s.live && (s.fn p.1).bme && headCmd s p.1 op == some (0, c) && Tbl.find? s.cmds 0 == some c && isPf p.1 == (p.1 == 0)))) = true := by
  decide +kernel
/-- Function 0 with an enabled ring `r` of 64 entries. -/
def ringS (r : Nat) (g : Ring) : State := net0.updFn 0 (fun f => { f with rings := [(r, { g with base := 4096, piAddr := 64, ciAddr := 128, log2 := 6 })] })
theorem witness_completion :
    (let s := { ringS 1 { enable := true, modUs := 5, modCount := 9 } with cmds := [(0, cmd 0 0x0052 16)] }
     let f := s.fn 0
     let r := f.ring 1
     s.cmds == [(0, cmd 0 0x0052 16)] && !(cmd 0 0x0052 16).silent && f.comps.isEmpty && f.events.isEmpty && f.rxQ.isEmpty && f.replies.isEmpty &&
       s.canWrite 0 1 && r.modUs != 0 && decide (r.unsig + 1 < r.modCount)) = true := by decide +kernel
theorem witness_rings :
    ([0, 11, 3, 6].all (fun r =>
        let s := { ringS r { enable := true } with now := 10 ^ 8 }
        let g := (s.fn 0).ring r
        okRing 0 r && hostRing r && s.fnLive 0 && g.enable && !s.ringLost 0 r && decide (g.polled + g.pollUs * 1000000 ≤ s.now) &&
          decide (g.size < wrap 32 ((65 : Int) - g.index)) && decide (wrap 32 ((64 : Int) - g.index) ≤ g.size)) &&
     (let s := { ringS 2 { enable := true, index := 64, unsig := 1, modUs := 5 } with now := 10 ^ 8 }
      let g := (s.fn 0).ring 2
      okRing 0 2 && !hostRing 2 && s.fnLive 0 && g.enable && !s.ringLost 0 2 && looksFull s 0 2 && decide (g.size < wrap 32 ((g.index : Int) - 65)) &&
        decide (wrap 32 ((g.index : Int) - 1) ≤ g.size) && g.unsig != 0 && g.modUs != 0 && decide (g.unsigAt + g.modUs * 1000000 ≤ s.now) &&
        bit (Tbl.getD (s.fn 0).msix g.vector {}).ctrl 0 &&
        !bit (Tbl.getD ((s.updFn 0 (fun f => { f with msix := [(g.vector, { ctrl := 0 })] })).fn 0).msix g.vector {}).ctrl 0) &&
     [true, false].all (fun ok =>
        let s := ringS 0 { pollUs := if ok then 10 else 0 }
        s.live && s.place.lost.isEmpty && !((s.fn 0).ring 0).enable && ringOk s 0 0 == ok)) = true := by decide +kernel
theorem witness_functions :
    (net0.hostUp.contains (0 / 64) && (net0.fn 0).bme && ({ net0 with boot := { net0.boot with pushing := some 0 } } : State).boot.pushing == some 0) = true := by
  decide +kernel
theorem witness_registers :
    (([[], [{ obj := .reg 0 0x4000, at_ := 0 }]].all (fun l => placeLost (plc net0 { lost := l }) == !l.isEmpty)) && net0.live && isPf 0 && !isPf 1 && okFn 1 &&
     (let s := plc net0 { qhold := 16, qholdNow := 40, qholdPending := true }
      s.place.qholdPending && holdFits s s.place.qhold && decide (s.place.qholdNow < 41) && decide (39 < s.place.qholdNow)) &&
     !holdFits { net0 with reqs := [(0, { rq with granules := 10 ^ 9 })] } 8 && net0.boot.st == 5 && !State.reset.live &&
     !((ringS 0 {}).fn 0).rings.isEmpty && !(((ringS 0 {}).fn 0).ring 0).enable &&
     (let s := net0.updFn 0 (fun f => { f with msixPend := 4 })
      decide (2 < vectors 0) && bit (s.fn 0).msixPend 2) && tuWriter net0 0 && !tuWriter net0 64 && isPf 64 && tuRegs.length != 0) = true := by decide +kernel
theorem witness_votes :
    (hardened net0 0 0x5000 && !hardened net0 0 0x10000 && net0.votes.isEmpty &&
     [(0x4000, 0, false), (0x3000, 0, false), (0x4000, 5, true), (0x3000, 5, true)].all (fun (p : Nat × Nat × Bool) =>
        let x : Vote := ⟨0, p.1, 40, 5⟩
        let s := { tuS none with votes := [x], now := p.2.1 }
        s.votes == [x] && x.fn == 0 && !hardened s 0 0x10000 && decide (x.due ≤ s.now) == p.2.2 && tclkRuns s) &&
     (let s := { tuS none with votes := [⟨0, 0x3000, 1, 0⟩], tu := {} }
      !tclkRuns s)) = true := by decide +kernel

/-- A TREE image of one leaf: its header, its section table and its seven sections at their aligned places. -/
def leafImage : Bytes :=
  leBytes 4 0x4D425255 ++ leBytes 2 1 ++ leBytes 2 0 ++ leBytes 4 7 ++ zeros 4 ++ leBytes 8 640 ++ leBytes 4 0x10001 ++ leBytes 4 1 ++ leBytes 4 1 ++ zeros 20 ++
  leBytes 8 0xd7274d1a0701956f ++
  ([(1, 320, 48, 0x480fe07704e0f767), (2, 384, 36, 0x8b824e73d9c0491d), (3, 448, 0, 0), (4, 448, 24, 0x94e66b9518f59db3), (5, 512, 0, 0), (6, 512, 64, 0),
    (7, 576, 4, 0x068c0ac9104577cf)] : List (Nat × Nat × Nat × Nat)).flatMap (fun (t, o, l, c) => leBytes 8 t ++ leBytes 8 o ++ leBytes 8 l ++ leBytes 8 c) ++
  zeros 32 ++ leBytes 2 1 ++ leBytes 2 1 ++ leBytes 1 0 ++ leBytes 1 1 ++ zeros 58 ++
  leBytes 2 1 ++ leBytes 1 1 ++ zeros 5 ++ leBytes 4 0 ++ leBytes 4 1 ++ leBytes 4 0x3F800000 ++ leBytes 4 1 ++ zeros 40 ++
  zeros 12 ++ leBytes 2 1 ++ zeros 50 ++ zeros 64 ++ leBytes 4 0x3F800000 ++ zeros 60
/-- MODEL_LOAD of 640 bytes into context 0 with DEADLINE 1, and the placement on block 0. -/
def loadB : Bytes := zeros 4 ++ leBytes 2 1 ++ zeros 18 ++ leBytes 8 640 ++ zeros 32
def leafPlace : PlaceChoice := { ctx := 0, replicas := [{ slices := [{ block := 0, trees := [⟨0, 0, 0, 0⟩], comps := [⟨0, 0⟩] }] }], regions := [], copyAt := 0 }
/-- MODEL_LOAD of an empty context, or of an owned one. -/
def loadS (own : Bool) : State := { (withCmd net0 0 0x0001 64) with models := if own then [(0, {})] else [] }
theorem witness_load :
    [false, true].all (fun own =>
      let s := loadS own
      let s1 := sweepAll (s.starting 0 (.model (le loadB 0 2)))
      startsB s 0 0x0001 (.model (le loadB 0 2)) loadB && loadB.length == 64 && (loadBad loadB).isNone && le loadB 0 2 != 0xFFFF && le loadB 0x18 8 == 640 &&
        Tbl.has s.models 0 == own && (s.model 0).owner == 0 && isPf 0 && s.power.hbmTrained && leafImage.length == 640 &&
        (checkImage leafImage 640 (progFits s1 leafImage)).isNone && (checkImage (zeros 640) 640 (progFits s1 (zeros 640))).isSome &&
        !(loadBlocks s1 0).isEmpty && choiceShape s1 0 leafImage (loadArgs loadB) leafPlace &&
        !choiceShape s1 0 leafImage (loadArgs loadB) { leafPlace with replicas := [] } &&
        (choiceShort s1 0 0 (if own then (s1.model 0).nextVer else 0) leafImage (loadArgs loadB) leafPlace).isNone) = true := by decide +kernel
/-- The bank entries that the choice fills hold rules of the context itself or of another. -/
def fullS (own : Bool) : State :=
  let r : Replica := { slices := (upTo 1).map (fun _ => { block := 0, trees := [⟨0, 0, 0, 0⟩], comps := [⟨0, 0⟩] }) }
  { withCmd net0 0 0x0001 64 with models := [(if own then 0 else 1, { st := 1, nextRep := 1, vers := [(0, { image := leafImage, replicas := [(0, r)], copyAt := 0x100000 })] })] }
theorem witness_load_short :
    ([(true, some 15), (false, none)].all (fun (p : Bool × Option Nat) =>
      let s := fullS p.1
      let s1 := sweepAll (s.starting 0 (.model 0))
      startsB s 0 0x0001 (.model 0) loadB && choiceShape s1 0 leafImage (loadArgs loadB) leafPlace && Tbl.has s.models 0 == p.1 &&
        (choiceShort s1 0 0 (if p.1 then (s1.model 0).nextVer else 0) leafImage (loadArgs loadB) leafPlace).isSome &&
        (choiceShort (withoutOld s1 0) 0 0 (if p.1 then (s1.model 0).nextVer else 0) leafImage (loadArgs loadB) leafPlace).isNone == p.1)) = true := by
  decide +kernel
theorem witness_load_none :
    ((loadBlocks ((upTo 64).foldl (fun s b => blk s b { fenced := true }) (loadS false)) 0).isEmpty &&
     (loadBad (loadB.set 2 9)).isSome && le (beBytes 2 0xFFFF ++ loadB.drop 2) 0 2 == 0xFFFF && (loadBad (beBytes 2 0xFFFF ++ loadB.drop 2)).isNone &&
     startsB (loadS false) 0 0x0001 .none (beBytes 2 0xFFFF ++ loadB.drop 2) &&
     (let s := { withCmd net0 1 0x0001 64 with models := [(0, {})], hostUp := [0, 1] }
      startsB s 1 0x0001 (.model 0) loadB && !isPf 1 && (s.model 0).owner != 1) && !(up.power.hbmTrained && !net0.power.hbmTrained)) = true := by decide +kernel
theorem has_map {α : Type} (d : α) (l : List Nat) (k : Nat) (h : k ∈ l) : Tbl.has (l.map (fun i => (i, d))) k = true := by
  induction l with
  | nil => cases h
  | cons a l ih =>
    by_cases e : a = k
    · simp [Tbl.has, Tbl.find?, e]
    · simp only [Tbl.has] at ih
      simp [Tbl.has, Tbl.find?, e, ih ((List.mem_cons.1 h).resolve_left (fun x => e x.symm))]
theorem has_range {α : Type} (d : α) (n k : Nat) (h : k < n) : Tbl.has ((List.range n).map (fun i => (i, d))) k = true :=
  has_map d (List.range n) k (List.mem_range.2 h)
/-- Every one of `n` contexts is taken. -/
def fullModels (n : Nat) : State := { net0 with models := (List.range n).map (fun i => (i, {})) }
theorem full_models (n k : Nat) (h : k < n) : Tbl.has (fullModels n).models k = true := has_range ({} : Model) n k h
theorem witness_load_full : ∀ k, k < 4096 → Tbl.has (fullModels 4096).models k = true := full_models 4096

/-- `up` with this boot and power state. -/
def bp0 (b : Boot) (p : Power) : State := { up with boot := b, power := p }
theorem witness_boot :
    ((let s := bp0 {} {}
      s.power.powered && !s.power.fenced && !s.boot.released) &&
     (let s := bp0 { st := 1, bootSrc := 2 } {}; s.boot.st == 1 && !s.power.fenced && s.boot.bootSrc != 0) &&
     (let s := bp0 { st := 1 } {}
      let x := readConfig s.boot (some [])
      s.boot.st == 1 && !s.power.fenced && s.boot.bootSrc == 0 && imageCheck [] x.minVersion x.ownerId != 0) &&
     (let s := bp0 { st := 3, bootSrc := 2 } {}; mayPush s 0 && s.boot.pushing.isNone) &&
     (let s := bp0 { st := 3, pushing := some 0 } {}
      s.boot.pushing == some 0 && s.boot.st == 3 && !s.power.fenced && imageCheck (([] : Bytes).take s.boot.pushLen) s.boot.minVersion s.boot.ownerId != 0) &&
     [4, 5].all (fun st => let s := bp0 { st := st } {}
        !s.power.hbmTrained && !s.power.fenced && s.power.st == 0 && s.boot.st == st && s.cmds.isEmpty) &&
     (let s := { bp0 { st := 4 } {} with now := second }
      s.boot.st == 4 && decide (s.boot.startedAt + second ≤ s.now))) = true := by decide +kernel
theorem witness_firmware :
    ((let s := withCmd net0 0 0x0060 16
      let b := zeros 16
      isPf 0 && startsB s 0 0x0060 .firmware b && decide (le b 8 4 ≤ 25165824) && allZero (slice b 12 4) && (activator s).isNone &&
        imageCheck (([] : Bytes).take (le b 8 4)) s.boot.minVersion s.boot.ownerId != 0) &&
     [(0xFF, false), (4, true), (0, false)].all (fun (p : Nat × Bool) =>
        let s := withCmd { net0 with boot := { net0.boot with activating := if p.2 then some (9, 0) else none } } 0 0x0070 16
        let b := leBytes 1 p.1 ++ leBytes 1 7 ++ zeros 14
        startsB s 0 0x0070 .none b && (firstBad (rsvBytes b 2 16)).isNone && decide (byteAt b 1 < 8) && byteAt b 0 == p.1 && s.boot.activating.isSome == p.2) &&
     [[], [(0, { cause := 0, src := 0, dst := 1 })]].all (fun m =>
        let s := withCmd { plc net0 { migs := m } with boot := { net0.boot with staged := some {} } } 0 0x0061 0
        startsB s 0 0x0061 .firmware [] && s.boot.staged == some {} && s.boot.pwrWait.isEmpty && s.boot.activating.isNone && placementQuiet s == m.isEmpty) &&
     [[], [(0, { cause := 0, src := 0, dst := 1 })]].all (fun m =>
        let s0 := withCmd { plc net0 { migs := m } with boot := { net0.boot with staged := some {}, activating := some (0, 0) } } 0 0x0061 0
        let s := { s0 with now := 10 * second }
        s.boot.staged == some {} && s.boot.activating == some (0, 0) && Tbl.find? s.cmds 0 == some (cmd 0 0x0061 0) && s.live &&
          placementQuiet s == m.isEmpty && decide (0 + 10 * second ≤ s.now)) &&
     ({ net0 with boot := { net0.boot with flash := 1 } } : State).boot.flash == 1) = true := by decide +kernel

/-- A device in a power state. -/
def pw (p : Power) : State := { net0 with power := p }
theorem witness_entry :
    ((let s := pw { targetEff := 1 }
      s.boot.st == 5 && !s.power.fenced && s.power.transit == .none && decide (s.power.st < entryGoal s)) &&
     (let s := { pw { transit := .drain 0 1 false false } with threads := [(0, thr)] }
      s.boot.st == 5 && !s.power.fenced && s.power.transit == .drain 0 1 false false && s.power.st == 0 && !s.threads.isEmpty) &&
     (let s := { pw { transit := .drain 0 1 false false } with ports := [(0, { fport with replyQ := [tf (.reply 0)] })] }
      s.power.st == 0 && s.threads.isEmpty && !egressEmpty s) &&
     (let s := pw { transit := .drain 0 1 false false }; s.power.st == 0 && s.threads.isEmpty && egressEmpty s) &&
     (let s := { pw { transit := .drain 0 1 true false } with now := milli }; s.power.st == 0 && decide (0 + milli ≤ s.now)) &&
     (let s := pw { st := 1, transit := .drain 0 2 false false }; s.boot.st == 5 && s.power.st == 1) &&
     (let s := { pw { st := 2, targetEff := 3, transit := .drain 0 3 false false } with models := [(0, { st := 1 })] }; decide (2 ≤ s.power.st) && holdReason s != 0) &&
     [2, 3].all (fun st => let s := pw { st := st, targetEff := 4, transit := .drain 0 4 false false }
        s.boot.st == 5 && s.power.st == st && holdReason s == 0 && !s.power.wakeLow) &&
     (let s := pw { st := 2, targetEff := 0 }; s.power.transit == .none && decide (s.power.targetEff < s.power.st) && decide (s.power.st ≤ 2)) &&
     (pw { st := 1, transit := .exit 0 }).power.transit == .exit 0) = true := by decide +kernel
/-- A record that matches a frame whose byte 0 is `x`. -/
def wrec (x : Byte) : WakeRec := { en := true, ports := 3, mask := 1, check := (crc32 [x]).toNat }
theorem witness_wakes :
    ([(4, 0), (2, 1), (2, 0)].all (fun (p : Nat × Nat) =>
        let s := pw { st := p.1, wakeEff := p.2 }
        !s.power.fenced && mayWake s && s.power.transit == .none && (s.power.st == 4 || bit s.power.wakeEff 0) == (p != (2, 0))) &&
     (let s := { pw { st := 3, wakeEff := 6 } with dev := { net0.dev with wake := [(3, wrec 0)] } }
      mayWake s && s.power.st == 3 && bit s.power.wakeEff 1 && bit s.power.wakeEff 2 && decide (64 ≤ (fr []).length) && fcsOk (fr []) &&
        (List.find? (fun (q : Nat × WakeRec) => wakeMatch q.2 0 (fr [])) s.dev.wake).isSome) &&
     isPf 0 && net0.live && attached net0 0 && net0.power.transit == .none &&
     (let s := { net0 with hostUp := [] }; decide (s.power.st ≤ 2) && s.power.powered && !s.hostUp.contains 0)) = true := by decide +kernel
theorem witness_supply :
    (!(pw { powered := false }).power.powered && net0.power.powered && net0.power.stopped.length != 4 && decide (3 ≤ (pw { st := 3 }).power.st) &&
     decide (net0.power.st ≤ 2) && !net0.power.fenced && decide (pmax net0.boot.profile < (2900001 : Int)) &&
     decide ((2700000 : Int) < pmax net0.boot.profile - 100000) && decide (pmax net0.boot.profile - 100000 ≤ (2850000 : Int)) &&
     decide ((2850000 : Int) ≤ pmax net0.boot.profile) && (pw { vins := [48000] }).power.vins == [48000] &&
     decide ((({} : Power).samples.headD {}).tDie < 100000) && !pmbusCodes.contains 0x05) = true := by decide +kernel
theorem witness_idle :
    ((applyVotes (tickCycle net0)).foldIn.isEmpty && net0.pending.isEmpty && net0.votes.isEmpty &&
     [0, 1].all (fun p =>
      let w : FoldWait := { port := 0, group := 0, cells := 1, poisoned := false, x := ⟨0, ipB, []⟩ }
      let x : FoldWait := { w with port := p }
      let v := applyVotes (tickCycle { fs two with foldIn := [w, x] })
      let u := foldHandle w.poisoned (pauseUpdate { v with foldIn := [x] } w.port) w.x
      v.foldIn == [w, x] && u.foldIn == [x])) = true := by decide +kernel
/-- A next state. -/
def goesOn : Host.Outcome State Fault Refusal → Bool
  | .next _ => true
  | _ => false
/-- A queue of one command; a state whose memory lists a byte; a fenced device and a halted one. -/
theorem witness_machine :
    (({ up with pending := [.stepApply] } : State).pending == [.stepApply] && up.pending.isEmpty && Instr.stepApply.wf && !(Instr.wakePatternMatch 2 []).wf) = true ∧
    Memory.wf ({ up with hbm := [(3, 7)], pending := [.stepApply] } : State).hbm = true ∧
    goesOn (step { up with hbm := [(3, 7)], pending := [.stepApply] }) = true ∧
    goesOn (exec .stepApply { up with power := { up.power with fenced := true }, boot := { up.boot with st := 6 } }) = true ∧ isReset .stepApply = false ∧
    up.boot.released = true ∧ (VIns.ctl 8 0 0).legal = true ∧ (encodeV (.ctl 8 0 0) < 2 ^ 32 ∧ decodeV (encodeV (.ctl 8 0 0)) = some (.ctl 8 0 0)) := by
  decide +kernel

/-! Ill-formed commands, one for each check of `Instr.wf`: the check refuses them, and they change nothing. -/

/-- The state is as reset left it. -/
def leavesReset : Host.Outcome State Fault Refusal → Bool
  | .next t => decide (t = State.reset)
  | _ => false
theorem test_ill_formed :
  (([.queryFrame 1024 [] .none, .hostQuery 256 0 (.err 0) .none, .hostQuery 0 4 (.err 0) .none, .gapWaitExpiry 4194304, .featurePresentation 262144 0 0,
   .featurePresentation 0 64 0, .hookBind 262144, .addSubMul 16384, .asyncLoadComplete 16384 0 [], .asyncLoadComplete 0 4 [],
   .arrayBatch 64 0 0, .arrayBatch 0 4096 0, .arrayPassDone 64, .bagGatherComplete 262144 0, .bagGatherComplete 0 16, .spillRestore 2 false,
   .digestWaitExpiry 4096 0, .treeRebuildDone 4096 0 none, .treeRebuildDone 0 65536 none, .pauseTimerExpiry 1024 0, .pauseRefresh 0 9,
   .linkDown 1024 0, .linkDown 0 32, .mgmtFrameRx 2 [], .cpTx 256 (.err 0), .blpAckTimer 7, .blpTimeout 8 0, .blpTimeout 0 4096, .routeSwitch ⟨8, []⟩,
   .laneLost 7 0 0, .laneFreeze 0 8, .prbsSync (.board 7 0) 0 0, .prbsSync (.board 0 8) 0 0, .prbsSync (.tile 16 0) 0 0, .prbsSync (.tile 0 64) 0 0,
   .actionStep 64, .pulseEnd 4, .hardScrub ⟨.port 1024, 0⟩ 0 0 0, .hardScrub ⟨.route 7 0, 0⟩ 0 0 0, .hardScrub ⟨.region 4096, 0⟩ 0 0 0,
   .hardScrub ⟨.sequencer 64, 0⟩ 0 0 0, .hardScrub ⟨.model 4096, 0⟩ 0 0 0, .hardScrub ⟨.reg 256 0, 0⟩ 0 0 0, .hardRestored ⟨.port 1024, 0⟩ 0,
   .hardRestored ⟨.port 0, 0⟩ 3, .hbmScrub (hbmSize / 64) false, .dataRestored 4096 0 0 [] [], .dataRestored 0 0 64 [] []] : List Instr).all
    (fun i => !i.wf && leavesReset (exec i State.reset))) = true := by decide +kernel
theorem test_ill_formed_more :
  (([.ruleScrub 64 0 0 1, .ruleScrub 0 64 0 1, .ruleScrub 0 0 1024 1, .faultScrubDone 64 0 none, .faultScrubDone 0 64 none,
   .faultScrubDone 0 0 (some 1024), .bankRelocated 64 0 [], .bankRelocated 0 64 [], .testDeferExpiry 64 none, .testDeferExpiry 0 (some 64),
   .blockFailure 64 ⟨0, none⟩, .blockFailure 0 ⟨4, none⟩, .blockFailure 0 ⟨3, some 4⟩, .blockFailure 0 ⟨2, some 0⟩, .blockRemapSteer 64 0, .blockRemapSteer 0 64, .coreRestart 16 0, .coreRestart 0 16, .spFailover 20 0,
   .spFailover 0 16, .stackLost 4 0, .stackLost 0 3, .clockStall 9 0, .clockReturn 9, .fenced 3 0 0, .fenced 0 7 0, .fenced 0 0 32,
   .drainDeadline 4096, .ringPoll 256 0 none [], .ringPoll 0 1 none [], .ringPoll 1 11 none [], .deviceRingCiPoll 0 0 none,
   .msixModerationExpiry 0 13, .blLaneCntLatch 256 0 0, .blLaneCntLatch 0 7 0, .blLaneCntLatch 0 0 8, .tileLaneCntLatch 256 0 0,
   .tileLaneCntLatch 0 16 0, .tileLaneCntLatch 0 0 64, .cntClr 256 (.tile 0 0) 0, .inject 0 (.tile 16 0) 0, .ringEnable 1 11, .ringDisable 256 0,
   .registerWrite 256 0 0, .registerWrite 0 0x100000 0, .registerWrite 1 0x20000 0, .effectiveRelease 4 0 0, .effectiveRelease 0 8 0,
   .effectiveRelease 0 0 4, .tileFault 4, .overTemp 0 0, .overTemp 7 0, .overTemp 1 32, .pcieWake 4, .pmbusUnsupported 256,
   .pmbusUnsupported 0x79, .laserLow 16 0, .apertureAccess 256 0 1 false, .apertureAccess 0 0 0 false, .apertureAccess 0 (2 ^ 32) 1 false] : List Instr).all
    (fun i => !i.wf && leavesReset (exec i State.reset))) = true := by decide +kernel

/-! Stage-program words, their fields written out from the tables of R155 and R157. -/

/-- ADD s3 = s1, s2: FMT, OP, SD, SA, SB, reserved. -/
theorem test_word_add : decodeV 0b000_000000_000011_000001_000010_00000 = some (.sca 0 3 1 2) := by decide
/-- ADDI s1 = s2 − 1. -/
theorem test_word_addi : decodeV 0b000_100000_000001_000010_11111111111 = some (.imm 0x20 1 2 (-1)) := by decide
/-- MOVK3 s63 = 0xABCD in bits 63:48. -/
theorem test_word_movk : decodeV 0b000_111111_111111_0_1010101111001101 = some (.movk 3 63 0xABCD) := by decide
/-- VFMA v4 = v5 × s6 + v4 under p7 in U32, BC set. -/
theorem test_word_vfma : decodeV 0b001_000011_00100_00101_00110_111_10_1_00 = some (.vec 3 4 5 6 7 2 true) := by decide
/-- LDL s9 from sa = s8, OFF12 = 0x801. -/
theorem test_word_ldl : decodeV 0b010_00000_001001_001000_100000000001 = some (.mem 0 9 8 0x801) := by decide
/-- LDVB v31 from s2, OFF10 = 0x3FF, tag 3. -/
theorem test_word_ldvb : decodeV 0b010_01001_011111_000010_1111111111_11 = some (.ldb 9 31 2 0x3FF 3) := by decide
/-- GATHB v1 from s2, indices v3, SC 2, guard p1, tag 2. -/
theorem test_word_gathb : decodeV 0b010_01010_000001_000010_00011_10_001_10 = some (.gath 10 1 2 3 2 1 2) := by decide
/-- BGEZ s5, two instructions back. -/
theorem test_word_bgez : decodeV 0b011_00100_000101_111111111111111110 = some (.ctl 4 5 (-2)) := by decide
/-- EMIT score 63 from s7. -/
theorem test_word_emit : decodeV 0b100_00100_000000_000111_000000111111 = some (.thr 4 0 7 63) := by decide
/-- What R155, R156 and R157 call illegal: FMT 5, OP 0x1D of FMT 0, a reserved bit, ET 3, END + 1. -/
theorem test_words_illegal :
    ([0b101_00000_000000_000000_000000000000, 0b000_011101_000000_000000_000000_00000, 0b000_000000_000000_000000_000000_00001,
      0b001_000000_00000_00000_00000_000_11_0_00, 0b011_01001_000000_000000000000000000].all (fun w => decodeV w == none)) = true := by decide
/-- The table gives no command bits. -/
theorem test_no_table_words : decodeTableWord 32 0 = none ∧ (State.reset.withFetchWord 32 7).pending = [] := by decide

end Sys2Proof.Tests
end

section
/-! Every command answers (O55). -/

namespace Sys2Proof.Machine

/-- The outcome is a next state, and it is the state before where the command names an object the device does not have. -/
def Answers (r : Res) (s : State) (named : Bool) : Prop := ∃ t, r = .next t ∧ (named = false → t = s)

/-- The shape of a command on an object of the device (log 1). -/
theorem onObj_answers (s : State) (ok : Bool) (t : State) : Answers (onObj s ok t) s ok :=
  ⟨_, rfl, fun h => by simp [h]⟩

/-- The shape of a command that names no object. -/
theorem next_answers (s t : State) : Answers (.next t) s true := ⟨t, rfl, nofun⟩

/-- A command that asks more of its operands than that they name objects changes nothing the sooner. -/
theorem Answers.of_and {r : Res} {s : State} {named more : Bool} (h : Answers r s (named && more)) : Answers r s named := by
  obtain ⟨t, hr, hs⟩ := h
  exact ⟨t, hr, fun hn => hs (by simp [hn])⟩

/-- Each arm of `exec` has one of three shapes: it names no object; it names objects; or it asks besides for an exception code or a
tree level that exists. -/
theorem exec_answers (c : Instr) (s : State) : Answers (exec c s) s c.wf := by
  cases c with
  | commitVerdict | retractSecondCopy | replyBuild | replyPositionRelease | helloTx | stepApply | holdoverStart | captureDeliver | eventCoalesceFlush
  | migrationLoadDone | migrationDone | flashProgramDone | pushImageDone | qholdShrinkDone | sysReset | bootFlash | bootStartTimeout | vinApplied 
  | vinUv | vinOv | keepaliveLoss | telemetrySample | stateEntry | egressDrainExpiry | stateExit | wakeN | clearFaults | statusWord | statusInput 
  | statusTemperature | readVin | readIin | readPin | readTemperature1 | readTemperature2 | pmbusRevision | mfrState | mfrFaultRecord | mfrTileIin 
  | mfrSample | wakeNHigh | hbmTrained | activateMigrationTimeout =>
    exact next_answers s _
  | combineMargin | foldCheckVerdict | groupCreate =>
    exact (onObj_answers s (_ && _) _).of_and
  | queryFrame | hostQuery | gapWaitExpiry | featurePresentation | treeLookup | egressTransmit | streamStopTimeout | hookBind | layerBind 
  | vseCyclesExceeded | addSubMul | andOrXor | shlShrSra | sltSltu | minMax | faddFsubFmul | ffma | fdivFsqrt | fge | cvtfi | cvtif | fexpFlog | rdfl 
  | clrfl | addiShliSlti | movk | vaddVsubVmul | vfma | vminVmax | vdivVsqrt | vexpVlogVlgstVtanh | vandVorVxor | vshlVshr | vcvt | vgeVeqVlt | vmov 
  | vrsumVrmax | vpandVporVpnot | viota | vshuf | ldl | ldvl | gathl | ldc | stc | ldb | ldvb | gathb | asyncLoadComplete | br | bzBnzBltzBgez 
  | banyBnone | loopDec | endRun | frd | frdx | frdv | hout | emit | refuse | geta | puta | gete | yieldIssue | waitg | waitall | arrayBatch 
  | arrayPassDone | arrayIdleGate | bagGatherComplete | contrib | partialFrame | spillRestore | foldResult | foldAck | noticeResend | noticeResendResult
  | noticeExpel | noticeHold | noticeReleased | noticeDeleted | noticeRestart | noticeIllegal | digest | digestWaitExpiry | hello | neighbourMissing 
  | noOtherPathExpiry | treeRebuildDone | lldp | macFrameRx | pause | pfc | pauseTimerExpiry | pauseRefresh | linkHoldExpiry | linkDown | mgmtFrameRx 
  | wakePatternMatch | forwardFrame | flowAgeExpiry | cpTx | blpRd | blpWr | blpAtomic | blpCpl | blpCplAbort | blpAck | blpNak | blpAckTimer 
  | blpReplayTimeout | blpTimeout | blpMsg | blpQmsg | routeSwitch | trainingSet | trainGoodStable | trainTimeout | trainIdleEnd | laneLost 
  | retrainTimeout | laneFreeze | exerciseSequence | deepEntry | deepRefused | deepRetry | deepExit | warmTrainTimeout | prbsSync | actionPulse 
  | pulseEnd | actionPps | actionTrigger | actionEvent | actionSnapshot | actionStep | tinCapture | hardScrub | hardRestored | hbmScrub | dataRestored 
  | ruleScrub | faultScrubDone | bankRelocated | testDue | testDeferExpiry | blockTest | blockFailure | blockRemapSteer | sequencerHeartbeatMiss 
  | coreRestart | spFailover | stackLost | clockStall | fenced | placementSample | flowHomeMove | shadowSwitch | drainDeadline | modelDrainEnd 
  | flowRemoveDone | ringPoll | deviceRingCiPoll | msixModerationExpiry | functionLevelReset | busMasterClear | modelLoad | modelEnable | modelDisable 
  | modelUnload | flowConfig | groupMember | groupDelete | groupDigest | groupRelease | portPlan | portConfig | route | timeAction | testRun | stake 
  | stats | fwStage | fwActivate | powerState | tuIncCommit | tuStepArm | tuSnapLatch | blLaneCntLatch | tileLaneCntLatch | blockLiveLatch | cntClr 
  | inject | testModeWrite | pushLenWrite | pwrReqWrite | ringEnable | ringDisable | qholdWrite | standbyWrite | testIntervalWrite | testDeferWrite 
  | registerWrite | effectiveRelease | tileFault | overTemp | pcieWake | pfAttachChange | pcieLinkChange | pmbusUnsupported | clockReturn | laserLow 
  | noticeWindow | noticeFailed | foldTypeIllegal | blpIllegal | blpPacketDiscard | apertureAccess | busMasterSet =>
    exact onObj_answers s _ _

/-- Settles O55: each arm of `exec` answers a next state, the state before where an operand names nothing the device has. -/
theorem everyCommandAnswers : Obligations.EveryCommandAnswers := exec_answers

end Sys2Proof.Machine
end

section
/-! What sending leaves of a state: frames, packets, events, counts and pauses change the functions, the queues of ports and links,
what has left the device and a little bookkeeping, and no more. -/

namespace Sys2Proof.Machine

/-- A fold keeps what each of its steps keeps. -/
theorem foldl_keeps {σ α β : Type} (view : σ → β) {f : σ → α → σ} (h : ∀ s a, view (f s a) = view s) (l : List α) (s : σ) :
    view (l.foldl f s) = view s := by
  induction l generalizing s with
  | nil => rfl
  | cons a l ih => exact (ih (f s a)).trans (h s a)

/-- A choice keeps what both sides keep. -/
theorem ite_keeps {σ β : Type} (view : σ → β) {p : Prop} [Decidable p] {a b : σ} {x : β} (ha : view a = x) (hb : view b = x) :
    view (if p then a else b) = x := by
  split
  · exact ha
  · exact hb

/-- What sending leaves as it is: all but the functions, what has left the device, counters, queues of ports and links,
outstanding board requests, and what placement notes of events and spill pressure; the state of every port and link stays. -/
def State.unsent (s : State) : State × (Nat → PortSt) × (Nat → BlSt) :=
  ({ s with fns := [], outs := [], ports := [], links := [], counters := [], blpReqs := [],
            place := { s.place with evseq := 0, coal := [], spillPress := [] } },
   fun p => (s.port p).st, fun l => (s.link l).st)

section
variable {s t : State} (h : t.unsent = s.unsent)
include h

theorem groups_of_unsent : t.groups = s.groups := congrArg (fun v => v.1.groups) h
theorem stakes_of_unsent : t.place.stakes = s.place.stakes := congrArg (fun v => v.1.place.stakes) h
theorem lost_of_unsent : t.place.lost = s.place.lost := congrArg (fun v => v.1.place.lost) h
end

/-! The updates it is made of. -/

@[simp] theorem count_unsent (s : State) (c : CName) (o n i : Nat) : (s.count c o n i).unsent = s.unsent := rfl
@[simp] theorem emit_unsent (s : State) (o : Out) : (s.emit o).unsent = s.unsent := rfl

/-- An update of a port that keeps its state. -/
theorem updPort_unsent (s : State) (p : Nat) {f : Port → Port} (hf : (f (s.port p)).st = (s.port p).st) :
    (s.updPort p f).unsent = s.unsent := by
  refine Prod.ext rfl (Prod.ext (funext fun q => ?_) rfl)
  simp only [State.unsent, State.port_updPort]
  split
  · next hq => rw [hq, hf]
  · rfl

/-- An update of a link that keeps its state. -/
theorem updLink_unsent (s : State) (l : Nat) {f : Link → Link} (hf : (f (s.link l)).st = (s.link l).st) :
    (s.updLink l f).unsent = s.unsent := by
  refine Prod.ext rfl (Prod.ext rfl (funext fun k => ?_))
  simp only [State.unsent, State.link_updLink]
  split
  · next hk => rw [hk, hf]
  · rfl

theorem unsent_of_eventless {s t : State} (h : t.eventless = s.eventless) : t.unsent = s.unsent := by
  have hm := congrArg (fun x : State =>
    ({ x with ports := [], links := [], counters := [], blpReqs := [], place := { x.place with spillPress := [] } } : State)) h
  have hp : t.ports = s.ports := (congrArg State.ports h :)
  have hl : t.links = s.links := (congrArg State.links h :)
  refine Prod.ext hm (Prod.ext (funext fun p => ?_) (funext fun l => ?_))
  · simp only [State.unsent, State.port, hp]
  · simp only [State.unsent, State.link, hl]

@[simp] theorem general_unsent (s : State) (l : List Nat) (e c o p x y : Nat) : (s.general l e c o p x y).unsent = s.unsent :=
  unsent_of_eventless (State.general_eventless s l e c o p x y)
@[simp] theorem integ_unsent (s : State) (e : Integ) : (s.integ e).unsent = s.unsent :=
  unsent_of_eventless (State.integ_eventless s e)

/-! Packets on board links (R228 to R234). -/

@[simp] theorem markIssued_unsent (s : State) (p : Bytes) : (markIssued s p).unsent = s.unsent := by
  unfold markIssued; split <;> rfl

@[simp] theorem sendNow_unsent (s : State) (l : Nat) (p : Bytes) : (sendNow s l p).unsent = s.unsent := by
  unfold sendNow
  simp only [emit_unsent, markIssued_unsent]
  rw [updLink_unsent _ _ rfl]
  split <;> simp

@[simp] theorem pumpLink_unsent (l n : Nat) (s : State) : (pumpLink l n s).unsent = s.unsent := by
  induction n generalizing s with
  | zero => rfl
  | succ n ih =>
    unfold pumpLink
    split
    · split
      · rw [ih, sendNow_unsent, updLink_unsent _ _ rfl]
      · rfl
    · rfl

@[simp] theorem sendBlp_unsent (s : State) (l : Nat) (p : Bytes) : (sendBlp s l p).unsent = s.unsent := by
  unfold sendBlp
  rw [pumpLink_unsent, updLink_unsent _ _ rfl]

/-! Frames to members and parents of a group (R175, R185). -/

@[simp] theorem sendFold_unsent (s : State) (gn tc port addr udp : Nat) (p : Bytes) :
    (sendFold s gn tc port addr udp p).unsent = s.unsent := by
  unfold sendFold
  dsimp only
  split
  · simp
  · split
    · rfl
    · split
      · simp
      · split
        · simp
        · split
          · simp
          · split
            · simp
            · split
              · simp
              · exact updPort_unsent _ _ rfl

@[simp] theorem sendMember_unsent (s : State) (gn : Nat) (g : Group) (m : Member) (p : Bytes) :
    (sendMember s gn g m p).unsent = s.unsent := sendFold_unsent _ _ _ _ _ _ _
@[simp] theorem sendParent_unsent (s : State) (gn : Nat) (g : Group) (p : Bytes) : (sendParent s gn g p).unsent = s.unsent := by
  unfold sendParent; split <;> simp
@[simp] theorem notice_unsent (s : State) (gn : Nat) (g : Group) (m code detail step block sub : Nat) :
    (notice s gn g m code detail step block sub).unsent = s.unsent := by
  unfold notice; split <;> simp
@[simp] theorem noticeUp_unsent (s : State) (gn : Nat) (g : Group) (code detail step block sub : Nat) :
    (noticeUp s gn g code detail step block sub).unsent = s.unsent := by
  simp [noticeUp]
@[simp] theorem noticeAll_unsent (s : State) (gn : Nat) (g : Group) (only : Bool) (code detail step : Nat) :
    (noticeAll s gn g only code detail step).unsent = s.unsent :=
  foldl_keeps State.unsent (fun s p => by split <;> simp) _ _

/-! Pauses (R366, R208). -/

@[simp] theorem queuePause_unsent (s : State) (p cls : Nat) (xoff : Bool) : (queuePause s p cls xoff).unsent = s.unsent := by
  unfold queuePause
  dsimp only
  split
  · rfl
  · exact updPort_unsent s p (f := fun _ => _) rfl

@[simp] theorem pauseUpdate_unsent (s : State) (p : Nat) : (pauseUpdate s p).unsent = s.unsent := by
  refine foldl_keeps State.unsent (fun s c => ?_) _ _
  dsimp only
  split
  · rw [queuePause_unsent, updPort_unsent _ _ rfl]
  · split
    · rw [queuePause_unsent, updPort_unsent _ _ rfl]
    · rfl

@[simp] theorem applySpill_unsent (s : State) : (applySpill s).unsent = s.unsent := by
  refine foldl_keeps State.unsent (fun s q => ?_) _ _
  split
  · rfl
  · rw [pauseUpdate_unsent, updPort_unsent _ _ rfl]

@[simp] theorem spillPressure_unsent (s : State) (die : Nat) : (spillPressure s die).unsent = s.unsent := by
  unfold spillPressure
  dsimp only
  rw [applySpill_unsent]
  split
  · rfl
  · split <;> rfl

@[simp] theorem settlePaused_unsent (s : State) (p c : Nat) : (settlePaused s p c).unsent = s.unsent := by
  unfold settlePaused
  dsimp only
  split
  · split
    · rfl
    · rw [count_unsent, updPort_unsent _ _ rfl]
  · split
    · rfl
    · rw [count_unsent, updPort_unsent _ _ rfl]

@[simp] theorem groupConsumePoison_unsent (s : State) (gn row kind unit : Nat) :
    (consumePoison s gn row kind unit).unsent = s.unsent := by
  simp [consumePoison]

end Sys2Proof.Machine
end

section
/-! What the work of queries, fold groups and board requests leaves of a state: models, flows, memory, blocks, power and boot, and
the state of every port and link. -/

namespace Sys2Proof.Machine

/-- What the work on queries, fold groups and board requests leaves as it is: all that sending leaves but the groups, the
requests and threads with their contexts, board requests, neighbours, and the numbering of fold blocks. -/
def State.unworked (s : State) : State × (Nat → PortSt) × (Nat → BlSt) :=
  ({ s with fns := [], outs := [], ports := [], links := [], counters := [], blpReqs := [], blpGot := [], blpWait := [],
            blpRoute := [], neigh := [], groups := [], threads := [], reqs := [], vctx := [],
            place := { s.place with evseq := 0, coal := [], spillPress := [], foldSeq := 0 } },
   fun p => (s.port p).st, fun l => (s.link l).st)

section
variable {s t : State} (h : t.unworked = s.unworked)
include h

theorem models_of_unworked : t.models = s.models := congrArg (fun v => v.1.models) h
theorem flows_of_unworked : t.flows = s.flows := congrArg (fun v => v.1.flows) h
theorem regions_of_unworked : t.regions = s.regions := congrArg (fun v => v.1.regions) h
theorem hbm_of_unworked : t.hbm = s.hbm := congrArg (fun v => v.1.hbm) h
theorem boot_of_unworked : t.boot = s.boot := congrArg (fun v => v.1.boot) h
theorem stackLive_of_unworked : t.place.stackLive = s.place.stackLive := congrArg (fun v => v.1.place.stackLive) h
end

/-- What sending leaves, work leaves. -/
theorem unworked_of_unsent {s t : State} (h : t.unsent = s.unsent) : t.unworked = s.unworked :=
  congrArg (fun v : State × (Nat → PortSt) × (Nat → BlSt) =>
    (({ v.1 with blpGot := [], blpWait := [], blpRoute := [], neigh := [], groups := [], threads := [], reqs := [], vctx := [],
                 place := { v.1.place with foldSeq := 0 } } : State), v.2)) h

/-! The updates it is made of. -/

@[simp] theorem count_unworked (s : State) (c : CName) (o n i : Nat) : (s.count c o n i).unworked = s.unworked := rfl
@[simp] theorem emit_unworked (s : State) (o : Out) : (s.emit o).unworked = s.unworked := rfl
@[simp] theorem updGroup_unworked (s : State) (n : Nat) (f : Group → Group) : (s.updGroup n f).unworked = s.unworked := rfl
@[simp] theorem updThread_unworked (s : State) (n : Nat) (f : Thread → Thread) : (s.updThread n f).unworked = s.unworked := rfl
@[simp] theorem updReq_unworked (s : State) (n : Nat) (f : Request → Request) : (s.updReq n f).unworked = s.unworked := rfl
@[simp] theorem updRec_unworked (s : State) (r i : Nat) (f : QRec → QRec) : (s.updRec r i f).unworked = s.unworked := rfl
@[simp] theorem updFB_unworked (s : State) (gn pos : Nat) (f : FBlock → FBlock) : (s.updFB gn pos f).unworked = s.unworked := rfl
@[simp] theorem dropCtxOf_unworked (s : State) (tid : Nat) : (s.dropCtxOf tid).unworked = s.unworked := rfl
@[simp] theorem freeHold_unworked (s : State) (r : Nat) : (s.freeHold r).unworked = s.unworked := rfl
@[simp] theorem general_unworked (s : State) (l : List Nat) (e c o p x y : Nat) :
    (s.general l e c o p x y).unworked = s.unworked := unworked_of_unsent (general_unsent ..)
@[simp] theorem integ_unworked (s : State) (e : Integ) : (s.integ e).unworked = s.unworked := unworked_of_unsent (integ_unsent ..)
@[simp] theorem sendBlp_unworked (s : State) (l : Nat) (p : Bytes) : (sendBlp s l p).unworked = s.unworked :=
  unworked_of_unsent (sendBlp_unsent ..)
@[simp] theorem notice_unworked (s : State) (gn : Nat) (g : Group) (m code detail step block sub : Nat) :
    (notice s gn g m code detail step block sub).unworked = s.unworked := unworked_of_unsent (notice_unsent ..)
@[simp] theorem noticeUp_unworked (s : State) (gn : Nat) (g : Group) (code detail step block sub : Nat) :
    (noticeUp s gn g code detail step block sub).unworked = s.unworked := unworked_of_unsent (noticeUp_unsent ..)
@[simp] theorem noticeAll_unworked (s : State) (gn : Nat) (g : Group) (only : Bool) (code detail step : Nat) :
    (noticeAll s gn g only code detail step).unworked = s.unworked := unworked_of_unsent (noticeAll_unsent ..)
@[simp] theorem pauseUpdate_unworked (s : State) (p : Nat) : (pauseUpdate s p).unworked = s.unworked :=
  unworked_of_unsent (pauseUpdate_unsent ..)
@[simp] theorem spillPressure_unworked (s : State) (die : Nat) : (spillPressure s die).unworked = s.unworked :=
  unworked_of_unsent (spillPressure_unsent ..)
@[simp] theorem settlePaused_unworked (s : State) (p c : Nat) : (settlePaused s p c).unworked = s.unworked :=
  unworked_of_unsent (settlePaused_unsent ..)
@[simp] theorem groupConsumePoison_unworked (s : State) (gn row kind unit : Nat) :
    (consumePoison s gn row kind unit).unworked = s.unworked := unworked_of_unsent (groupConsumePoison_unsent ..)

/-! Threads (R168, R231, R285, R290). -/

@[simp] theorem endThread_unworked (s : State) (tid : Nat) : (s.endThread tid).unworked = s.unworked := by
  unfold State.endThread; split <;> simp
@[simp] theorem threadFault_unworked (s : State) (tid : Nat) : (s.threadFault tid).unworked = s.unworked := by
  simp [State.threadFault]
@[simp] theorem threadInvalid_unworked (s : State) (tid : Nat) : (s.threadInvalid tid).unworked = s.unworked := by
  simp [State.threadInvalid]

theorem sendQmsg_unworked {s t : State} {dev kind fn ctx : Nat} {p : Bytes} (h : sendQmsg s dev kind fn ctx p = some t) :
    t.unworked = s.unworked := by
  unfold sendQmsg at h
  split at h
  · cases h
  · cases h; simp

/-- A QMSG that finds no route faults its thread (R231). -/
theorem sendQmsgOrFault_unworked (s : State) (dev kind fn ctx : Nat) (p : Bytes) (tid : Nat) :
    (match sendQmsg s dev kind fn ctx p with | some u => u | none => s.threadFault tid).unworked = s.unworked := by
  split
  · next h => exact sendQmsg_unworked h
  · simp

@[simp] theorem sendFeatures_unworked (s : State) (tid : Nat) (t : Thread) : (sendFeatures s tid t).unworked = s.unworked := by
  unfold sendFeatures
  split
  · rfl
  · exact foldl_keeps State.unworked (fun s x => sendQmsgOrFault_unworked ..) _ _

@[simp] theorem sendRow_unworked (s : State) (tid : Nat) : (sendRow s tid).unworked = s.unworked := by
  unfold sendRow
  split
  · rfl
  · exact ite_keeps State.unworked rfl (foldl_keeps State.unworked (fun s x =>
      foldl_keeps State.unworked (fun s q => sendQmsgOrFault_unworked ..) _ _) _ _)

@[simp] theorem startTree_unworked (s : State) (tid : Nat) (t : Thread) (img : Bytes) :
    (startTree s tid t img).unworked = s.unworked := by
  simp only [startTree, apply_ite State.unworked, threadInvalid_unworked, sendFeatures_unworked, count_unworked, updThread_unworked,
    ite_self]

@[simp] theorem startNeural_unworked (s : State) (tid : Nat) (t : Thread) (img : Bytes) :
    (startNeural s tid t img).unworked = s.unworked := by
  unfold startNeural; split <;> simp

@[simp] theorem startThread_unworked (s : State) (tid : Nat) : (startThread s tid).unworked = s.unworked := by
  unfold startThread
  split
  · rfl
  · dsimp only; split <;> simp

@[simp] theorem replayThread_unworked (s : State) (tid : Nat) : (replayThread s tid).unworked = s.unworked := by
  unfold replayThread; split <;> simp

@[simp] theorem rehome_unworked (s : State) (tid dst : Nat) : (rehome s tid dst).1.unworked = s.unworked := by
  unfold rehome
  split
  · rfl
  · simp

/-- A thread that is not done is replayed (R290). -/
theorem replayUndone_unworked (s : State) (n : Nat) :
    (match Tbl.find? s.threads n with
     | some t => if t.done then s else replayThread s n
     | none => s).unworked = s.unworked := by
  split
  · split <;> simp
  · rfl

@[simp] theorem replayOn_unworked (s : State) (src dst : Nat) (l : List (Nat × Thread)) :
    (replayOn s src dst l).unworked = s.unworked := by
  refine foldl_keeps State.unworked (fun s p => ?_) _ _
  dsimp only
  refine (replayUndone_unworked _ _).trans ?_
  split <;> simp

/-! Requests whose frames leave (R44, R289). -/

@[simp] theorem retire_unworked (s : State) (r : Nat) : (retire s r).unworked = s.unworked := by
  unfold retire
  split
  · split <;> rfl
  · rfl
@[simp] theorem replyLeft_unworked (s : State) (r : Nat) (recs : List Nat) (good : Bool) :
    (replyLeft s r recs good).unworked = s.unworked := by
  unfold replyLeft
  dsimp only
  rw [retire_unworked]
  split
  · split <;> simp
  · simp

/-! Fold groups (R192 to R205, R213, R254). -/

@[simp] theorem setGroupState_unworked (s : State) (gn st cause step : Nat) :
    (setGroupState s gn st cause step).unworked = s.unworked := by
  unfold setGroupState
  split
  · rfl
  · dsimp only; split <;> simp
@[simp] theorem failGroup_unworked (s : State) (gn : Nat) : (failGroup s gn).unworked = s.unworked := by
  unfold failGroup
  split
  · rfl
  · split <;> simp
@[simp] theorem heldFails_unworked (s : State) (gn die : Nat) (poisoned : Bool) :
    (heldFails s gn die poisoned).unworked = s.unworked := by
  unfold heldFails; split <;> simp
@[simp] theorem holdGroup_unworked (s : State) (gn e cause : Nat) : (holdGroup s gn e cause).unworked = s.unworked := by
  unfold holdGroup
  split
  · rfl
  · split <;> simp
@[simp] theorem spillBlock_unworked (s : State) (gn pos : Nat) : (spillBlock s gn pos).unworked = s.unworked := by
  unfold spillBlock; split <;> simp
@[simp] theorem makeRoom_unworked (die n k : Nat) (s : State) : (makeRoom die n k s).unworked = s.unworked := by
  induction k generalizing s with
  | zero => rfl
  | succ k ih =>
    unfold makeRoom
    split
    · rfl
    · split <;> simp [ih]
@[simp] theorem makeSide_unworked (die n gn pos k : Nat) (s : State) : (makeSide die n gn pos k s).unworked = s.unworked := by
  induction k generalizing s with
  | zero => rfl
  | succ k ih =>
    unfold makeSide
    split
    · rfl
    · split
      · split <;> simp [ih]
      · rfl
@[simp] theorem addHeld_unworked (s : State) (gn pos i : Nat) : (addHeld s gn pos i).unworked = s.unworked := by
  unfold addHeld
  split
  · split
    · rfl
    · split
      · rfl
      · simp only [apply_ite State.unworked, count_unworked, updFB_unworked, makeSide_unworked, ite_self]
  · rfl
@[simp] theorem addWaiting_unworked (s : State) (gn pos : Nat) : (addWaiting s gn pos).unworked = s.unworked := by
  unfold addWaiting
  split
  · exact foldl_keeps State.unworked (fun s i => addHeld_unworked s gn pos i) _ _
  · rfl
@[simp] theorem releaseReady_unworked (s : State) (gn : Nat) : (releaseReady s gn).unworked = s.unworked := rfl
theorem foldSeq_unworked (s : State) (n : Nat) : ({ s with place := { s.place with foldSeq := n } } : State).unworked = s.unworked := rfl
@[simp] theorem tryComplete_unworked (s : State) (gn pos : Nat) : (tryComplete s gn pos).unworked = s.unworked := by
  unfold tryComplete
  split
  · split
    · simp [foldSeq_unworked]
    · rfl
  · rfl
@[simp] theorem rebuildBlock_unworked (s : State) (gn pos : Nat) : (rebuildBlock s gn pos).unworked = s.unworked := by
  unfold rebuildBlock
  split
  · dsimp only
    split
    · simp
    · simp only [tryComplete_unworked, addWaiting_unworked, spillPressure_unworked, apply_ite State.unworked, count_unworked,
        updFB_unworked, makeRoom_unworked, ite_self]
  · rfl
@[simp] theorem remapGroup_unworked (s : State) (src gn : Nat) (dest : Nat → List Nat) (acc : Nat → Nat) :
    (remapGroup s src gn dest acc).unworked = s.unworked := by
  unfold remapGroup
  dsimp only
  split
  · simp
  · rw [spillPressure_unworked]
    refine (foldl_keeps State.unworked (fun s p => ?_) _ _).trans (updGroup_unworked ..)
    split <;> simp
@[simp] theorem reviveGroup_unworked (s : State) (gn : Nat) : (reviveGroup s gn).unworked = s.unworked := by
  unfold reviveGroup
  split
  · split <;> simp
  · rfl
@[simp] theorem retryPaths_unworked (s : State) (gn : Nat) : (retryPaths s gn).unworked = s.unworked := by
  unfold retryPaths
  rw [reviveGroup_unworked]
  refine foldl_keeps State.unworked (fun s p => ?_) _ _
  split <;> simp
@[simp] theorem neighbourGone_unworked (s : State) (p : Nat) : (neighbourGone s p).unworked = s.unworked := by
  refine foldl_keeps State.unworked (fun s q => ?_) _ _
  dsimp only
  simp only [apply_ite State.unworked, holdGroup_unworked, retryPaths_unworked, updGroup_unworked, setGroupState_unworked, ite_self]
theorem neigh_unworked (s : State) (l : Tbl Neigh) : ({ s with neigh := l } : State).unworked = s.unworked := rfl
@[simp] theorem neighbourEvent_unworked (s : State) (p cause : Nat) : (neighbourEvent s p cause).unworked = s.unworked := by
  simp [neighbourEvent, neigh_unworked]

/-! Board requests (R232, R233, R236). -/

@[simp] theorem finishAperture_unworked (s : State) (id fn a n : Nat) : (finishAperture s id fn a n).unworked = s.unworked := by
  unfold finishAperture
  dsimp only
  split
  · split
    · rfl
    · split <;> rfl
  · rfl
@[simp] theorem endReq_unworked (s : State) (w : BlpWait) (st : Nat) (data : Bytes) : (endReq s w st data).unworked = s.unworked := by
  unfold endReq
  dsimp only
  generalize hs : (if (if 7 ≤ st then 4 else st) = 2 then _ else s) = u
  have hu : u.unworked = s.unworked := hs ▸ ite_keeps State.unworked (general_unworked ..) rfl
  rw [← hu]
  refine ite_keeps State.unworked rfl ?_
  split
  · exact ite_keeps State.unworked rfl rfl
  · exact ite_keeps State.unworked rfl (ite_keeps State.unworked rfl rfl)
  · exact finishAperture_unworked ..
  · rfl
theorem issueRoute_unworked {s t : State} {dev : Nat} {l : Option Nat} (h : issueRoute s dev = some (l, t)) :
    t.unworked = s.unworked := by
  unfold issueRoute at h
  split at h
  · cases h; rfl
  · split at h
    · cases h
    · cases h; rfl
/-- What a choice gives, one of its sides gives. -/
theorem some_of_ite {α : Type} {p : Prop} [Decidable p] {a b : Option α} {x : α} (h : (if p then a else b) = some x) :
    a = some x ∨ b = some x := by
  split at h
  · exact Or.inl h
  · exact Or.inr h
theorem tryIssue_unworked {s t : State} {w : BlpWait} (h : tryIssue s w = some t) : t.unworked = s.unworked := by
  obtain h | h := some_of_ite h
  · cases h; rfl
  obtain h | h := some_of_ite h
  · obtain rfl := Option.some.inj h
    exact ite_keeps State.unworked (endReq_unworked ..) (endReq_unworked ..)
  obtain h | h := some_of_ite h
  · cases h
  split at h
  · next hr =>
    obtain h | h := some_of_ite h
    · cases h
    · cases h; exact (endReq_unworked ..).trans (issueRoute_unworked hr)
  · next hr =>
    have hroute := issueRoute_unworked hr
    cases h; exact (sendBlp_unworked ..).trans hroute
  · cases h
@[simp] theorem pumpBlp_unworked (s : State) : (pumpBlp s).unworked = s.unworked := by
  refine foldl_keeps (fun a : State × List BlpWait => a.1.unworked) (fun a w => ?_) _ _
  split
  · rfl
  · split
    · next h => exact tryIssue_unworked h
    · rfl
@[simp] theorem reqDone_unworked (s : State) (k st : Nat) (data : Bytes) : (reqDone s k st data).unworked = s.unworked := by
  unfold reqDone
  split
  · rfl
  · rw [pumpBlp_unworked, endReq_unworked]; rfl
@[simp] theorem writeRemote_unworked (s : State) (a : Nat) (b : Bytes) : (writeRemote s a b).unworked = s.unworked :=
  pumpBlp_unworked _

end Sys2Proof.Machine
end

section
/-! How a host command reaches its meaning: the descriptor on offer, its argument block, the checks of its fields (R436, R443, R445,
R454). -/

namespace Sys2Proof.Machine

/-! The outcome of a command on an object of the device. -/

theorem onObj_of_named {s t : State} {ok : Bool} (h : ok = true) : onObj s ok t = .next t := by simp [onObj, h]

/-! Fields of an argument block. -/

/-- No field is bad exactly when every one is legal. -/
theorem firstBad_eq_none_iff (l : List (Nat × Bool)) : firstBad l = none ↔ ∀ p ∈ l, p.2 = true := by
  induction l with
  | nil => simp [firstBad]
  | cons p l ih =>
    obtain ⟨o, ok⟩ := p
    cases ok <;> simp [firstBad, ih]

/-- A byte of a field whose bytes are all 0. -/
theorem byteAt_of_allZero {b : Bytes} {a n i : Nat} (h : allZero (slice b a n) = true) (hi : i < n) : byteAt b (a + i) = 0 := by
  unfold byteAt
  rw [List.getD_eq_getElem?_getD]
  cases e : b[a + i]? with
  | none => rfl
  | some x =>
    have hx : x ∈ slice b a n := List.mem_of_getElem? (i := i) (by simp [slice, hi, e])
    have hz := List.all_eq_true.mp h x hx
    simp only [beq_iff_eq] at hz
    simp [hz]

/-- Reserved bytes that are all 0 are legal, each by itself. -/
theorem rsvBytes_legal {b : Bytes} {a z : Nat} (h : allZero (slice b a (z - a)) = true) : ∀ p ∈ rsvBytes b a z, p.2 = true := by
  intro p hp
  obtain ⟨i, hi, rfl⟩ := List.mem_map.mp hp
  simp [byteAt_of_allZero h (List.mem_range.mp hi)]

/-- A block of the length its descriptor gives is taken as it is. -/
theorem padTo_take_self {n : Nat} {b : Bytes} (h : b.length = n) : padTo n (b.take n) = b := by
  subst h
  simp [padTo, zeros]

/-! The descriptor on offer. -/

variable {s : State} {fn op n : Nat} {o : ObjRef} {c : Cmd} {b : Bytes}

/-- A command on offer whose descriptor is good, permitted to its function, comes with its argument block. -/
theorem takeArg_of_offers (h : Offers s fn op n c) (hbad : c.badOff = none) (hb : b.length = c.argLen) {lenOk : Nat → Bool}
    (hlen : lenOk c.argLen = true) : takeArg s fn op true lenOk (.data b) = .inr (n, c, b) := by
  obtain ⟨-, hlive, hbme, hhead, -⟩ := h
  simp [takeArg, hlive, hbme, hhead, hbad, hlen, padTo_take_self hb]

/-- On an object that no earlier command of the ring runs on, a command starts. -/
theorem startOn_of_free (h : objBusy s fn n o = false) (k : State → State) : startOn s fn n o k = k (s.starting n o) := by
  simp [startOn, h, State.starting]

end Sys2Proof.Machine
end

section
/-! What the operations on a fold group do to the table of groups (R211, R212, R214, R215, R254). -/

namespace Sys2Proof.Machine

/-! Operations that leave every group as it is. -/

@[simp] theorem notice_groups (s : State) (gn : Nat) (g : Group) (m code detail step block sub : Nat) :
    (notice s gn g m code detail step block sub).groups = s.groups := groups_of_unsent (notice_unsent ..)
@[simp] theorem noticeUp_groups (s : State) (gn : Nat) (g : Group) (code detail step block sub : Nat) :
    (noticeUp s gn g code detail step block sub).groups = s.groups := groups_of_unsent (noticeUp_unsent ..)
@[simp] theorem noticeAll_groups (s : State) (gn : Nat) (g : Group) (only : Bool) (code detail step : Nat) :
    (noticeAll s gn g only code detail step).groups = s.groups := groups_of_unsent (noticeAll_unsent ..)
@[simp] theorem general_groups (s : State) (l : List Nat) (e c o p x y : Nat) : (s.general l e c o p x y).groups = s.groups :=
  groups_of_unsent (general_unsent ..)
@[simp] theorem spillPressure_groups (s : State) (die : Nat) : (spillPressure s die).groups = s.groups :=
  groups_of_unsent (spillPressure_unsent ..)
@[simp] theorem spillPressure_stakes (s : State) (die : Nat) : (spillPressure s die).place.stakes = s.place.stakes :=
  stakes_of_unsent (spillPressure_unsent ..)
@[simp] theorem spillPressure_lost (s : State) (die : Nat) : (spillPressure s die).place.lost = s.place.lost :=
  lost_of_unsent (spillPressure_unsent ..)
@[simp] theorem finish_groups (s : State) (n st d r0 r1 : Nat) (out : Bytes) : (s.finish n st d r0 r1 out).groups = s.groups :=
  (congrArg State.groups (State.finish_hostless s n st d r0 r1 out) :)

/-! A change of one group. -/

/-- Group `gn` is `x` after the change, and no other group has changed. -/
def Regroups (gn : Nat) (x : Group) (s t : State) : Prop :=
  Tbl.find? t.groups gn = some x ∧ ∀ k, k ≠ gn → Tbl.find? t.groups k = Tbl.find? s.groups k

variable {s t u : State} {gn : Nat} {g x y : Group}

theorem Regroups.refl (h : Tbl.find? s.groups gn = some g) : Regroups gn g s s := ⟨h, fun _ _ => rfl⟩

theorem Regroups.trans (h : Regroups gn x s t) (h' : Regroups gn y t u) : Regroups gn y s u :=
  ⟨h'.1, fun k hk => (h'.2 k hk).trans (h.2 k hk)⟩

/-- What leaves every group as it is may follow the change, -/
theorem Regroups.followed (h : Regroups gn x s t) (hu : u.groups = t.groups) : Regroups gn x s u := by
  unfold Regroups
  rw [hu]; exact h

/-- or come before it. -/
theorem Regroups.preceded (h : Regroups gn x t u) (ht : t.groups = s.groups) : Regroups gn x s u := by
  unfold Regroups
  rw [← ht]; exact h

theorem regroups_updGroup (h : Tbl.find? s.groups gn = some g) (f : Group → Group) : Regroups gn (f g) s (s.updGroup gn f) :=
  ⟨by simp [State.find_updGroup, h], fun k hk => by simp [State.find_updGroup, hk]⟩

theorem regroups_setGroupState (h : Tbl.find? s.groups gn = some g) (st cause step : Nat) :
    Regroups gn { g with st := st, cause := cause } s (setGroupState s gn st cause step) := by
  refine (regroups_updGroup h fun x => { x with st := st, cause := cause }).followed ?_
  simp only [setGroupState, h]
  split <;> simp

/-- A group that is not DEGRADED starts again (R214). -/
theorem regroups_restartGroup (h : Tbl.find? s.groups gn = some g) (hst : g.st ≠ 1) (gen step : Nat) :
    Regroups gn { g with gen := gen, oldest := step * g.nblk, missing := [], blocks := g.restarted step } s
      (restartGroup s gn gen step) := by
  refine (regroups_updGroup h fun _ => { g with gen := gen, oldest := step * g.nblk, missing := [], blocks := g.restarted step }).followed ?_
  simp [restartGroup, h, hst]

/-! Deletion (R215). -/

theorem deleteGroup_groups (h : Tbl.find? s.groups gn = some g) : (deleteGroup s gn).groups = Tbl.del s.groups gn := by
  simp [deleteGroup, h, State.forget]

theorem deleteGroup_stake (h : Tbl.find? s.groups gn = some g) :
    Tbl.find? (deleteGroup s gn).place.stakes (stakeKey true gn) = none := by
  simp [deleteGroup, h, State.forget]

theorem deleteGroup_lost (h : Tbl.find? s.groups gn = some g) : ∀ l ∈ (deleteGroup s gn).place.lost, l.obj ≠ .group gn := by
  simp [deleteGroup, h, State.forget]

/-! Expulsion (R211). -/

/-- Members under the given numbers end with step `e`. -/
def endMembers (e : Nat) (t : Tbl Member) (ps : List (Nat × Member)) : Tbl Member :=
  ps.foldl (fun t p => Tbl.modify t p.1 (fun m => { m with untilStep := some e })) t

theorem find?_endMembers (e : Nat) (ps : List (Nat × Member)) (t : Tbl Member) (k : Nat) :
    Tbl.find? (endMembers e t ps) k =
      (Tbl.find? t k).map (fun m => if k ∈ ps.map Prod.fst then { m with untilStep := some e } else m) := by
  induction ps generalizing t with
  | nil => simp [endMembers]
  | cons p ps ih =>
    show Tbl.find? (endMembers e (Tbl.modify t p.1 _) ps) k = _
    rw [ih, Tbl.find?_modify]
    by_cases hk : k = p.1
    · subst hk
      cases Tbl.find? t p.1 <;> simp
    · simp only [List.map_cons, List.mem_cons, hk, if_false, false_or]

/-- Every member stays; each may have been ended with step `e`, and those of `out` have been. -/
def Ended (e : Nat) (out : Member → Prop) (t u : Tbl Member) : Prop :=
  ∀ k m, Tbl.find? t k = some m → ∃ m', Tbl.find? u k = some m' ∧ (m' = m ∨ m' = { m with untilStep := some e }) ∧
    (out m → m'.untilStep = some e)

/-- An endpoint of the replica on this device that is not yet excluded from step `e`. -/
def Member.expelled (m : Member) (r e : Nat) : Prop := m.child = false ∧ m.replica = r ∧ m.lastsTo e = true

/-- One endpoint ends with step `e`, and is told. -/
def expelMember (gn : Nat) (g : Group) (r e : Nat) (s : State) (p : Nat × Member) : State :=
  (notice (s.updGroup gn (fun x => { x with members := endMembers e x.members [p] })) gn g p.1 6 0 e 0 0).general
    [g.owner] 0x0311 0 (objCode 2 gn) 0 r e

theorem expelReplica_eq (h : Tbl.find? s.groups gn = some g) (r e : Nat) :
    expelReplica s gn r e = noticeAll ((List.filter (fun (p : Nat × Member) => !p.2.child && p.2.replica == r && p.2.lastsTo e)
      g.members).foldl (expelMember gn g r e) s) gn g true 5 r e := by
  unfold expelReplica
  rw [h]
  rfl

theorem regroups_expelMembers (g : Group) (r e : Nat) (ps : List (Nat × Member)) (h : Tbl.find? s.groups gn = some x) :
    Regroups gn { x with members := endMembers e x.members ps } s (ps.foldl (expelMember gn g r e) s) := by
  induction ps generalizing s x with
  | nil => exact Regroups.refl h
  | cons p ps ih =>
    have first : Regroups gn { x with members := endMembers e x.members [p] } s (expelMember gn g r e s p) :=
      (regroups_updGroup h fun x => { x with members := endMembers e x.members [p] }).followed (by simp [expelMember])
    exact first.trans (ih first.1)

theorem regroups_expelReplica (h : Tbl.find? s.groups gn = some g) (r e : Nat) :
    ∃ ms, Regroups gn { g with members := ms } s (expelReplica s gn r e) ∧ Ended e (·.expelled r e) g.members ms := by
  refine ⟨_, expelReplica_eq h r e ▸ (regroups_expelMembers g r e _ h).followed (noticeAll_groups ..), fun k m hm => ?_⟩
  refine ⟨_, by rw [find?_endMembers, hm]; rfl, ?_, fun hout => ?_⟩
  · split <;> simp
  · obtain ⟨hchild, hreplica, hlast⟩ := hout
    have hk : (k, m) ∈ List.filter (fun (p : Nat × Member) => !p.2.child && p.2.replica == r && p.2.lastsTo e) g.members :=
      List.mem_filter.mpr ⟨Tbl.find?_mem hm, by simp [hchild, hreplica, hlast]⟩
    exact congrArg Member.untilStep (if_pos (List.mem_map_of_mem hk))

/-- One replica after the other is expelled. -/
theorem regroups_expelReplicas (e : Nat) (rs : List Nat) (h : Tbl.find? s.groups gn = some g) :
    ∃ ms, Regroups gn { g with members := ms } s (rs.foldl (fun s r => expelReplica s gn r e) s) ∧
      Ended e (fun m => ∃ r ∈ rs, m.expelled r e) g.members ms := by
  induction rs generalizing s g with
  | nil => exact ⟨g.members, Regroups.refl h, fun k m hm => ⟨m, hm, .inl rfl, by simp⟩⟩
  | cons r rs ih =>
    obtain ⟨ms, hfirst, hms⟩ := regroups_expelReplica h r e
    obtain ⟨ms', hrest, hms'⟩ := ih hfirst.1
    refine ⟨ms', hfirst.trans hrest, fun k m hm => ?_⟩
    obtain ⟨m1, hm1, heq1, hout1⟩ := hms k m hm
    obtain ⟨m2, hm2, heq2, hout2⟩ := hms' k m1 hm1
    have ended : m1.untilStep = some e → m2.untilStep = some e := by
      intro h1; rcases heq2 with rfl | rfl
      · exact h1
      · rfl
    refine ⟨m2, hm2, ?_, ?_⟩
    · rcases heq1 with rfl | rfl <;> rcases heq2 with rfl | rfl <;> simp
    · rintro ⟨r', hr', hexp⟩
      rcases heq1 with rfl | rfl
      · rcases List.mem_cons.mp hr' with rfl | hr'
        · exact ended (hout1 hexp)
        · exact hout2 ⟨r', hr', hexp⟩
      · exact ended rfl

/-! The end of a HOLD (R212, R213, R254). -/

/-- The group's paths may have moved; its state, what waits for its release and the steps of its members have not. -/
def Moved (g x : Group) : Prop :=
  x.st = g.st ∧ x.waitExpel = g.waitExpel ∧
    ∀ k m, Tbl.find? g.members k = some m → ∃ m', Tbl.find? x.members k = some m' ∧ m'.untilStep = m.untilStep

theorem Moved.refl (g : Group) : Moved g g := ⟨rfl, rfl, fun _ m hm => ⟨m, hm, rfl⟩⟩

theorem Moved.trans (h : Moved g x) (h' : Moved x y) : Moved g y := by
  obtain ⟨hst, hwait, hms⟩ := h
  obtain ⟨hst', hwait', hms'⟩ := h'
  refine ⟨hst'.trans hst, hwait'.trans hwait, fun k m hm => ?_⟩
  obtain ⟨m1, hm1, h1⟩ := hms k m hm
  obtain ⟨m2, hm2, h2⟩ := hms' k m1 hm1
  exact ⟨m2, hm2, h2.trans h1⟩

theorem moved_movePath (g : Group) (p q : Nat) : Moved g (movePath g p q) := by
  refine ⟨rfl, rfl, fun k m hm => ⟨_, by simp only [movePath, Tbl.find?_mapVals, hm]; rfl, ?_⟩⟩
  exact ite_keeps Member.untilStep rfl rfl

/-- A group's paths to some missing neighbours move, each where there is another. -/
theorem regroups_movePaths (ps : List Nat) (h : Tbl.find? s.groups gn = some g) :
    ∃ x, Regroups gn x s (ps.foldl (fun s p =>
      match otherPath s p with | some r => s.updGroup gn (fun x => movePath x p r) | none => s) s) ∧ Moved g x := by
  induction ps generalizing s g with
  | nil => exact ⟨g, Regroups.refl h, Moved.refl g⟩
  | cons p ps ih =>
    rw [List.foldl_cons]
    split
    · next q _ =>
      have first := regroups_updGroup h (fun x => movePath x p q)
      obtain ⟨x, hx, hmoved⟩ := ih first.1
      exact ⟨x, first.trans hx, (moved_movePath g p q).trans hmoved⟩
    · exact ih h

/-- A DEGRADED group that misses no neighbour is ACTIVE again; any other stays as it is. -/
theorem regroups_reviveGroup (h : Tbl.find? s.groups gn = some g) :
    ∃ st cause, Regroups gn { g with st := st, cause := cause } s (reviveGroup s gn) ∧ st ≤ g.st := by
  unfold reviveGroup
  rw [h]
  dsimp only
  split
  · exact ⟨0, 2, regroups_setGroupState h 0 2 _, Nat.zero_le _⟩
  · exact ⟨g.st, g.cause, Regroups.refl h, Nat.le_refl _⟩

/-- A DEGRADED group looks for other paths: it is DEGRADED still, or ACTIVE. -/
theorem regroups_retryPaths (h : Tbl.find? s.groups gn = some g) (hst : g.st = 1) :
    ∃ x, Regroups gn x s (retryPaths s gn) ∧ x.st < 2 ∧ x.waitExpel = g.waitExpel ∧
      ∀ k m, Tbl.find? g.members k = some m → ∃ m', Tbl.find? x.members k = some m' ∧ m'.untilStep = m.untilStep := by
  obtain ⟨x, hx, hxst, hwait, hms⟩ := regroups_movePaths _ h
  obtain ⟨st, cause, hrevive, hle⟩ := regroups_reviveGroup hx.1
  exact ⟨_, hx.trans hrevive, show st < 2 by omega, hwait, hms⟩

/-- A HOLD ends at step `e`: a group that misses no tree neighbour is ACTIVE. -/
theorem regroups_releaseHold_whole (h : Tbl.find? s.groups gn = some g) (hst : g.st = 2) (hmiss : g.missing = []) (e : Nat) :
    Regroups gn { g with st := 0, cause := 5 } s (releaseHold s gn e) :=
  (regroups_setGroupState h 0 5 e).followed (by simp [releaseHold, h, hst, hmiss])

/-- A HOLD ends at step `e`: the group is ACTIVE or DEGRADED, and its members stand as they stood. -/
theorem regroups_releaseHold (h : Tbl.find? s.groups gn = some g) (hst : g.st = 2) (e : Nat) :
    ∃ x, Regroups gn x s (releaseHold s gn e) ∧ x.st < 2 ∧ x.waitExpel = g.waitExpel ∧
      ∀ k m, Tbl.find? g.members k = some m → ∃ m', Tbl.find? x.members k = some m' ∧ m'.untilStep = m.untilStep := by
  by_cases hmiss : g.missing = []
  · exact ⟨_, regroups_releaseHold_whole h hst hmiss e, by simp, rfl, fun k m hm => ⟨m, hm, rfl⟩⟩
  · have active := (regroups_setGroupState h 0 5 e).followed (u := noticeAll (setGroupState s gn 0 5 e) gn g false 8 0 e) (by simp)
    have degraded := regroups_setGroupState active.1 1 2 (g.stepAt g.oldest)
    obtain ⟨x, hx, hlt, hwait, hms⟩ := regroups_retryPaths degraded.1 rfl
    have eq : releaseHold s gn e =
        retryPaths (setGroupState (noticeAll (setGroupState s gn 0 5 e) gn g false 8 0 e) gn 1 2 (g.stepAt g.oldest)) gn := by
      simp [releaseHold, h, hst, hmiss]
    exact ⟨x, eq ▸ active.trans (degraded.trans hx), hlt, hwait, hms⟩

end Sys2Proof.Machine
end

section
/-! Host commands on fold groups (O43). -/

namespace Sys2Proof.Machine

variable {s : State} {fn op n : Nat} {c : Cmd} {b : Bytes} {g : Group}

/-- A command with a legal GROUP block, on a group its function owns, comes to its meaning. -/
theorem withGroupArg_of_owned (h : Offers s fn op n c) (hbad : c.badOff = none) (hb : b.length = c.argLen) {lenOk : Nat → Bool}
    (hlen : lenOk c.argLen = true) {bad : Cmd → Bytes → Option Nat} (hlegal : bad c b = none)
    (hg : Tbl.find? s.groups (le b 0 2) = some g) (hown : g.owner = fn) (k : Nat → Nat → Group → Bytes → State) :
    withGroupArg s fn op lenOk (.data b) bad k = k n (le b 0 2) g b := by
  simp [withGroupArg, takeArg_of_offers h hbad hb hlen, hlegal, hg, hown]

/-- GROUP_DELETE of a group that waits for no change of members (R215). -/
theorem exec_groupDelete {o : ObjRef} (h : Starts s fn 0x0022 n o c b) (ho : o = .group (le b 0 2)) (hlen : c.argLen = 16)
    (hlegal : firstBad ((0, okCtx (le b 0 2)) :: rsvBytes b 2 16) = none)
    (hg : Tbl.find? s.groups (le b 0 2) = some g) (hown : g.owner = fn) (hcmd : g.memberCmd = none) :
    exec (.groupDelete fn (.data b)) s = .next ((deleteGroup (s.starting n o) (le b 0 2)).finish n stOk 0) := by
  obtain ⟨hoff, hfree, hbad, hb⟩ := h
  subst ho
  refine (onObj_of_named hoff.1).trans (congrArg _ ?_)
  rw [withGroupArg_of_owned hoff hbad hb (by simp [hlen]) (by simp [hlegal]) hg hown, hcmd]
  exact startOn_of_free hfree _

/-- GROUP_DELETE of a group with a waiting GROUP_MEMBER ends that command with STATE (R475). -/
theorem exec_groupDelete_over_member (h : Offers s fn 0x0022 n c) (hbad : c.badOff = none) (hb : b.length = 16)
    (hlen : c.argLen = 16) (hlegal : firstBad ((0, okCtx (le b 0 2)) :: rsvBytes b 2 16) = none)
    (hg : Tbl.find? s.groups (le b 0 2) = some g) (hown : g.owner = fn) {m e : Nat} (hcmd : g.memberCmd = some (m, e))
    (hfree : objBusy (s.finish m stState 0x02FF) fn n (.group (le b 0 2)) = false) :
    exec (.groupDelete fn (.data b)) s =
      .next ((deleteGroup ((s.finish m stState 0x02FF).starting n (.group (le b 0 2))) (le b 0 2)).finish n stOk 0) := by
  refine (onObj_of_named h.1).trans (congrArg _ ?_)
  rw [withGroupArg_of_owned h hbad (hb.trans hlen.symm) (by simp [hlen]) (by simp [hlegal]) hg hown, hcmd]
  exact startOn_of_free hfree _

/-- GROUP_DIGEST on a legal block (R21, R209). -/
theorem exec_groupDigest {o : ObjRef} (h : Starts s fn 0x0023 n o c b) (ho : o = .group (le b 0 2)) (hlen : c.argLen = 16)
    (hctx : le b 0 2 < 4096) (hlo : 1 ≤ byteAt b 4) (hhi : byteAt b 4 ≤ 64) (hz : allZero (slice b 5 3) = true)
    (hw : 1 ≤ le b 8 4) (hw' : le b 8 4 ≤ 60000) (hz' : allZero (slice b 12 4) = true)
    (hg : Tbl.find? s.groups (le b 0 2) = some g) (hown : g.owner = fn) :
    exec (.groupDigest fn (.data b)) s = .next (((s.starting n o).updGroup (le b 0 2) (fun x =>
      if x.blocks.isEmpty && x.blockAt x.oldest == 0 then
        { x with k := le b 2 2, digestLen := byteAt b 4, digestWait := le b 8 4,
                 digests := if le b 2 2 = 0 then [] else x.digests }
      else { x with nextDigest := some (le b 2 2, byteAt b 4, le b 8 4) })).finish n stOk 0) := by
  obtain ⟨hoff, hfree, hbad, hb⟩ := h
  subst ho
  have hlegal : firstBad ([(0, okCtx (le b 0 2)), (4, decide (1 ≤ byteAt b 4) && decide (byteAt b 4 ≤ 64))] ++ rsvBytes b 5 8 ++
      [(8, decide (1 ≤ le b 8 4) && decide (le b 8 4 ≤ 60000))] ++ rsvBytes b 12 16) = none := by
    rw [firstBad_eq_none_iff]
    simp only [List.forall_mem_append, List.forall_mem_cons, okCtx, hctx, hlo, hhi, hw, hw', decide_true, Bool.and_self, List.not_mem_nil,
      false_imp_iff, implies_true, and_true, true_and]
    exact ⟨rsvBytes_legal hz, rsvBytes_legal hz'⟩
  refine (onObj_of_named hoff.1).trans (congrArg _ ?_)
  rw [withGroupArg_of_owned hoff hbad hb (by simp [hlen]) (Option.map_eq_none_iff.mpr hlegal) hg hown]
  exact startOn_of_free hfree _

/-- What GROUP_RELEASE does to a held group: the replicas named, and those whose expulsion waited, are expelled from the hold step;
a group held for want of another path starts again (R212, R214, R216, R254). -/
def releaseGroup (s : State) (gn : Nat) (g : Group) (named : List Nat) : State :=
  let u := ((named ++ g.waitExpel).eraseDups).foldl (fun s r => expelReplica s gn r g.holdStep)
    (s.updGroup gn (fun x => { x with waitExpel := [] }))
  releaseHold (if g.cause = 2 then restartGroup u gn g.gen (g.stepAt g.oldest) else u) gn g.holdStep

/-- The replicas a GROUP_RELEASE block names. -/
def namedReplicas (b : Bytes) : List Nat := (upTo (le b 2 2)).map (fun i => le b (8 + 2 * i) 2)

/-- GROUP_RELEASE on a legal block: STATE for a group that does not hold, else the release (R212, R566). -/
theorem exec_groupRelease {o : ObjRef} (h : Starts s fn 0x0024 n o c b) (ho : o = .group (le b 0 2)) (hn : le b 2 2 ≤ 1024)
    (hlen : c.argLen = releaseLen (le b 2 2)) (hctx : le b 0 2 < 4096)
    (hlegal : firstBad (rsvBytes b 4 8 ++ rsvBytes b (8 + 2 * le b 2 2) (releaseLen (le b 2 2))) = none)
    (hg : Tbl.find? s.groups (le b 0 2) = some g) (hown : g.owner = fn) :
    exec (.groupRelease fn (.data b)) s = .next
      (if g.st ≠ 2 then (s.starting n o).finish n stState (0x0200 + g.st)
       else (releaseGroup (s.starting n o) (le b 0 2) g (namedReplicas b)).finish n stOk 0 g.holdStep) := by
  obtain ⟨hoff, hfree, hbad, hb⟩ := h
  subst ho
  have hsize : (decide (8 ≤ c.argLen) && decide (c.argLen ≤ 16777216)) = true := by
    simp only [hlen, releaseLen, ceilDiv, Bool.and_eq_true, decide_eq_true_eq]
    omega
  have hblock : ∀ l : List (Nat × Bool), firstBad ((0, okCtx (le b 0 2)) :: (2, decide (le b 2 2 ≤ 1024)) :: l) = firstBad l :=
    fun l => by simp [firstBad, okCtx, hctx, hn]
  refine (onObj_of_named hoff.1).trans (congrArg _ ?_)
  rw [withGroupArg_of_owned hoff hbad hb hsize (by simp [hlen, hblock, hlegal]) hg hown, startOn_of_free hfree]
  have hgs : Tbl.find? (s.starting n (.group (le b 0 2))).groups (le b 0 2) = some g := hg
  rw [hgs]
  rfl

/-- A released group: no other changes, it is ACTIVE or DEGRADED, and the endpoints of the replicas expelled end with the hold
step. -/
theorem releaseGroup_spec {gn : Nat} (hg : Tbl.find? s.groups gn = some g) (hst : g.st = 2) (named : List Nat) :
    ∃ x, Regroups gn x s (releaseGroup s gn g named) ∧ x.st < 2 ∧ x.waitExpel = [] ∧
      (g.missing = [] ∨ g.cause = 2 → x.st = 0 ∧ x.cause = 5 ∧ x.missing = []) ∧
      (g.cause = 2 → x.oldest = g.stepAt g.oldest * g.nblk) ∧
      ∀ k m, Tbl.find? g.members k = some m → m.child = false → m.lastsTo g.holdStep = true → m.replica ∈ named ++ g.waitExpel →
        ∃ m', Tbl.find? x.members k = some m' ∧ m'.untilStep = some g.holdStep := by
  have begun := regroups_updGroup hg (fun x => { x with waitExpel := [] })
  obtain ⟨ms, expelled, hms⟩ := regroups_expelReplicas g.holdStep (named ++ g.waitExpel).eraseDups begun.1
  have ended : ∀ k m, Tbl.find? g.members k = some m → m.child = false → m.lastsTo g.holdStep = true →
      m.replica ∈ named ++ g.waitExpel → ∃ m', Tbl.find? ms k = some m' ∧ m'.untilStep = some g.holdStep := by
    intro k m hm hchild hlast hin
    obtain ⟨m', hm', -, hout⟩ := hms k m hm
    exact ⟨m', hm', hout ⟨m.replica, List.mem_eraseDups.mpr hin, hchild, rfl, hlast⟩⟩
  have before := begun.trans expelled
  unfold releaseGroup
  dsimp only
  by_cases hcause : g.cause = 2
  · rw [if_pos hcause]
    have restarted := before.trans (regroups_restartGroup before.1 (show g.st ≠ 1 by omega) g.gen (g.stepAt g.oldest))
    have released := restarted.trans (regroups_releaseHold_whole restarted.1 hst rfl g.holdStep)
    exact ⟨_, released, by simp, rfl, fun _ => ⟨rfl, rfl, rfl⟩, fun _ => rfl, ended⟩
  · rw [if_neg hcause]
    by_cases hmiss : g.missing = []
    · have released := before.trans (regroups_releaseHold_whole before.1 hst hmiss g.holdStep)
      exact ⟨_, released, by simp, rfl, fun _ => ⟨rfl, rfl, hmiss⟩, fun h => absurd h hcause, ended⟩
    · obtain ⟨x, released, hlt, hwait, hkept⟩ := regroups_releaseHold before.1 hst g.holdStep
      refine ⟨x, before.trans released, hlt, hwait, fun h => absurd h (by simp [hmiss, hcause]), fun h => absurd h hcause, ?_⟩
      intro k m hm hchild hlast hin
      obtain ⟨m1, hm1, h1⟩ := ended k m hm hchild hlast hin
      obtain ⟨m2, hm2, h2⟩ := hkept k m1 hm1
      exact ⟨m2, hm2, h2.trans h1⟩

/-- Settles O43: a deletion takes the group's entry, stake and losses; a DIGEST is a change of the group alone; a RELEASE is
expulsion, restart and the end of the hold, each of which changes the group alone. -/
theorem groupsAreRuled : Obligations.GroupsAreRuled := by
  intro s fn n c b g gn s1 hg hown
  refine ⟨?deleted, ?overMember, ?digest, ?release⟩
  case deleted =>
    intro h hlen hlegal hcmd
    have hg1 : Tbl.find? s1.groups gn = some g := hg
    exact ⟨_, exec_groupDelete h rfl hlen hlegal hg hown hcmd, by rw [deleteGroup_groups hg1]; exact Tbl.find?_del_self _ _,
      fun k hk => by rw [deleteGroup_groups hg1, Tbl.find?_del, if_neg hk]; rfl, deleteGroup_stake hg1, deleteGroup_lost hg1⟩
  case overMember =>
    intro h hbad hb hlen hlegal m e hcmd hfree
    have hg1 : Tbl.find? ((s.finish m stState 0x02FF).starting n (.group gn)).groups gn = some g := by simpa using hg
    exact ⟨_, exec_groupDelete_over_member h hbad hb hlen hlegal hg hown hcmd hfree, by rw [deleteGroup_groups hg1]; exact Tbl.find?_del_self _ _⟩
  case digest =>
    intro h hlen hctx hlo hhi hz hw hw' hz' x u
    rw [exec_groupDigest h rfl hlen hctx hlo hhi hz hw hw' hz' hg hown]
    have hu : s1.updGroup gn (fun x =>
        if x.blocks.isEmpty && x.blockAt x.oldest == 0 then
          { x with k := le b 2 2, digestLen := byteAt b 4, digestWait := le b 8 4,
                   digests := if le b 2 2 = 0 then [] else x.digests }
        else { x with nextDigest := some (le b 2 2, byteAt b 4, le b 8 4) }) = u := by
      simp [State.updGroup, Tbl.modify, s1, hg, u, x]
    rw [← hu]
  case release =>
    intro h hn hlen hctx hlegal
    rw [exec_groupRelease h rfl hn hlen hctx hlegal hg hown]
    refine ⟨fun hst => by rw [if_pos hst], fun hst => ?_⟩
    obtain ⟨x, ⟨hx, hothers⟩, hlt, hwait, hactive, holdest, hended⟩ :=
      releaseGroup_spec (s := s1) hg hst (namedReplicas b)
    refine ⟨_, by rw [if_neg fun hne => hne hst], hothers, x, hx, hlt, hwait, fun hor => ?_, holdest, ?_⟩
    · obtain ⟨hst', hcause', hmiss'⟩ := hactive hor
      refine ⟨hst', hcause', hmiss'.trans ?_⟩
      rcases hor with hmiss | hcause
      · simp [hmiss]
      · simp [hcause]
    · intro k m hm hchild hlast hin
      refine hended k m hm hchild hlast (List.mem_append.mpr (hin.symm.imp_left ?_))
      rintro ⟨i, hi, heq⟩
      exact List.mem_map.mpr ⟨i, List.mem_range.mpr hi, heq.symm⟩

end Sys2Proof.Machine
end

section
/-! MODEL_LOAD (O39): what sweeping versions and placing one leave of the contexts and of HBM. -/

namespace Sys2Proof.Machine

/-! The contexts but for their versions. -/

/-- A context but for its versions and the numbers of its replicas. -/
def Model.role (x : Model) : Model := { x with vers := [], nextRep := 0 }

/-- Which contexts exist, each but for its versions; the memory; and the boot state. -/
def State.contexts (s : State) : (Nat → Bool) × (Nat → Model) × List Host.Cell × Boot :=
  (fun k => Tbl.has s.models k, fun k => (s.model k).role, s.hbm, s.boot)

section
variable {s t : State} (h : t.contexts = s.contexts)
include h

theorem has_of_contexts (k : Nat) : Tbl.has t.models k = Tbl.has s.models k := congrFun (congrArg Prod.fst h) k
theorem role_of_contexts (k : Nat) : (t.model k).role = (s.model k).role := congrFun (congrArg (fun v => v.2.1) h) k
theorem hbm_of_contexts : t.hbm = s.hbm := congrArg (fun v => v.2.2.1) h
theorem boot_of_contexts : t.boot = s.boot := congrArg (fun v => v.2.2.2) h
end

theorem model_of_models {s t : State} (h : t.models = s.models) (k : Nat) : t.model k = s.model k := by
  rw [State.model, h]; rfl

section
variable {x y : Model} (h : x.role = y.role)
include h

theorem owner_of_role : x.owner = y.owner := (congrArg Model.owner h :)
theorem st_of_role : x.st = y.st := (congrArg Model.st h :)
theorem ver_of_role : x.ver = y.ver := (congrArg Model.ver h :)
end

/-- An update keeps the role of every context if it keeps that of its own. -/
theorem role_updModel {s : State} {m : Nat} {f : Model → Model} (hf : (f (s.model m)).role = (s.model m).role) (k : Nat) :
    ((s.updModel m f).model k).role = (s.model k).role := by
  rw [State.model_updModel]
  split
  · next hk => rw [hk, hf]
  · rfl

/-- An update of a context that exists keeps all but its versions if it keeps its role. -/
theorem contexts_updModel {s : State} {m : Nat} {f : Model → Model} (hm : Tbl.has s.models m = true)
    (hf : (f (s.model m)).role = (s.model m).role) : (s.updModel m f).contexts = s.contexts := by
  refine Prod.ext (funext fun k => ?_) (Prod.ext (funext (role_updModel hf)) rfl)
  by_cases hk : k = m
  · subst hk
    exact (Tbl.has_put_self _ _ _).trans hm.symm
  · simp [State.contexts, State.updModel, Tbl.has_eq, hk]

/-- A context with anything in it exists. -/
theorem has_of_model_ne {s : State} {m : Nat} (h : s.model m ≠ {}) : Tbl.has s.models m = true := by
  rw [Tbl.has_eq]
  cases e : Tbl.find? s.models m with
  | some x => rfl
  | none => exact absurd (by simp [State.model, Tbl.getD, e]) h

@[simp] theorem freeEntries_contexts (s : State) (l : List (Nat × BankEntry)) : (s.freeEntries l).contexts = s.contexts := rfl
@[simp] theorem freeRegions_contexts (s : State) (l : List Nat) : (s.freeRegions l).contexts = s.contexts := rfl

@[simp] theorem dropVersion_contexts (s : State) (m v : Nat) : (dropVersion s m v).contexts = s.contexts := by
  unfold dropVersion
  split
  · rfl
  · next x hx =>
    rw [freeRegions_contexts, freeEntries_contexts]
    refine contexts_updModel (has_of_model_ne fun he => ?_) rfl
    rw [he] at hx
    cases hx

@[simp] theorem sweepVersions_contexts (s : State) (m : Nat) : (sweepVersions s m).contexts = s.contexts := by
  unfold sweepVersions
  dsimp only
  generalize hu : List.foldl (fun s v => dropVersion s m v) s _ = u
  have kept : u.contexts = s.contexts := hu ▸ foldl_keeps State.contexts (fun s v => dropVersion_contexts s m v) _ _
  split
  · exact kept
  · next hgone =>
    rw [freeEntries_contexts, ← kept]
    refine contexts_updModel (has_of_model_ne fun he => hgone ?_) rfl
    simp [State.curVer, he, Tbl.getD, Tbl.find?]

@[simp] theorem sweepAll_contexts (s : State) : (sweepAll s).contexts = s.contexts :=
  foldl_keeps State.contexts sweepVersions_contexts _ _

/-! The version a load places. -/

@[simp] theorem rewritten_models (s : State) (o : HardKind) : (s.rewritten o).models = s.models := by
  unfold State.rewritten
  exact ite_keeps State.models ((models_of_unworked (integ_unworked _ _)).trans rfl) rfl
@[simp] theorem rewritten_hbm (s : State) (o : HardKind) : (s.rewritten o).hbm = s.hbm := by
  unfold State.rewritten
  exact ite_keeps State.hbm ((hbm_of_unworked (integ_unworked _ _)).trans rfl) rfl

/-- A byte that no write of a list covers stays. -/
theorem get_writes {l : List (Nat × Nat × Bytes)} {a : Nat} (h : ∀ p ∈ l, a < p.1 ∨ p.1 + p.2.2.length ≤ a) (m : List Host.Cell) :
    Memory.get (l.foldl (fun m p => Memory.write m p.1 p.2.2) m) a = Memory.get m a := by
  induction l generalizing m with
  | nil => rfl
  | cons p l ih =>
    obtain ⟨hp, hl⟩ := List.forall_mem_cons.mp h
    rw [List.foldl_cons, ih hl, Memory.get_write, if_neg (by omega)]

section
variable (s : State) (fn ctx ver : Nat) (img : Bytes) (a : LoadArgs) (c : PlaceChoice)

/-- A placed version stands in its context, which keeps its role; no other context changes. -/
theorem placeVersion_models : ∃ v n, v.image = img ∧
    (placeVersion s fn ctx ver img a c).models =
      (s.updModel ctx (fun m => { m with vers := Tbl.put m.vers ver v, nextRep := n })).models := by
  generalize hu : placeVersion s fn ctx ver img a c = u
  unfold placeVersion at hu
  extract_lets rs keys n v own s1 s2 s3 at hu
  subst hu
  have forgot : s1.models = s.models := foldl_keeps (f := fun s k => s.forget (.region k)) State.models (fun _ _ => rfl) _ _
  refine ⟨v, n + c.replicas.length, rfl, ?_⟩
  rw [foldl_keeps State.models fun s p => models_of_unworked (writeRemote_unworked ..)]
  simp only [s3, s2, State.writeEntries, State.updModel, State.model, forgot]

/-- A load writes those bytes of HBM that its tables and its copy of the image take, and no others. -/
theorem placeVersion_hbm {x : Nat}
    (htab : ∀ p ∈ choiceRegions s fn ctx img c, p.2.dev = s.boot.boardPos →
      x < p.2.base ∨ p.2.base + ((secBody img 0x12 p.1).drop 0x40).length ≤ x)
    (hcopy : x < c.copyAt ∨ c.copyAt + img.length ≤ x) :
    Memory.get (placeVersion s fn ctx ver img a c).hbm x = Memory.get s.hbm x := by
  generalize hu : placeVersion s fn ctx ver img a c = u
  unfold placeVersion at hu
  extract_lets rs keys n v own s1 s2 s3 at hu
  subst hu
  have forgot : s1.hbm = s.hbm := foldl_keeps (f := fun s k => s.forget (.region k)) State.hbm (fun _ _ => rfl) _ _
  have outside : ∀ p ∈ own, x < p.1 ∨ p.1 + p.2.2.length ≤ x := by
    simp only [own, List.forall_mem_append, List.forall_mem_map, List.forall_mem_singleton, List.mem_filter, beq_iff_eq]
    exact ⟨fun p hp => htab p hp.1 hp.2, hcopy⟩
  rw [foldl_keeps State.hbm fun s p => hbm_of_unworked (writeRemote_unworked ..), ← forgot]
  exact get_writes outside _

end

/-! A checked image, and the layout chosen for it (R23, R251, R456, R564). -/

/-- A context that its first version enters (R456). -/
def enterContext (p : State) (fn m : Nat) (a : LoadArgs) : State :=
  p.updModel m (fun x => { x with owner := fn, ver := 0, st := if a.enable then 2 else 1, sampledAt := p.now })

section
variable {old s : State} {fn n m ver : Nat} {img : Bytes} {a : LoadArgs} {ch : PlaceChoice}

/-- The number of the version that a load writes. -/
def loadedVer (s : State) (m : Nat) : Nat := if Tbl.has s.models m then (s.model m).nextVer else 0

theorem loadInto_of_noBlocks (h : loadBlocks s m = []) : loadInto old s fn n m img a ch = s.finish n stResource 19 := by
  simp [loadInto, h]

theorem loadInto_of_otherChoice (h : loadBlocks s m ≠ []) (hshape : choiceShape s m img a ch = false) :
    loadInto old s fn n m img a ch = old := by
  simp [loadInto, h, hshape]

variable (h : loadBlocks s m ≠ []) (hshape : choiceShape s m img a ch = true)
include h hshape

/-- A layout that falls short: code 15 if it is only the old version that takes its room (R564). -/
theorem loadInto_of_short {k : Nat} (hver : ver = loadedVer s m) (hshort : choiceShort s fn m ver img a ch = some k) :
    loadInto old s fn n m img a ch = s.finish n stResource
      (if Tbl.has s.models m && (choiceShort (withoutOld s m) fn m ver img a ch).isNone then 15 else k) := by
  subst hver
  cases hm : Tbl.has s.models m <;> simp_all [loadInto, loadedVer]

/-- A version that fits enters an empty context. -/
theorem loadInto_of_new (hm : Tbl.has s.models m = false) (hshort : choiceShort s fn m 0 img a ch = none) :
    let u := enterContext ((placeVersion s fn m 0 img a ch).rewritten (.model m)) fn m a
    loadInto old s fn n m img a ch = finishHbm u n m (loadResult (u.curVer m)) := by
  simp [loadInto, enterContext, h, hshape, hm, hshort]

/-- A version that fits stands in shadow in a context that exists, whose regions are good again. -/
theorem loadInto_of_again (hm : Tbl.has s.models m = true) (hshort : choiceShort s fn m (s.model m).nextVer img a ch = none) :
    ∃ u : State, u.models = (placeVersion s fn m (s.model m).nextVer img a ch).models ∧
      loadInto old s fn n m img a ch = u.updModel m (fun x => { x with shadow := some ((s.model m).nextVer, n) }) := by
  simp only [loadInto, h, hshape, hm, hshort, List.isEmpty_iff, Bool.not_true, Bool.false_eq_true, if_false]
  refine ⟨_, ?_, rfl⟩
  refine (foldl_keeps State.models (fun s v => foldl_keeps State.models (fun s r => rewritten_models ..) _ _) _ _).trans ?_
  exact rewritten_models ..

end

/-! How MODEL_LOAD reaches its meaning. -/

/-- The context a load goes to: the one named, or the one chosen (R456). -/
def loadCtx (b : Bytes) (ch : PlaceChoice) : Nat := if le b 0 2 = 0xFFFF then ch.ctx else le b 0 2
/-- The object a load runs on. -/
def loadObj (b : Bytes) (ch : PlaceChoice) : ObjRef := if le b 0 2 = 0xFFFF then .none else .model (loadCtx b ch)

/-- What a load does with what the read of the image gave. -/
def loadImage (old s : State) (fn n : Nat) (b : Bytes) (ch : PlaceChoice) : Dma → State
  | .err st => s.finish n stDmaError st
  | .data i =>
    let len := le b 0x18 8
    let img := padTo len (i.take len)
    match checkImage img len (progFits s img) with
    | some d => s.finish n stInvalidImage d
    | none => loadInto old s fn n (loadCtx b ch) img (loadArgs b) ch

section
variable {old s : State} {fn n : Nat} {b i : Bytes} {ch : PlaceChoice}

theorem loadImage_of_bad {d : Nat}
    (h : checkImage (padTo (le b 0x18 8) (i.take (le b 0x18 8))) (le b 0x18 8)
      (progFits s (padTo (le b 0x18 8) (i.take (le b 0x18 8)))) = some d) :
    loadImage old s fn n b ch (.data i) = s.finish n stInvalidImage d := by
  simp only [loadImage, h]

theorem loadImage_of_good
    (h : checkImage (padTo (le b 0x18 8) (i.take (le b 0x18 8))) (le b 0x18 8)
      (progFits s (padTo (le b 0x18 8) (i.take (le b 0x18 8)))) = none) :
    loadImage old s fn n b ch (.data i) =
      loadInto old s fn n (loadCtx b ch) (padTo (le b 0x18 8) (i.take (le b 0x18 8))) (loadArgs b) ch := by
  simp only [loadImage, h]

end

section
variable {s : State} {fn n : Nat} {c : Cmd} {b : Bytes} {ch : PlaceChoice} (h : Starts s fn 0x0001 n (loadObj b ch) c b)
  (hlen : c.argLen = 64) (image : Dma)
include h hlen

theorem exec_modelLoad_illegal {off : Nat} (hbad : loadBad b = some off) :
    exec (.modelLoad fn (.data b) image ch) s = .next (s.finish n stInvalidArg (argAt off)) := by
  obtain ⟨hoff, -, hrsv, hb⟩ := h
  refine (onObj_of_named hoff.1).trans (congrArg _ ?_)
  simp [takeArg_of_offers hoff hrsv hb, hlen, hbad]

variable (hbad : loadBad b = none)
include hbad

theorem exec_modelLoad_full (hwant : le b 0 2 = 0xFFFF) (hall : ∀ k, k < 4096 → Tbl.has s.models k = true) :
    exec (.modelLoad fn (.data b) image ch) s = .next (s.finish n stResource 0) := by
  obtain ⟨hoff, -, hrsv, hb⟩ := h
  refine (onObj_of_named hoff.1).trans (congrArg _ ?_)
  have hfull : (upTo 4096).all (fun k => Tbl.has s.models k) = true :=
    List.all_eq_true.mpr fun k hk => hall k (List.mem_range.mp hk)
  rw [takeArg_of_offers hoff hrsv hb (by simp [hlen])]
  simp only [hbad, hwant, hfull, and_self, if_true]

theorem exec_modelLoad_foreign (hwant : le b 0 2 ≠ 0xFFFF)
    (hnew : ¬ (Tbl.has s.models (le b 0 2) = false ∧ isPf fn = true))
    (hown : ¬ (Tbl.has s.models (le b 0 2) = true ∧ (s.model (le b 0 2)).owner = fn)) :
    exec (.modelLoad fn (.data b) image ch) s = .next (s.finish n stNotFound 0) := by
  obtain ⟨hoff, -, hrsv, hb⟩ := h
  refine (onObj_of_named hoff.1).trans (congrArg _ ?_)
  cases hm : Tbl.has s.models (le b 0 2) <;> simp_all [takeArg_of_offers hoff hrsv hb]

/-- A load into a context that is empty and that the function may take, or that it owns, reads the image. -/
theorem exec_modelLoad_reads (hsize : 64 ≤ le b 0x18 8)
    (hctx : (Tbl.has s.models (loadCtx b ch) = false ∧ (if le b 0 2 = 0xFFFF then loadCtx b ch < 4096 else isPf fn = true)) ∨
      (le b 0 2 ≠ 0xFFFF ∧ Tbl.has s.models (loadCtx b ch) = true ∧ (s.model (loadCtx b ch)).owner = fn)) :
    exec (.modelLoad fn (.data b) image ch) s =
      .next (loadImage s (sweepAll (s.starting n (loadObj b ch))) fn n b ch image) := by
  obtain ⟨hoff, hfree, hrsv, hb⟩ := h
  refine (onObj_of_named hoff.1).trans (congrArg _ ?_)
  rw [takeArg_of_offers hoff hrsv hb (by simp [hlen])]
  simp only [hbad]
  rw [if_neg ?full, if_neg ?foreign, if_neg ?other]
  · refine (startOn_of_free hfree _).trans ?_
    simp only [Nat.not_lt.mpr hsize, if_false]
    cases image <;> rfl
  case full =>
    rintro ⟨hwant, hall⟩
    have hk := List.all_eq_true.mp hall (loadCtx b ch)
    rcases hctx with ⟨hno, hlt⟩ | ⟨hwant', -⟩
    · rw [if_pos hwant] at hlt
      simp [hk (List.mem_range.mpr hlt)] at hno
    · exact hwant' hwant
  case foreign =>
    rintro ⟨hwant, hmine, hor⟩
    rcases hctx with ⟨hno, hpf⟩ | ⟨-, hhas, hown⟩
    · simp_all [loadCtx]
    · simp_all [loadCtx]
  case other =>
    rintro ⟨hwant, hor⟩
    rcases hctx with ⟨hno, hlt⟩ | ⟨hwant', -⟩
    · rw [if_pos hwant] at hlt
      exact hor.elim (Nat.not_le.mpr hlt) (by simp [loadCtx, hwant] at hno; simp [hwant, hno])
    · exact hwant' hwant

end

/-- A version placed in an empty context and served (R23, R251, R456). -/
theorem loaded_new {s s1 : State} {fn m : Nat} {img : Bytes} {a : LoadArgs} {ch : PlaceChoice} (hs : s1.contexts = s.contexts) :
    let p := (placeVersion s1 fn m 0 img a ch).rewritten (.model m)
    let u := enterContext p fn m a
    (u.model m).owner = fn ∧ (u.model m).st = (if a.enable then 2 else 1) ∧ (u.curVer m).image = img ∧
      (∀ k, k ≠ m → (u.model k).owner = (s.model k).owner ∧ (u.model k).st = (s.model k).st) ∧
      ∀ x, (∀ p ∈ choiceRegions s fn m img ch, p.2.dev = s.boot.boardPos →
          x < p.2.base ∨ p.2.base + ((secBody img 0x12 p.1).drop 0x40).length ≤ x) →
        x < ch.copyAt ∨ ch.copyAt + img.length ≤ x → Memory.get u.hbm x = Memory.get s.hbm x := by
  intro p u
  obtain ⟨v, r, himg, hmodels⟩ := placeVersion_models s1 fn m 0 img a ch
  have hp : ∀ k, p.model k = (s1.updModel m (fun x => { x with vers := Tbl.put x.vers 0 v, nextRep := r })).model k :=
    fun k => model_of_models ((rewritten_models ..).trans hmodels) k
  have hu : u.model m = { p.model m with owner := fn, ver := 0, st := if a.enable then 2 else 1, sampledAt := p.now } := by
    simp [u, enterContext, State.model_updModel]
  refine ⟨by rw [hu], by rw [hu], ?_, fun k hk => ?_, fun x htab hcopy => ?_⟩
  · rw [State.curVer, hu]
    simp [hp, State.model_updModel, Tbl.getD, himg]
  · have hrole : ((enterContext p fn m a).model k).role = (s.model k).role := by
      rw [enterContext, State.model_updModel, if_neg hk, hp, role_updModel rfl]
      exact role_of_contexts hs k
    exact ⟨owner_of_role hrole, st_of_role hrole⟩
  · rw [← boot_of_contexts hs] at htab
    have hreg : choiceRegions s fn m img ch = choiceRegions s1 fn m img ch := by
      rw [choiceRegions, choiceRegions, boot_of_contexts hs]
    rw [hreg] at htab
    rw [← hbm_of_contexts hs, ← placeVersion_hbm s1 fn m 0 img a ch htab hcopy]
    exact congrArg (Memory.get · x) (rewritten_hbm _ _)

/-- Settles O39: the checks of MODEL_LOAD in their order; of what it places, the roles of the other contexts and the bytes outside
its tables and its copy are kept. -/
theorem imagesLoad : Obligations.ImagesLoad := by
  intro s fn n c b i ch want m o h hlen len img s1 new again ver
  have hs : s1.contexts = s.contexts := sweepAll_contexts _
  have hhas : Tbl.has s1.models m = Tbl.has s.models m := has_of_contexts hs m
  refine ⟨fun off image => exec_modelLoad_illegal h hlen image, fun image => exec_modelLoad_full h hlen image, ?foreign, ?loads, ?hbm⟩
  case foreign =>
    intro image hbad hwant hnew hagain
    have hm : m = le b 0 2 := if_neg hwant
    have hnew' : ¬ (Tbl.has s.models m = false ∧ isPf fn = true) := by simpa only [new, if_neg hwant] using hnew
    exact exec_modelLoad_foreign h hlen image hbad hwant (hm ▸ hnew') (hm ▸ fun hown => hagain ⟨hwant, hown⟩)
  case loads =>
    intro hbad hctx
    have reads := fun image hsize => exec_modelLoad_reads h hlen image hbad hsize hctx
    refine ⟨fun st hsize => reads _ hsize, fun d hsize hd => (reads _ hsize).trans ?_, fun hsize hgood => ?_⟩
    · exact congrArg _ (loadImage_of_bad hd)
    have into : exec (.modelLoad fn (.data b) (.data i) ch) s = .next (loadInto s s1 fn n m img (loadArgs b) ch) :=
      (reads _ hsize).trans (congrArg _ (loadImage_of_good hgood))
    rw [into]
    have hver : ver = loadedVer s1 m := by simp only [ver, loadedVer, hhas]
    refine ⟨fun hnone => by rw [loadInto_of_noBlocks hnone], fun hsome hshape => by rw [loadInto_of_otherChoice hsome hshape],
      fun hsome hshape => ⟨fun k hk => ?short, fun hfit hempty => ?placed, fun hfit howned => ?shadow⟩⟩
    case short =>
      rw [loadInto_of_short hsome hshape hver hk, hhas]
      refine ⟨fun hor => ?_, fun howned hold => by simp [howned, hold]⟩
      rcases hor with hempty | hold
      · simp [hempty]
      · simp [hold]
    case placed =>
      have hver0 : ver = 0 := by simp [ver, hempty]
      rw [hver0] at hfit
      exact ⟨_, congrArg _ (loadInto_of_new hsome hshape (hhas.trans hempty) hfit), loaded_new hs⟩
    case shadow =>
      have hnext : ver = (s1.model m).nextVer := if_pos howned
      rw [hnext] at hfit ⊢
      obtain ⟨u, hmodels, hload⟩ := loadInto_of_again (old := s) (n := n) hsome hshape (hhas.trans howned) hfit
      obtain ⟨v, r, himg, hplaced⟩ := placeVersion_models s1 fn m (s1.model m).nextVer img (loadArgs b) ch
      have hu : u.model m = { s1.model m with vers := Tbl.put (s1.model m).vers (s1.model m).nextVer v, nextRep := r } := by
        rw [State.model, hmodels, hplaced]
        exact (State.model_updModel ..).trans (if_pos rfl)
      have hrole := role_of_contexts hs m
      refine ⟨_, congrArg _ hload, ?_⟩
      rw [State.model_updModel, if_pos rfl, hu]
      exact ⟨rfl, (ver_of_role hrole :), (st_of_role hrole :), v, Tbl.find?_put_self _ _ _, himg⟩
  case hbm =>
    exact fun u r0 r1 => ⟨fun ht => by simp [finishHbm, ht], fun ht => by simp [finishHbm, ht]⟩

end Sys2Proof.Machine
end

section
/-! The failure of a block or of one of its VSEs (O37, R168, R297, R298). -/

namespace Sys2Proof.Machine

/-! What ending tests and migrations and choosing standby blocks leave. -/

/-- All of a state but its blocks, what placement keeps, and the functions with their commands. -/
def State.unplaced (s : State) : State := { s.hostless with blocks := [], place := {} }

@[simp] theorem updBlock_unplaced (s : State) (b : Nat) (f : Block → Block) : (s.updBlock b f).unplaced = s.unplaced := rfl
@[simp] theorem finish_unplaced (s : State) (n st d r0 r1 : Nat) (out : Bytes) : (s.finish n st d r0 r1 out).unplaced = s.unplaced :=
  congrArg (fun x : State => ({ x with blocks := [], place := {} } : State)) (State.finish_hostless s n st d r0 r1 out)
@[simp] theorem integ_unplaced (s : State) (e : Integ) : (s.integ e).unplaced = s.unplaced :=
  (congrArg (fun x : State => ({ x.hostless with blocks := [], place := {} } : State)) (State.integ_eventless s e) :)

section
variable {s t : State} (h : t.unplaced = s.unplaced)
include h

theorem models_of_unplaced : t.models = s.models := (congrArg State.models h :)
theorem flows_of_unplaced : t.flows = s.flows := (congrArg State.flows h :)
theorem threads_of_unplaced : t.threads = s.threads := (congrArg State.threads h :)
theorem vctx_of_unplaced : t.vctx = s.vctx := (congrArg State.vctx h :)
theorem counters_of_unplaced : t.counters = s.counters := (congrArg State.counters h :)
end

@[simp] theorem abandonTest_unplaced (s : State) (b : Nat) : (abandonTest s b).unplaced = s.unplaced := by
  unfold abandonTest
  dsimp only
  split <;> simp

@[simp] theorem abandonMigs_unplaced (s : State) (b : Nat) : (abandonMigs s b).unplaced = s.unplaced :=
  (foldl_keeps State.unplaced (fun _ _ => updBlock_unplaced ..) _ _).trans rfl

@[simp] theorem topUpStandby_unplaced (n : Nat) (s : State) : (topUpStandby n s).unplaced = s.unplaced := by
  induction n generalizing s with
  | zero => rfl
  | succ n ih =>
    unfold topUpStandby
    split
    · rfl
    · split <;> simp [ih]

/-! What becomes of a block. -/

/-- What a failure sets in a block, and its VSEs. -/
def Block.fate (x : Block) : Bool × Bool × Bool × Bool × Option Batch × List Nat :=
  (x.fenced, x.retired, x.standby, x.failed, x.batch, x.retiredVses)

theorem block_of_blocks {s t : State} (h : t.blocks = s.blocks) (b : Nat) : t.block b = s.block b := by
  rw [State.block, h]; rfl

/-- An update keeps the fate of every block if it keeps that of its own. -/
theorem fate_updBlock {s : State} {c : Nat} {f : Block → Block} (hf : (f (s.block c)).fate = (s.block c).fate) (b : Nat) :
    ((s.updBlock c f).block b).fate = (s.block b).fate := by
  rw [State.block_updBlock]
  split
  · next hb => rw [hb, hf]
  · rfl

theorem finish_blocks (s : State) (n st d r0 r1 : Nat) (out : Bytes) : (s.finish n st d r0 r1 out).blocks = s.blocks :=
  (congrArg State.blocks (State.finish_hostless s n st d r0 r1 out) :)
theorem integ_blocks (s : State) (e : Integ) : (s.integ e).blocks = s.blocks := (congrArg State.blocks (State.integ_eventless s e) :)

theorem fate_abandonTest (s : State) (c b : Nat) : ((abandonTest s c).block b).fate = (s.block b).fate := by
  unfold abandonTest
  dsimp only
  split
  · rw [block_of_blocks (finish_blocks ..)]
    exact fate_updBlock rfl b
  · exact fate_updBlock rfl b

theorem fate_abandonMigs (s : State) (c b : Nat) : ((abandonMigs s c).block b).fate = (s.block b).fate :=
  foldl_keeps (fun s : State => (s.block b).fate) (fun _ _ => fate_updBlock rfl b) _ _

theorem freeBlock_of_nextStandby {s : State} {c : Nat} (h : nextStandby s = some c) : freeBlock s c = true := by
  have picked : ∀ {die}, ((upTo 64).filter (fun b => b / 32 == die && freeBlock s b)).getLast? = some c → freeBlock s c = true :=
    fun h => (Bool.and_eq_true_iff.mp (List.mem_filter.mp (List.mem_of_getLast? h)).2).2
  unfold nextStandby at h
  dsimp only at h
  split at h
  · next h' => exact picked (h' ▸ h)
  · exact picked h

/-- A retired block is no free block: the standby role passes it by (R244). -/
theorem topUpStandby_retired {b : Nat} (n : Nat) {s : State} (h : (s.block b).retired = true) : (topUpStandby n s).block b = s.block b := by
  induction n generalizing s with
  | zero => rfl
  | succ n ih =>
    unfold topUpStandby
    split
    · rfl
    · split
      · next c hc =>
        have hcb : b ≠ c := by
          rintro rfl
          simpa [freeBlock, inService, h] using freeBlock_of_nextStandby hc
        have kept : (s.updBlock c (fun x => { x with standby := true })).block b = s.block b := by
          rw [State.block_updBlock, if_neg hcb]
        rw [ih (by rw [kept, h]), kept]
      · exact block_of_blocks (integ_blocks ..) b

/-! R297, R298. -/

theorem failBlock_of_retired {s : State} {b : Nat} (h : (s.block b).retired = true) (cause : Nat) : failBlock s b cause = s := by
  simp [failBlock, h]

/-- The state of a block that fails: fenced, retired, without its batch, its work waiting for the remap. -/
theorem failBlock_spec {s : State} {b : Nat} (h : (s.block b).retired = false) (cause : Nat) :
    ((failBlock s b cause).block b).fate = (true, true, false, holdsWork s b, none, (s.block b).retiredVses) ∧
    (failBlock s b cause).vctx = List.filter (fun (p : Nat × VCtx) => p.1 / 256 != b) s.vctx ∧
    (failBlock s b cause).threads = s.threads ∧
    cntGet (failBlock s b cause).counters .blockRetired 0 = sat64 (cntGet s.counters .blockRetired 0 + 1) := by
  generalize ht : failBlock s b cause = t
  unfold failBlock at ht
  extract_lets x s1 work s2 s3 s4 at ht
  rw [if_neg (by simp [x, h])] at ht
  generalize hu : abandonMigs (if x.testDue.isSome then abandonTest s4 b else s4) b = u at ht
  have counted : s1 = { s with counters := s1.counters } ∧ cntGet s1.counters .blockRetired 0 = cntGet s.counters .blockRetired 0 := by
    simp only [s1]
    split
    · exact ⟨rfl, (State.cntGet_count ..).trans (if_neg (by decide))⟩
    · exact ⟨rfl, rfl⟩
  obtain ⟨hs1, hcount⟩ := counted
  have posted : s2.eventless = (s1.count .blockRetired 0 1).eventless := State.integ_eventless _ _
  have hwork : work = holdsWork s b := by simp only [work]; rw [hs1]; rfl
  have hblock : s2.block b = s.block b := block_of_blocks ((congrArg State.blocks posted :).trans (congrArg State.blocks hs1 :)) b
  have begun : (s4.block b).fate = (true, true, false, holdsWork s b, none, (s.block b).retiredVses) := by
    change (s3.block b).fate = _
    simp [s3, State.block_updBlock, Block.fate, hblock, hwork]
  have kept : (u.block b).fate = (s4.block b).fate := by
    rw [← hu, fate_abandonMigs]
    split
    · exact fate_abandonTest ..
    · rfl
  have unplaced : u.unplaced = s4.unplaced := by
    rw [← hu, abandonMigs_unplaced]
    split <;> simp
  have retired : (u.block b).retired = true := (congrArg (fun v => v.2.1) (kept.trans begun) :)
  have ended : t.unplaced = s4.unplaced := by rw [← ht, topUpStandby_unplaced, unplaced]
  refine ⟨?_, (vctx_of_unplaced ended).trans ?_, (threads_of_unplaced ended).trans ?_, ?_⟩
  · rw [← ht, topUpStandby_retired _ retired, kept, begun]
  · have hvctx : s2.vctx = s.vctx := (congrArg State.vctx posted :).trans (congrArg State.vctx hs1 :)
    exact congrArg (List.filter _) hvctx
  · exact (congrArg State.threads posted :).trans (congrArg State.threads hs1 :)
  · rw [counters_of_unplaced ended, ← hcount]
    exact (congrArg (fun v => cntGet v.counters .blockRetired 0) posted :).trans ((State.cntGet_count ..).trans (if_pos rfl))

theorem retireVse_of_retired {s : State} {b u : Nat} (h : (s.block b).retired = true ∨ (s.block b).retiredVses.contains u = true)
    (cause : Nat) : retireVse s b u cause = s := by
  rcases h with h | h <;> simp only [retireVse, h, Bool.or_true, Bool.true_or, if_true]

/-- A block without the VSE `u`: the counter and the event of it (R297). -/
def vseLost (s : State) (b u : Nat) : State :=
  ((s.count .vseRetired 0 1).integ { fcode := 0x0142, sev := 2, unitKind := 3, unit := b * 4 + u }).updBlock b
    (fun x => { x with retiredVses := u :: x.retiredVses })

section
variable {s : State} {b u : Nat} (hlive : (s.block b).retired = false) (hu : (s.block b).retiredVses.contains u = false) (cause : Nat)

theorem vseLost_block (s : State) (b u : Nat) :
    (vseLost s b u).block b = { s.block b with retiredVses := u :: (s.block b).retiredVses } := by
  rw [vseLost, State.block_updBlock, if_pos rfl, block_of_blocks (integ_blocks ..)]
  rfl

theorem vseLost_vctx (s : State) (b u : Nat) : (vseLost s b u).vctx = s.vctx := (congrArg State.vctx (State.integ_eventless _ _) :)
theorem vseLost_threads (s : State) (b u : Nat) : (vseLost s b u).threads = s.threads :=
  (congrArg State.threads (State.integ_eventless _ _) :)
theorem vseLost_count (s : State) (b u : Nat) :
    cntGet (vseLost s b u).counters .vseRetired 0 = sat64 (cntGet s.counters .vseRetired 0 + 1) :=
  (congrArg (fun v => cntGet v.counters .vseRetired 0) (State.integ_eventless _ _) :).trans
    ((State.cntGet_count ..).trans (if_pos rfl))

include hlive hu

/-- The first VSE lost: its runs are replayed (R168). -/
theorem retireVse_first (hfirst : (s.block b).retiredVses = []) :
    retireVse s b u cause = (List.filter (fun (p : Nat × VCtx) => p.1 / 64 == b * 4 + u) s.vctx).foldl
      (fun s p => replayThread s p.2.thread) (vseLost s b u) := by
  have hone : ¬ 2 ≤ ((vseLost s b u).block b).retiredVses.length := by simp [vseLost_block, hfirst]
  unfold retireVse
  rw [if_neg (by simp only [hlive, hu, Bool.or_false, Bool.false_eq_true, not_false_eq_true])]
  refine (if_neg hone).trans ?_
  rw [List.foldl_map, ← vseLost_vctx s b u]
  rfl

/-- The second VSE lost takes the block along (R297). -/
theorem retireVse_second (hsecond : (s.block b).retiredVses ≠ []) :
    retireVse s b u cause = failBlock ((vseLost s b u).updBlock b (fun x => { x with testing := false })) b cause := by
  have htwo : 2 ≤ ((vseLost s b u).block b).retiredVses.length := by
    have := List.length_pos_iff.mpr hsecond
    simp only [vseLost_block, List.length_cons]
    omega
  unfold retireVse
  rw [if_neg (by simp only [hlive, hu, Bool.or_false, Bool.false_eq_true, not_false_eq_true])]
  exact if_pos htwo

end

/-! The two commands. -/

section
variable (s : State) {b : Nat} (hb : okBlock b = true)
include hb

theorem exec_blockFailure {cause : Nat} (hc : cause < 4) : exec (.blockFailure b ⟨cause, none⟩) s = .next (failBlock s b cause) :=
  onObj_of_named (by simp [hb, hc])

theorem exec_heartbeatMiss : exec (.sequencerHeartbeatMiss b) s = .next (failBlock s b 2) := onObj_of_named hb

theorem exec_vseFailure {u : Nat} (hu : u < 4) : exec (.blockFailure b ⟨3, some u⟩) s = .next (retireVse s b u 3) :=
  onObj_of_named (by simp [hb, hu])

/-- Every report of a failed block comes to `failBlock` (R297). -/
theorem exec_failure {i : Instr} (hi : i ∈ [Instr.blockFailure b ⟨0, none⟩, .blockFailure b ⟨1, none⟩, .blockFailure b ⟨2, none⟩,
    .blockFailure b ⟨3, none⟩, .sequencerHeartbeatMiss b]) : ∃ cause, exec i s = .next (failBlock s b cause) := by
  simp only [List.mem_cons, List.not_mem_nil, or_false] at hi
  rcases hi with rfl | rfl | rfl | rfl | rfl
  · exact ⟨0, exec_blockFailure s hb (by decide)⟩
  · exact ⟨1, exec_blockFailure s hb (by decide)⟩
  · exact ⟨2, exec_blockFailure s hb (by decide)⟩
  · exact ⟨3, exec_blockFailure s hb (by decide)⟩
  · exact ⟨2, exec_heartbeatMiss s hb⟩

end

/-- A failed block is fenced and retired, and runs no stage program (R297, R298). -/
theorem blockFails {s : State} {b : Nat} (h : (s.block b).retired = false) (cause : Nat) :
    let t := failBlock s b cause
    (t.block b).fenced = true ∧ (t.block b).retired = true ∧ (t.block b).standby = false ∧ (t.block b).failed = holdsWork s b ∧
      (t.block b).batch = none ∧ (∀ c, c / 256 = b → Tbl.find? t.vctx c = none) ∧ t.threads = s.threads ∧
      cntGet t.counters .blockRetired 0 = sat64 (cntGet s.counters .blockRetired 0 + 1) := by
  obtain ⟨hfate, hvctx, hthreads, hcount⟩ := failBlock_spec h cause
  simp only [Block.fate, Prod.mk.injEq] at hfate
  obtain ⟨hfenced, hretired, hstandby, hfailed, hbatch, -⟩ := hfate
  refine ⟨hfenced, hretired, hstandby, hfailed, hbatch, fun c hc => ?_, hthreads, hcount⟩
  rw [hvctx, Tbl.find?_filter _ (fun k => k / 256 != b)]
  simp [hc]

end Sys2Proof.Machine
end

section
/-! Where the work of a failed block goes (O37, R298, R565). -/

namespace Sys2Proof.Machine

/-- An entry of a table with rising numbers is the one a lookup gives. -/
theorem find?_of_mem {α : Type} {t : Tbl α} {lo : Option Nat} {p : Nat × α} (hs : Tbl.sortedFrom lo t = true) (h : p ∈ t) :
    Tbl.find? t p.1 = some p.2 := by
  induction t generalizing lo with
  | nil => cases h
  | cons q t ih =>
    have hrest : Tbl.sortedFrom (some q.1) t = true := (Bool.and_eq_true_iff.mp hs).2
    rcases List.mem_cons.mp h with rfl | h
    · exact if_pos rfl
    · exact (if_neg (Nat.ne_of_lt (Tbl.sortedFrom_lt hrest p h))).trans (ih hrest h)

/-- A context has a slice of some version on a block. -/
def Model.on (b : Nat) (x : Model) : Bool := x.vers.any (fun v => v.2.on b)

/-- In a table with rising numbers, the models on a block are those with a slice there. -/
theorem on_of_mem_modelsOn {s : State} (hs : Tbl.sorted s.models = true) {b m : Nat} (h : m ∈ modelsOn s b) : (s.model m).on b = true := by
  obtain ⟨⟨k, x⟩, hmem, rfl⟩ := List.mem_map.mp h
  obtain ⟨hx, hon⟩ := List.mem_filter.mp hmem
  rw [State.model, Tbl.getD, find?_of_mem hs hx]
  exact hon

theorem mem_modelsOn_of_on {s : State} {b m : Nat} (h : (s.model m).on b = true) : m ∈ modelsOn s b := by
  cases hx : Tbl.find? s.models m with
  | none => simp [State.model, Tbl.getD, hx, Model.on] at h
  | some x =>
    rw [State.model, Tbl.getD, hx] at h
    exact List.mem_map.mpr ⟨(m, x), List.mem_filter.mpr ⟨Tbl.find?_mem hx, h⟩, rfl⟩

/-! The slices that leave a block. -/

/-- An operation on one model takes its slices off a block, those of no other. -/
def Vacates (b : Nat) (f : State → Nat → State) : Prop :=
  ∀ s m, (Tbl.sorted s.models = true → Tbl.sorted (f s m).models = true) ∧
    ∀ k, ((f s m).model k).on b = (k != m && (s.model k).on b)

theorem vacates_of_updModel {b : Nat} {f : State → Nat → State} (g : State → Nat → Model → Model)
    (hf : ∀ s m, (f s m).models = (s.updModel m (g s m)).models) (hg : ∀ s m x, (g s m x).on b = false) : Vacates b f := by
  refine fun s m => ⟨fun hs => ?_, fun k => ?_⟩
  · rw [hf]
    exact Tbl.sorted_put _ _ hs
  · rw [model_of_models (hf s m), State.model_updModel]
    split
    · next hk => simp [hk, hg]
    · next hk => simp [hk]

/-- One after the other, they take the slices of all of a list. -/
theorem Vacates.foldl {b : Nat} {f : State → Nat → State} (hf : Vacates b f) (l : List Nat) (s : State) :
    (Tbl.sorted s.models = true → Tbl.sorted (l.foldl f s).models = true) ∧
      ∀ k, ((l.foldl f s).model k).on b = (!l.contains k && (s.model k).on b) := by
  induction l generalizing s with
  | nil => simp
  | cons m l ih =>
    refine ⟨fun hs => (ih (f s m)).1 ((hf s m).1 hs), fun k => ?_⟩
    rw [List.foldl_cons, (ih (f s m)).2 k, (hf s m).2 k]
    by_cases hk : k = m
    · simp [hk]
    · simp [hk, bne_iff_ne.mpr hk]

/-- Slices moved off a block are not on it. -/
theorem on_move {src dst : Nat} (h : dst ≠ src) (v : MVer) : (v.move src dst).on src = false := by
  simp only [MVer.on, MVer.move, Tbl.mapVals, List.any_map, List.any_eq_false, Function.comp]
  intro p _
  simp only [Bool.not_eq_true, List.any_eq_false]
  intro x _
  change ((Slice.move src dst x).dev.isNone && (Slice.move src dst x).block == src) = false
  unfold Slice.move
  split
  · simp [h]
  · next hx => exact Bool.eq_false_iff.mpr hx

theorem vacates_remapModel {src dst : Nat} (h : dst ≠ src) : Vacates src (fun s m => remapModel s src dst m) := by
  refine vacates_of_updModel (fun _ _ y => { y with vers := Tbl.mapVals y.vers (fun _ v => v.move src dst) }) (fun _ _ => rfl) ?_
  intro s m x
  simp [Model.on, Tbl.mapVals, on_move h]

theorem vacates_loseReplicas (b : Nat) : Vacates b (fun s m => loseReplicas s b m) := by
  refine vacates_of_updModel (fun _ _ y => { y with vers := Tbl.mapVals y.vers (fun _ w =>
    { w with replicas := List.filter (fun (r : Nat × Replica) => !r.2.slices.any (fun z => z.dev.isNone && z.block == b)) w.replicas }) })
    (fun s m => ?_) (fun s m x => ?_)
  · generalize ht : loseReplicas s b m = t
    unfold loseReplicas at ht
    extract_lets x v keep lostT onB spare old s1 s2 s3 keep' want at ht
    subst ht
    have replayed : s3.unworked = s2.unworked := foldl_keeps State.unworked (fun s p => by
      dsimp only
      split
      · simp
      · exact (replayUndone_unworked _ _).trans ((rehome_unworked ..).trans (updThread_unworked ..))) _ _
    exact (models_of_unworked ((general_unworked ..).trans replayed)).trans rfl
  · simp [Model.on, MVer.on, Tbl.mapVals]

/-! The rest of a remap. -/

/-- A flow is homed on a block. -/
def HomedOn (s : State) (h y : Nat) : Prop := ∃ f, Tbl.find? s.flows h = some f ∧ f.home = some y

theorem homedOn_of_flows {s t : State} (h : t.flows = s.flows) {k y : Nat} (hs : HomedOn s k y) : HomedOn t k y := by
  rwa [HomedOn, h]

/-- Flows homed on the block follow it; one homed on another block stays there. -/
theorem moveHomes_moves {s : State} {h b y : Nat} (hs : HomedOn s h b) : HomedOn (moveHomes s b (some y)) h y := by
  obtain ⟨f, hf, hb⟩ := hs
  refine ⟨_, by rw [moveHomes, Tbl.find?_mapVals, hf]; rfl, ?_⟩
  simp only [hb, if_true]
  split <;> rfl

theorem moveHomes_keeps {s : State} {h b y : Nat} {d : Option Nat} (hy : y ≠ b) (hs : HomedOn s h y) : HomedOn (moveHomes s b d) h y := by
  obtain ⟨f, hf, hb⟩ := hs
  refine ⟨_, by rw [moveHomes, Tbl.find?_mapVals, hf]; rfl, ?_⟩
  have hne : ¬ f.home = some b := by simp [hb, hy]
  simp only [hne, if_false]
  split <;> exact hb

theorem endRemap_models (s : State) (b : Nat) : (endRemap s b).models = s.models := by
  unfold endRemap
  split
  · exact (models_of_unplaced (topUpStandby_unplaced ..)).trans rfl
  · rfl

theorem endRemap_homes {s : State} {h b y : Nat} (hy : y ≠ b) (hs : HomedOn s h y) : HomedOn (endRemap s b) h y := by
  unfold endRemap
  split
  · exact homedOn_of_flows ((flows_of_unplaced (topUpStandby_unplaced ..)).trans rfl) (moveHomes_keeps hy hs)
  · exact hs

/-! R298: a target takes work. -/

section
variable (s : State) {b y : Nat} (hb : okBlock b = true) (hy : okBlock y = true)
include hb hy

theorem exec_steer_of_sound (h : (s.block b).failed = false) : exec (.blockRemapSteer b y) s = .next s :=
  (onObj_of_named (by simp [hb, hy])).trans (by simp [h])

theorem exec_steer_of_no_target (hne : y ≠ b) (h : maySteer s b y = false) : exec (.blockRemapSteer b y) s = .next s :=
  (onObj_of_named (by simp [hb, hy])).trans (by simp [hne, h])

/-- The models and flow homes of a failed block that move to a target. -/
theorem exec_steer (hfailed : (s.block b).failed = true) (hne : y ≠ b) (hmay : maySteer s b y = true) :
    ∃ s1 t, exec (.blockRemapSteer b y) s = .next t ∧ s1.models = s.models ∧
      t.models = ((steerModels s b y).foldl (fun s m => remapModel s b y m) s1).models ∧
      ∀ h, HomedOn s h b → HomedOn t h y := by
  have hexec : exec (.blockRemapSteer b y) s = _ := onObj_of_named (by simp [hb, hy])
  rw [if_neg (by simp [hfailed]), if_neg hne, if_neg (by simp [hmay])] at hexec
  extract_lets ms gs broke all ts s1 s2 s3 s4 s5 place s6 s7 s8 at hexec
  have grouped : s5.unworked = s3.unworked :=
    (foldl_keeps State.unworked (fun _ _ => remapGroup_unworked ..) _ _).trans (replayOn_unworked ..)
  have reported : s8.unworked = s6.unworked :=
    (ite_keeps State.unworked (general_unworked ..) rfl).trans (ite_keeps State.unworked (integ_unworked ..) rfl)
  have hmodels : s8.models = s2.models := (models_of_unworked reported).trans (models_of_unworked grouped :)
  have hflows : s8.flows = s3.flows := (flows_of_unworked reported).trans (flows_of_unworked grouped :)
  have hkept : s2.flows = s.flows :=
    foldl_keeps (f := fun s m => remapModel s b y m) State.flows (fun _ _ => rfl) _ _
  exact ⟨s1, _, hexec, rfl, (endRemap_models ..).trans hmodels, fun h hs =>
    endRemap_homes hne (homedOn_of_flows hflows (moveHomes_moves (homedOn_of_flows hkept hs)))⟩

end

section
variable (s : State) {b : Nat} (hb : okBlock b = true)
include hb

theorem exec_spread_of_room (h : noneFits s b = false) : exec (.blockRemapSteer b b) s = .next s :=
  (onObj_of_named (by simp [hb])).trans (by simp [h])

theorem exec_spread (hfailed : (s.block b).failed = true) (h : noneFits s b = true) :
    exec (.blockRemapSteer b b) s = .next (spreadWork s b) :=
  (onObj_of_named (by simp [hb])).trans (by simp [hfailed, h])

end

theorem spreadWork_models (s : State) (b : Nat) :
    (spreadWork s b).models = ((modelsOn s b).foldl (fun s m => loseReplicas s b m) s).models :=
  (endRemap_models ..).trans (models_of_unworked (foldl_keeps State.unworked (fun _ _ => remapGroup_unworked ..) _ _))

/-- Where placement finds a target, what it takes leaves the failed block (R298). -/
theorem steered (s : State) {b y : Nat} (hb : okBlock b = true) (hy : okBlock y = true) (hfailed : (s.block b).failed = true)
    (hne : y ≠ b) (hmay : maySteer s b y = true) (hs : Tbl.sorted s.models = true) :
    ∃ t, exec (.blockRemapSteer b y) s = .next t ∧ (∀ m ∈ steerModels s b y, m ∉ modelsOn t b) ∧
      ∀ h f, Tbl.find? s.flows h = some f → f.home = some b → ∃ g, Tbl.find? t.flows h = some g ∧ g.home = some y := by
  obtain ⟨s1, t, hexec, hs1, hmodels, hhomes⟩ := exec_steer s hb hy hfailed hne hmay
  obtain ⟨hsorted, hon⟩ := (vacates_remapModel hne).foldl (steerModels s b y) s1
  refine ⟨t, hexec, fun m hm hmem => ?_, fun h f hf hhome => hhomes h ⟨f, hf, hhome⟩⟩
  have hthere := on_of_mem_modelsOn (by rw [hmodels]; exact hsorted (hs1 ▸ hs)) hmem
  rw [model_of_models hmodels, hon] at hthere
  simp [hm] at hthere

/-- Where it finds none, the replicas that have a slice on the failed block go (R565). -/
theorem spread (s : State) {b : Nat} (hs : Tbl.sorted s.models = true) : modelsOn (spreadWork s b) b = [] := by
  obtain ⟨hsorted, hon⟩ := (vacates_loseReplicas b).foldl (modelsOn s b) s
  refine List.eq_nil_iff_forall_not_mem.mpr fun m hmem => ?_
  have hthere := on_of_mem_modelsOn (by rw [spreadWork_models]; exact hsorted hs) hmem
  rw [model_of_models (spreadWork_models s b), hon, Bool.and_eq_true, Bool.not_eq_true'] at hthere
  obtain ⟨hleft, hon'⟩ := hthere
  simp [mem_modelsOn_of_on hon'] at hleft

end Sys2Proof.Machine
end

section
/-! The loss of a core, a service processor or an HBM stack (O37, R297, R299, R300). -/

namespace Sys2Proof.Machine

/-- What one of the steps of a fold brings about, and every step keeps, holds at its end. -/
theorem foldl_reaches {σ α : Type} {P : σ → Prop} {f : σ → α → σ} {a : α} (h : ∀ s k, a = k ∨ P s → P (f s k)) {l : List α} {s : σ}
    (hl : a ∈ l ∨ P s) : P (l.foldl f s) := by
  induction l generalizing s with
  | nil => exact hl.resolve_left List.not_mem_nil
  | cons k l ih =>
    rw [List.mem_cons, or_right_comm] at hl
    exact ih (hl.symm.imp_right (h s k))

/-! Cores and service processors (R297, R300). -/

/-- A table in which some entries are set to one value. -/
theorem getD_foldl_put {α : Type} (l : List Nat) (t : Tbl α) (v d : α) (k : Nat) :
    Tbl.getD (l.foldl (fun t j => Tbl.put t j v) t) k d = if k ∈ l then v else Tbl.getD t k d := by
  induction l generalizing t with
  | nil => simp
  | cons j l ih =>
    rw [List.foldl_cons, ih, Tbl.getD_put]
    by_cases hl : k ∈ l <;> by_cases hj : k = j <;> simp [hl, hj]

theorem integ_boot (s : State) (e : Integ) : (s.integ e).boot = s.boot := (congrArg State.boot (State.integ_eventless s e) :)

/-- The boot state after the services of a core went to another. -/
def coreTaken (s : State) (core y : Nat) : Boot :=
  { s.boot with deadCores := core :: s.boot.deadCores,
                cores := ((upTo 14).filter (fun v => serviceCore s v == core)).foldl (fun (t : Tbl Nat) v => Tbl.put t v y) s.boot.cores,
                spCore := Tbl.mapVals s.boot.spCore (fun _ c => if c = core then y else c) }

/-- A least-loaded core that remains takes the services of a core that failed (R300). -/
theorem exec_coreRestart {s : State} {core y : Nat} (hcore : core < 16) (hy : y < 16) (hlive : s.live = true)
    (hdead : s.boot.deadCores.contains core = false) (hne : y ≠ core) (hydead : s.boot.deadCores.contains y = false)
    (hleast : ∀ c, c < 16 → c ≠ core → s.boot.deadCores.contains c = false → coreLoad s y ≤ coreLoad s c) :
    ∃ t, exec (.coreRestart core y) s = .next t ∧ t.boot = coreTaken s core y := by
  have hlivey : ((upTo 16).filter (fun c => c != core && !s.boot.deadCores.contains c)).contains y = true := by
    simpa [upTo, hy, hne] using hydead
  have hmin : ((upTo 16).filter (fun c => c != core && !s.boot.deadCores.contains c)).any
      (fun c => decide (coreLoad s c < coreLoad s y)) = false := by
    simp only [List.any_eq_false, List.mem_filter, Bool.and_eq_true, bne_iff_ne, Bool.not_eq_true', decide_eq_true_eq, Nat.not_lt]
    exact fun c hc => hleast c (List.mem_range.mp hc.1) hc.2.1 hc.2.2
  refine ⟨_, (onObj_of_named (by simp [hcore, hy])).trans
    (congrArg _ (if_neg (by simp only [hlive, hdead, hlivey, hmin, Bool.not_true, Bool.or_false, Bool.false_eq_true, not_false_eq_true]))), ?_⟩
  exact integ_boot ..

theorem exec_spFailover {s : State} {sp core : Nat} (hsp : sp < 20) (hcore : core < 16) (hlive : s.live = true)
    (hdead : s.boot.deadCores.contains core = false) (hown : Tbl.has s.boot.spCore sp = false) :
    ∃ t, exec (.spFailover sp core) s = .next t ∧ t.boot.spCore = Tbl.put s.boot.spCore sp core := by
  refine ⟨_, (onObj_of_named (by simp [hcore, hsp])).trans
    (congrArg _ (if_neg (by simp only [hlive, hdead, hown, Bool.not_true, Bool.or_false, Bool.false_eq_true, not_false_eq_true]))), ?_⟩
  exact congrArg Boot.spCore (integ_boot ..)

/-- Each service of the core that failed runs on the one that takes over; the others stay. -/
theorem serviceCore_coreTaken {s t : State} {core y v : Nat} (ht : t.boot = coreTaken s core y) (hv : v < 14) :
    serviceCore t v = if serviceCore s v = core then y else serviceCore s v := by
  rw [serviceCore, ht]
  have hmoved : v ∈ (upTo 14).filter (fun v => serviceCore s v == core) ↔ serviceCore s v = core := by simp [upTo, hv]
  refine (getD_foldl_put ..).trans ?_
  simp only [hmoved]
  rfl

/-! An HBM stack (R299). -/

@[simp] theorem dropThread_unworked (s : State) (tid : Nat) : (dropThread s tid).unworked = s.unworked := rfl
@[simp] theorem cancelThreads_unworked (s : State) (r : Nat) : (cancelThreads s r).unworked = s.unworked :=
  foldl_keeps State.unworked (fun _ _ => dropThread_unworked ..) _ _

/-- All that the loss of a flow leaves: what work leaves, but the flows. -/
def State.flowless (s : State) : State := { s.unworked.1 with flows := [] }

theorem loseFlow_after (s : State) (h : Nat) : ∃ u : State, u.unworked = s.unworked ∧ loseFlow s h = dropFlow u h :=
  ⟨_, foldl_keeps State.unworked (fun _ _ => (updReq_unworked ..).trans (cancelThreads_unworked ..)) _ _, rfl⟩

theorem loseFlow_flowless (s : State) (h : Nat) : (loseFlow s h).flowless = s.flowless := by
  obtain ⟨u, hu, hlose⟩ := loseFlow_after s h
  rw [hlose]
  exact (congrArg (fun v : State × (Nat → PortSt) × (Nat → BlSt) => ({ v.1 with flows := [] } : State)) hu :)

theorem loseFlow_flows (s : State) (h : Nat) : (loseFlow s h).flows = Tbl.del s.flows h := by
  obtain ⟨u, hu, hlose⟩ := loseFlow_after s h
  rw [hlose, dropFlow, flows_of_unworked hu]

/-- Flows lost one after the other are gone. -/
theorem find?_foldl_loseFlow {s : State} {l : List Nat} {h : Nat} (hl : h ∈ l) : Tbl.find? (l.foldl loseFlow s).flows h = none := by
  refine foldl_reaches (P := fun s : State => Tbl.find? s.flows h = none) (fun s k hor => ?_) (Or.inl hl)
  rw [loseFlow_flows, Tbl.find?_del]
  by_cases hk : h = k
  · exact if_pos hk
  · exact (if_neg hk).trans (hor.resolve_left hk)

/-- What the loss of a stack ends with: the stacks that live, memory, flows and regions. -/
def State.stored (s : State) : Nat × List Host.Cell × Tbl Flow × Tbl Region := (s.place.stackLive, s.hbm, s.flows, s.regions)

@[simp] theorem modelFault_stored (s : State) (m cause : Nat) : (modelFault s m cause).stored = s.stored :=
  (congrArg (fun v => (v.1.place.stackLive, v.1.hbm, v.1.flows, v.1.regions)) (integ_unworked _ _) :)

theorem modelFault_st (s : State) (m cause k : Nat) :
    ((modelFault s m cause).model k).st = if k = m then 4 else (s.model k).st := by
  rw [modelFault, model_of_models (models_of_unworked (integ_unworked _ _)), State.model_updModel]
  split
  · rfl
  · rfl

/-- Contexts that enter MODEL_FAULT one after the other are all in it. -/
theorem st_foldl_modelFault {s : State} {l : List Nat} {m cause : Nat} (hl : m ∈ l) :
    ((l.foldl (fun s m => modelFault s m cause) s).model m).st = 4 := by
  refine foldl_reaches (P := fun s : State => (s.model m).st = 4) (fun s k hor => ?_) (Or.inl hl)
  rw [modelFault_st]
  by_cases hk : m = k
  · exact if_pos hk
  · exact (if_neg hk).trans (hor.resolve_left hk)

theorem loseStack_of_dead {s : State} {k : Nat} (h : bit s.place.stackLive k = false) (cause : Nat) : loseStack s k cause = s := by
  simp [loseStack, h]

/-- What a lost stack takes along (R299). -/
theorem loseStack_spec {s : State} {k : Nat} (h : bit s.place.stackLive k = true) (cause : Nat) :
    let t := loseStack s k cause
    t.place.stackLive = s.place.stackLive - 2 ^ k ∧
      (∀ a, Memory.get t.hbm a = if stackOf a = k then Memory.unlisted else Memory.get s.hbm a) ∧
      (∀ h f, Tbl.find? s.flows h = some f → h / 16 % 4 = k → Tbl.find? t.flows h = none) ∧
      ∀ r x, Tbl.find? s.regions r = some x → x.dev = s.boot.boardPos → stackOf x.base = k →
        Tbl.find? t.regions r = none ∧ ∀ m y v w, Tbl.find? s.models m = some y → Tbl.find? y.vers v = some w →
          r ∈ w.regions → (t.model m).st = 4 := by
  intro t
  have ht : loseStack s k cause = t := rfl
  unfold loseStack at ht
  rw [if_neg (by simp [h])] at ht
  extract_lets spilled place s1 s2 s3 hurt ms s4 s5 at ht
  have posted : s2.unworked = s1.unworked := integ_unworked _ _
  have lost : s3.flowless = s2.flowless := foldl_keeps State.flowless loseFlow_flowless _ _
  have hmodels : s3.models = s.models := (congrArg State.models lost :).trans (models_of_unworked posted :)
  have hregions : s3.regions = s.regions := (congrArg State.regions lost :).trans (regions_of_unworked posted :)
  have hhbm : s3.hbm = s.hbm := (congrArg State.hbm lost :).trans (hbm_of_unworked posted :)
  have hboot : s3.boot = s.boot := (congrArg State.boot lost :).trans (boot_of_unworked posted :)
  have hstacks : s3.place.stackLive = s.place.stackLive - 2 ^ k :=
    (congrArg (fun v => v.place.stackLive) lost :).trans (stackLive_of_unworked posted :)
  have rebuilt : t.unworked = s5.unworked := by
    rw [← ht]
    exact foldl_keeps State.unworked (fun _ _ => rebuildBlock_unworked ..) _ _
  have stored : t.stored = s4.stored :=
    (congrArg (fun v => (v.1.place.stackLive, v.1.hbm, v.1.flows, v.1.regions)) rebuilt :).trans
      (foldl_keeps State.stored (fun _ _ => modelFault_stored ..) _ _)
  simp only [State.stored, Prod.mk.injEq] at stored
  obtain ⟨tstacks, thbm, tflows, tregions⟩ := stored
  have hit : ∀ {r x}, Tbl.find? s.regions r = some x → x.dev = s.boot.boardPos → stackOf x.base = k →
      (hurt.any fun p => p.1 == r) = true := fun {r x} hr hdev hbase =>
    List.any_eq_true.mpr ⟨(r, x), List.mem_filter.mpr ⟨Tbl.find?_mem (hregions ▸ hr), by simp [hdev, hbase, hboot]⟩, by simp⟩
  refine ⟨tstacks.trans hstacks, fun a => ?memory, fun h f hf hk => ?flows, fun r x hr hdev hbase => ⟨?region, ?models⟩⟩
  case memory =>
    rw [thbm, ← hhbm]
    simp only [s4, Memory.get, Tbl.getD, Tbl.find?_filter _ (fun a => stackOf a != k), bne_iff_ne, ite_not]
    split <;> rfl
  case flows =>
    rw [tflows]
    refine find?_foldl_loseFlow (List.mem_filter.mpr ⟨List.mem_map.mpr ⟨(h, f), ?_, rfl⟩, by simp [hk]⟩)
    exact Tbl.find?_mem (by rw [flows_of_unworked posted]; exact hf)
  case region =>
    rw [tregions]
    exact (Tbl.find?_filter _ (fun r => !(hurt.any fun q => q.1 == r)) r).trans (by simp [hit hr hdev hbase])
  case models =>
    intro m y v w hm hv hw
    have hm3 : s3.model m = y := by rw [model_of_models hmodels, State.model, Tbl.getD, hm]; rfl
    have hused : (s3.model m).vers.any (fun v => v.2.regions.any fun r => hurt.any fun p => p.1 == r) = true := by
      rw [hm3]
      exact List.any_eq_true.mpr ⟨(v, w), Tbl.find?_mem hv, List.any_eq_true.mpr ⟨r, hw, hit hr hdev hbase⟩⟩
    rw [model_of_models (models_of_unworked rebuilt)]
    exact st_foldl_modelFault (List.mem_filter.mpr
      ⟨List.mem_map.mpr ⟨(m, y), Tbl.find?_mem (hmodels.symm ▸ hm), rfl⟩, hused⟩)

/-! STACK_LOST. -/

section
variable (s : State) {k cause : Nat} (hk : k < 4) (hc : cause < 3)
include hk hc

theorem exec_stackLost_of_few (h : cause = 0 ∧ (badGranules s k).length ≤ 64) : exec (.stackLost k cause) s = .next s :=
  (onObj_of_named (by simp [hk, hc])).trans (congrArg _ (if_pos h))

theorem exec_stackLost (h : ¬ (cause = 0 ∧ (badGranules s k).length ≤ 64)) :
    exec (.stackLost k cause) s = .next (loseStack s k cause) :=
  (onObj_of_named (by simp [hk, hc])).trans (congrArg _ (if_neg h))

theorem exec_stackLost_of_dead (h : bit s.place.stackLive k = false) : exec (.stackLost k cause) s = .next s := by
  by_cases hfew : cause = 0 ∧ (badGranules s k).length ≤ 64
  · exact exec_stackLost_of_few s hk hc hfew
  · rw [exec_stackLost s hk hc hfew, loseStack_of_dead h]

end

end Sys2Proof.Machine
end

section
/-! Fences, stalled clocks and the coalesced events (O37, R29, R33, R301, R307, R559). -/

namespace Sys2Proof.Machine

/-! What a fence looks at: power, ports and links. -/

/-- Power, and the state of every port and link. -/
def State.lineup (s : State) : Power × (Nat → PortSt) × (Nat → BlSt) := (s.power, fun p => (s.port p).st, fun l => (s.link l).st)

theorem lineup_of_unworked {s t : State} (h : t.unworked = s.unworked) : t.lineup = s.lineup :=
  congrArg (fun v : State × (Nat → PortSt) × (Nat → BlSt) => (v.1.power, v.2)) h

/-- The power, ports and links of a state, with another state for one link. -/
def State.withLink (s : State) (l : Nat) (st : BlSt) : Power × (Nat → PortSt) × (Nat → BlSt) :=
  (s.power, fun p => (s.port p).st, fun k => if k = l then st else (s.link k).st)

theorem lineup_updLink (s : State) (l : Nat) (f : Link → Link) : (s.updLink l f).lineup = s.withLink l (f (s.link l)).st := by
  refine Prod.ext rfl (Prod.ext rfl (funext fun k => ?_))
  simp only [State.lineup, State.withLink, State.link_updLink, apply_ite Link.st]

theorem withLink_of_lineup {s t : State} {l : Nat} {x : BlSt} (h : t.lineup = s.withLink l x) (y : BlSt) :
    t.withLink l y = s.withLink l y := by
  refine Prod.ext (congrArg Prod.fst h :) (Prod.ext (congrArg (fun v => v.2.1) h :) (funext fun k => ?_))
  have hk : (t.link k).st = if k = l then x else (s.link k).st := congrFun (congrArg (fun v => v.2.2) h) k
  simp only [State.withLink, hk]
  split <;> rfl

theorem dropLink_lineup (s : State) (l : Nat) : (dropLink s l).lineup = s.withLink l .disabled :=
  (lineup_of_unworked (foldl_keeps State.unworked (fun _ _ => reqDone_unworked ..) _ _)).trans (lineup_updLink ..)

/-- A link is held in reset: it is in training, or it is disabled (R301). -/
def linkHeld (x : BlSt) : Prop := x = .training ∨ x = .disabled

/-- Holding a link changes no other link and no port. -/
theorem holdLink_lineup (s : State) (l : Nat) : ∃ x, linkHeld x ∧ (holdLink s l).lineup = s.withLink l x := by
  refine ⟨if ((dropLink s l).link l).enable then .training else .disabled, ?_, ?_⟩
  · unfold linkHeld
    split
    · exact Or.inl rfl
    · exact Or.inr rfl
  · refine (lineup_of_unworked ((neighbourGone_unworked ..).trans
      (foldl_keeps State.unworked (fun _ _ => replayThread_unworked ..) _ _))).trans ?_
    exact (lineup_updLink ..).trans (withLink_of_lineup (dropLink_lineup s l) _)

theorem holdLink_power (s : State) (l : Nat) : (holdLink s l).power = s.power := by
  obtain ⟨x, -, h⟩ := holdLink_lineup s l
  exact (congrArg Prod.fst h :)

/-- Links held one after the other are all held. -/
theorem held_foldl_holdLink {s : State} {ls : List Nat} {l : Nat} (hl : l ∈ ls) : linkHeld ((ls.foldl holdLink s).link l).st := by
  refine foldl_reaches (P := fun s : State => linkHeld (s.link l).st) (fun s k hor => ?_) (Or.inl hl)
  obtain ⟨x, hx, h⟩ := holdLink_lineup s k
  have hk : ((holdLink s k).link l).st = if l = k then x else (s.link l).st := congrFun (congrArg (fun v => v.2.2) h) l
  rw [hk]
  by_cases e : l = k
  · rwa [if_pos e]
  · rw [if_neg e]
    exact hor.resolve_left e

/-! Ports that go down (R358). -/

/-- The power, ports and links of a state, with another state for one port. -/
def State.withPort (s : State) (p : Nat) (st : PortSt) : Power × (Nat → PortSt) × (Nat → BlSt) :=
  (s.power, fun q => if q = p then st else (s.port q).st, fun k => (s.link k).st)

theorem withPort_of_lineup {s t : State} (h : t.lineup = s.lineup) (p : Nat) (x : PortSt) : t.withPort p x = s.withPort p x :=
  congrArg (fun v : Power × (Nat → PortSt) × (Nat → BlSt) => (v.1, (fun q => if q = p then x else v.2.1 q), v.2.2)) h

theorem setPortState_lineup (s : State) (p : Nat) (x : PortSt) : (setPortState s p x).lineup = s.withPort p x := by
  unfold setPortState
  dsimp only
  split
  · next h =>
    refine Prod.ext rfl (Prod.ext (funext fun q => ?_) rfl)
    simp only [State.lineup, State.withPort]
    split
    · next hq => rw [hq, h]
    · rfl
  · refine (lineup_of_unworked (general_unworked ..)).trans (Prod.ext rfl (Prod.ext (funext fun q => ?_) rfl))
    simp only [State.lineup, State.withPort, State.port_updPort, apply_ite Port.st]

theorem portDown_lineup (s : State) (p : Nat) (x : PortSt) : (portDown s p x).lineup = s.withPort p x := by
  generalize ht : portDown s p x = t
  unfold portDown at ht
  extract_lets y up s1 queued s2 s3 s4 s5 s6 n was s7 at ht
  have settled : s1.unworked = s.unworked := foldl_keeps State.unworked (fun _ _ => settlePaused_unworked ..) _ _
  clear_value s1
  have cleared : s2.unworked = s1.unworked := unworked_of_unsent (updPort_unsent _ _ rfl)
  have went : s3.lineup = s.withPort p x := by
    rw [setPortState_lineup]
    refine withPort_of_lineup (lineup_of_unworked ?_) p x
    exact (ite_keeps State.unworked (count_unworked ..) rfl).trans (cleared.trans settled)
  have counted : s4.unworked = s3.unworked := ite_keeps State.unworked rfl (count_unworked ..)
  have dropped : s5.unworked = s4.unworked := foldl_keeps State.unworked (fun s f => by split <;> simp) _ _
  have paused : s6.unworked = s5.unworked := foldl_keeps State.unworked (fun _ _ => pauseUpdate_unworked ..) _ _
  have ended : t.unworked = s6.unworked := by
    rw [← ht]
    exact ite_keeps State.unworked ((neighbourGone_unworked ..).trans (neighbourEvent_unworked ..)) rfl
  exact (lineup_of_unworked (ended.trans (paused.trans (dropped.trans counted)))).trans went

theorem portDown_power (s : State) (p : Nat) (x : PortSt) : (portDown s p x).power = s.power := (congrArg Prod.fst (portDown_lineup s p x) :)

theorem portDown_port (s : State) (p q : Nat) (x : PortSt) : ((portDown s p x).port q).st = if q = p then x else (s.port q).st :=
  congrFun (congrArg (fun v => v.2.1) (portDown_lineup s p x)) q

theorem portDown_link (s : State) (p l : Nat) (x : PortSt) : ((portDown s p x).link l).st = (s.link l).st :=
  congrFun (congrArg (fun v => v.2.2) (portDown_lineup s p x)) l

/-- A port that goes down, or was down, is down. -/
theorem portUp_portDown {s : State} {p q : Nat} (h : q = p ∨ portUp (s.port q) = false) : portUp ((portDown s p .down).port q) = false := by
  unfold portUp at h ⊢
  rw [portDown_port]
  by_cases e : q = p
  · simp [e]
  · rw [if_neg e]
    exact h.resolve_left e

/-- Every port that is up goes down. -/
theorem portUp_foldl_portDown (s : State) (p : Nat) :
    portUp (((s.ports.filter (fun p => portUp p.2)).foldl (fun s p => portDown s p.1 .down) s).port p) = false := by
  cases hup : portUp (s.port p) with
  | false =>
    exact foldl_reaches (P := fun s : State => portUp (s.port p) = false) (a := (p, s.port p))
      (fun s q hor => portUp_portDown (hor.imp_left (congrArg Prod.fst))) (Or.inr hup)
  | true =>
    refine foldl_reaches (P := fun s : State => portUp (s.port p) = false) (a := (p, s.port p))
      (fun s q hor => portUp_portDown (hor.imp_left (congrArg Prod.fst))) (Or.inl (List.mem_filter.mpr ⟨?_, hup⟩))
    cases hp : Tbl.find? s.ports p with
    | some x =>
      rw [State.port, Tbl.getD, hp]
      exact Tbl.find?_mem hp
    | none => simp [State.port, Tbl.getD, hp, portUp] at hup

/-! FENCED (R301, R502, R521). -/

theorem fenceDevice_of_fenced {s : State} (h : s.power.fenced = true) (cause sub kind unit : Nat) :
    fenceDevice s cause sub kind unit = s := if_pos h

/-- The device enters FENCED: the fault is latched, every port is down, every link held in reset. -/
theorem fenceDevice_spec {s : State} (h : s.power.fenced = false) (cause sub kind unit : Nat) :
    let t := fenceDevice s cause sub kind unit
    t.power.fenced = true ∧ t.power.fences = s.power.fences + 1 ∧ t.power.fault.cause = cause + 1 ∧ t.power.fault.unit = unit ∧
      (∀ p, portUp (t.port p) = false) ∧ ∀ l, l < 7 → linkHeld (t.link l).st := by
  intro t
  have ht : fenceDevice s cause sub kind unit = t := rfl
  unfold fenceDevice at ht
  rw [if_neg (by simp [h])] at ht
  extract_lets s1 s2 s3 s4 at ht
  have posted : s1.power = s.power := (congrArg State.power (State.integ_eventless _ _) :)
  have latched : s2.power.fences = s.power.fences ∧ s2.power.fault.cause = cause + 1 ∧ s2.power.fault.unit = unit :=
    ⟨(congrArg Power.fences posted :), rfl, rfl⟩
  obtain ⟨hfences, hcause, hunit⟩ := latched
  have held : s3.power = s2.power := foldl_keeps State.power holdLink_power _ _
  have hheld : ∀ l, l < 7 → linkHeld (s3.link l).st := fun l hl => held_foldl_holdLink (List.mem_range.mpr hl)
  clear_value s2 s3
  have down : s4.power = s3.power := foldl_keeps State.power (fun _ _ => portDown_power ..) _ _
  have kept : ∀ l, (s4.link l).st = (s3.link l).st := fun l =>
    foldl_keeps (fun s : State => (s.link l).st) (fun _ _ => portDown_link ..) _ _
  have hports : ∀ p, portUp (s4.port p) = false := portUp_foldl_portDown s3
  clear_value s4
  rw [← down.trans held] at hfences hcause hunit
  rw [← ht]
  exact ⟨rfl, congrArg (· + 1) hfences, hcause, hunit, hports, fun l hl => (kept l).symm ▸ hheld l hl⟩

theorem fenceDevice_fenced (s : State) (cause sub kind unit : Nat) : (fenceDevice s cause sub kind unit).power.fenced = true := by
  cases h : s.power.fenced with
  | true => rwa [fenceDevice_of_fenced h]
  | false => exact (fenceDevice_spec h cause sub kind unit).1

theorem exec_fenced (s : State) {cause kind unit : Nat} (hc : cause < 3) (hk : kind < 7) (hu : unit < 32) :
    exec (.fenced cause kind unit) s = .next (fenceDevice s cause 0 kind unit) :=
  onObj_of_named (by simp [hc, hk, hu])

/-! CLOCK_STALL and CLOCK_RETURN (R29, R33, R559). -/

/-- The ports of a lane group go down with their clock (R29). -/
def groupDown (s : State) (die : Nat) : State :=
  (upTo 8).foldl (fun s i =>
    let p := die / 8 * 8 + i
    if okPort p && portUp (s.port p) then portDown s p .down else s) s

theorem portUp_groupDown (s : State) {p die : Nat} (hdie : p / 8 = die / 8) (hp : okPort p = true) :
    portUp ((groupDown s die).port p) = false := by
  have hsub : die / 8 * 8 + p % 8 = p := by omega
  refine foldl_reaches (P := fun s : State => portUp (s.port p) = false) (a := p % 8) (fun s i hor => ?_)
    (Or.inl (List.mem_range.mpr (Nat.mod_lt _ (by decide))))
  dsimp only
  split
  · exact portUp_portDown (hor.imp_left fun hi => by rw [← hi, hsub])
  · next hno =>
    refine hor.elim (fun hi => ?_) id
    rw [← hi, hsub, hp, Bool.true_and, Bool.not_eq_true] at hno
    exact hno

/-- What training starts from: the link in training, cold. -/
def coldTraining (x : Link) : Prop := x.st = .training ∧ x.warm = false

theorem sendTs_power (s : State) (l : Nat) (ts2 deep : Bool) : (sendTs s l ts2 deep).power = s.power :=
  foldl_keeps (f := fun s k => s.emit (.train l ts2 (tsBytes s l k ts2 deep))) State.power (fun _ _ => rfl) _ _

theorem sendTs_links (s : State) (l : Nat) (ts2 deep : Bool) : (sendTs s l ts2 deep).links = s.links :=
  foldl_keeps (f := fun s k => s.emit (.train l ts2 (tsBytes s l k ts2 deep))) State.links (fun _ _ => rfl) _ _

theorem startTraining_power (s : State) (l : Nat) (warm : Bool) : (startTraining s l warm).power = s.power := sendTs_power ..

/-- Training starts on its link only. -/
theorem startTraining_link (s : State) (l k : Nat) : ((startTraining s l false).link k).enable = (s.link k).enable ∧
    (k = l → coldTraining ((startTraining s l false).link k)) ∧ (k ≠ l → (startTraining s l false).link k = s.link k) := by
  generalize ht : startTraining s l false = t
  unfold startTraining at ht
  extract_lets u at ht
  have hk : t.link k = u.link k := by
    rw [← ht, State.link, sendTs_links]
    rfl
  rw [hk, State.link_updLink]
  by_cases e : k = l
  · subst e
    simp [coldTraining]
  · simp [e]

/-- A link that is enabled trains cold when the clock of the links is back (R559). -/
def trainEnabled (s : State) (l : Nat) : State := if (s.link l).enable then startTraining s l false else s

theorem trainEnabled_power (s : State) (l : Nat) : (trainEnabled s l).power = s.power := ite_keeps State.power (startTraining_power ..) rfl

theorem trainEnabled_enable (s : State) (l k : Nat) : ((trainEnabled s l).link k).enable = (s.link k).enable :=
  ite_keeps (fun s : State => (s.link k).enable) (startTraining_link ..).1 rfl

/-- Every link that is enabled trains cold. -/
theorem foldl_trainEnabled {s : State} {ls : List Nat} {l : Nat} (hl : l ∈ ls) (hon : (s.link l).enable = true) :
    coldTraining ((ls.foldl trainEnabled s).link l) := by
  have kept : ((ls.foldl trainEnabled s).link l).enable = (s.link l).enable :=
    foldl_keeps (fun s : State => (s.link l).enable) (fun _ _ => trainEnabled_enable ..) _ _
  refine foldl_reaches (P := fun s : State => (s.link l).enable = true → coldTraining (s.link l)) (fun s k hor he => ?_)
    (Or.inl hl) (kept.trans hon)
  rw [trainEnabled_enable] at he
  obtain ⟨-, hsame, hother⟩ := startTraining_link s k l
  by_cases e : l = k
  · subst e
    rw [trainEnabled, if_pos he]
    exact hsame rfl
  · have hlink : (trainEnabled s k).link l = s.link l := ite_keeps (State.link · l) (hother e) rfl
    rw [hlink]
    exact hor.resolve_left e he

/-! Events of severity 0 (R307). -/

/-- A posted event takes the next number; placement keeps the rest. -/
theorem post_place (s : State) (l : List Nat) (mk : Nat → Bytes) :
    (s.post l mk).place = { s.place with evseq := (s.place.evseq + 1) % 2 ^ 32 } :=
  foldl_keeps (f := fun s f => s.queueEvent (mk _) f) State.place
    (fun s f => (congrArg State.place (State.queueEvent_ringless s _ f) :)) _ _

section
variable {s : State} {key : Nat}

theorem exec_flush_of_none (h : Tbl.find? s.place.coal key = none) : exec (.eventCoalesceFlush key) s = .next s :=
  congrArg Host.Outcome.next (by rw [h])

variable {c : Coal} (h : Tbl.find? s.place.coal key = some c)
include h

theorem exec_flush_of_early (hnow : s.now < c.postedAt + second) : exec (.eventCoalesceFlush key) s = .next s :=
  congrArg Host.Outcome.next (by rw [h]; exact if_pos hnow)

/-- After its second, a record that folded nothing goes; another is posted and starts anew. -/
theorem exec_flush (hnow : c.postedAt + second ≤ s.now) : ∃ t, exec (.eventCoalesceFlush key) s = .next t ∧
    (c.count = 0 → t.place = { s.place with coal := Tbl.del s.place.coal key }) ∧
    (c.count ≠ 0 → t.place = { s.place with coal := Tbl.put s.place.coal key ⟨s.now, 0, 0, 0, 0, 0, 0⟩,
                                            evseq := (s.place.evseq + 1) % 2 ^ 32 }) := by
  refine ⟨_, rfl, fun h0 => ?_, fun h0 => ?_⟩
  · simp only [h, Nat.not_lt.mpr hnow, h0, if_true, if_false]
  · simp only [h, Nat.not_lt.mpr hnow, h0, if_false]
    exact post_place ..

end

end Sys2Proof.Machine
end

section
/-! Stalled clocks, and that failures are contained (O37). -/

namespace Sys2Proof.Machine

/-! CLOCK_STALL and CLOCK_RETURN by the row of R29 (R33, R559). -/

/-- The event of a clock that stalls. -/
def stallTold (s : State) (dom : Nat) : State := s.integ { fcode := 0x0151, sev := 2, detail := dom }

section
variable (s : State) (die : Nat)

theorem exec_stall_cclk : exec (.clockStall 0 die) s = .next (fenceDevice (stallTold s 0) 0 0 1 (die % 2)) := by
  refine (onObj_of_named rfl).trans (congrArg _ ?_)
  rw [if_neg (by decide)]
  rfl
theorem exec_stall_kclk : exec (.clockStall 1 die) s = .next (fenceDevice (stallTold s 1) 1 0 3 0) := by
  refine (onObj_of_named rfl).trans (congrArg _ ?_)
  rw [if_neg (by decide)]
  rfl

theorem exec_stall_time : exec (.clockStall 2 die) s = .next ((stallTold s 2).updTu (fun t => { t with stalled := true })) :=
  onObj_of_named rfl

theorem exec_stall_stack (h : die < 4) : exec (.clockStall 3 die) s = .next (loseStack (stallTold s 3) die 1) :=
  (onObj_of_named rfl).trans (congrArg _ (if_pos h))

theorem exec_stall_ports : exec (.clockStall 4 die) s = .next (groupDown (stallTold s 4) die) := onObj_of_named rfl

/-- A clock that is noted once is noted. -/
theorem mem_noted (l : List Nat) : (if l.contains 6 then l else 6 :: l).contains 6 = true := by
  split
  · assumption
  · simp

theorem exec_stall_links : ∃ t, exec (.clockStall 6 56) s = .next t ∧ t.power.stalledClk.contains 6 = true := by
  refine ⟨_, (onObj_of_named rfl).trans (congrArg _ (if_neg (by decide))), ?_⟩
  dsimp only
  rw [if_pos rfl]
  generalize (upTo 7).foldl _ _ = u
  exact mem_noted u.power.stalledClk

theorem exec_stall_host : exec (.clockStall 7 die) s =
    .next { stallTold s 7 with hostUp := (stallTold s 7).hostUp.filter (· ≠ die) } := onObj_of_named rfl

/-- No domain watches the lantern clock. -/
theorem exec_stall_lantern : exec (.clockStall 8 die) s = .next s := onObj_of_named rfl

theorem stallTold_stackLive (dom : Nat) : (stallTold s dom).place.stackLive = s.place.stackLive :=
  stackLive_of_unworked (integ_unworked ..)
theorem stallTold_hostUp (dom : Nat) : (stallTold s dom).hostUp = s.hostUp := (congrArg State.hostUp (State.integ_eventless _ _) :)

/-- What each stalled clock costs (R29, R559). -/
theorem clockStalls {dom : Nat} (hdom : dom < 9) :
    ∃ t, exec (.clockStall dom die) s = .next t ∧ (dom < 2 → t.power.fenced = true) ∧ (dom = 2 → t.tu.stalled = true) ∧
      (dom = 3 → die < 4 → bit s.place.stackLive die = true → t.place.stackLive = s.place.stackLive - 2 ^ die) ∧
      (dom = 4 → ∀ p, p / 8 = die / 8 → okPort p = true → portUp (t.port p) = false) ∧ (dom = 8 → t = s) ∧
      (dom = 7 → t.hostUp = s.hostUp.filter (· ≠ die)) ∧ (dom = 6 → die = 56 → t.power.stalledClk.contains 6 = true) := by
  obtain ⟨t, ht⟩ : ∃ t, exec (.clockStall dom die) s = .next t := ⟨_, onObj_of_named (decide_eq_true hdom)⟩
  have same : ∀ {u}, exec (.clockStall dom die) s = .next u → u = t := fun hu => by simpa using hu.symm.trans ht
  refine ⟨t, ht, fun h => ?core, fun h => ?time, fun h hdie hlive => ?stack, fun h p hp hok => ?ports, fun h => ?lantern,
    fun h => ?host, fun h hdie => ?links⟩
  case core =>
    obtain rfl | rfl : dom = 0 ∨ dom = 1 := by omega
    · exact same (exec_stall_cclk s die) ▸ fenceDevice_fenced ..
    · exact same (exec_stall_kclk s die) ▸ fenceDevice_fenced ..
  case time =>
    subst h
    exact same (exec_stall_time s die) ▸ rfl
  case stack =>
    subst h
    rw [← same (exec_stall_stack s die hdie), ← stallTold_stackLive s 3]
    exact (loseStack_spec (by rwa [stallTold_stackLive]) 1).1
  case ports =>
    subst h
    exact same (exec_stall_ports s die) ▸ portUp_groupDown _ hp hok
  case lantern =>
    subst h
    exact (same (exec_stall_lantern s die)).symm
  case host =>
    subst h
    rw [← same (exec_stall_host s die), ← stallTold_hostUp s 7]
  case links =>
    subst h hdie
    obtain ⟨u, hu, hclk⟩ := exec_stall_links s
    exact same hu ▸ hclk

end

theorem exec_return_time (s : State) : exec (.clockReturn 2) s = .next (s.updTu (fun t => { t with stalled := false })) :=
  onObj_of_named rfl

theorem exec_return_links {s : State} (h : s.power.stalledClk.contains 6 = true) : exec (.clockReturn 6) s =
    .next ((upTo 7).foldl trainEnabled
      { s with power := { s.power with stalledClk := s.power.stalledClk.filter (· ≠ 6) } }) :=
  (onObj_of_named rfl).trans (congrArg _ (if_pos h))

/-- What comes back with a clock (R33, R559). -/
theorem clockReturns (s : State) {dom : Nat} (hdom : dom < 9) :
    ∃ t, exec (.clockReturn dom) s = .next t ∧ (dom = 2 → t.tu.stalled = false ∧ t.tu.views = s.tu.views) ∧
      (dom = 6 → s.power.stalledClk.contains 6 = true → t.power.stalledClk.contains 6 = false ∧
        ∀ l, l < 7 → (s.link l).enable = true → (t.link l).st = .training ∧ (t.link l).warm = false) := by
  obtain ⟨t, ht⟩ : ∃ t, exec (.clockReturn dom) s = .next t := ⟨_, onObj_of_named (decide_eq_true hdom)⟩
  have same : ∀ {u}, exec (.clockReturn dom) s = .next u → u = t := fun hu => by simpa using hu.symm.trans ht
  refine ⟨t, ht, fun h => ?time, fun h hclk => ?links⟩
  case time =>
    subst h
    rw [← same (exec_return_time s)]
    exact ⟨rfl, rfl⟩
  case links =>
    subst h
    rw [← same (exec_return_links hclk)]
    refine ⟨?_, fun l hl hon => foldl_trainEnabled (List.mem_range.mpr hl) hon⟩
    rw [foldl_keeps State.power trainEnabled_power]
    simp

/-- Settles O37: each failure takes what it hits out of service and leaves the rest: the block, the VSE, the core, the stack, the
ports and links of a fence, the domain of a clock. -/
theorem failuresContained : Obligations.FailuresContained := by
  refine ⟨fun s b hb => ⟨fun i hi => ?fails, fun u hu => ⟨?vseGone, ?vseFirst, ?vseSecond⟩, fun y hy => ?steer⟩,
    fun s core y sp hcore hy hsp hlive hdead => ⟨?core, ?sp⟩, fun s k cause hk hc => ?stack, fun s cause kind unit hc hk hu => ⟨?sound, ?fence⟩,
    fun s dom die hdom => ⟨clockStalls s die hdom, clockReturns s hdom, fun key => exec_flush_of_none, fun key c h => ?flush⟩⟩
  case fails =>
    obtain ⟨cause, hexec⟩ := exec_failure s hb hi
    rw [hexec]
    exact ⟨fun h => by rw [failBlock_of_retired h], fun h => ⟨_, rfl, blockFails h cause⟩⟩
  case vseGone =>
    intro h
    rw [exec_vseFailure s hb hu, retireVse_of_retired h]
  case vseFirst =>
    intro hlive hfirst
    rw [exec_vseFailure s hb hu, retireVse_first hlive (by simp [hfirst]) 3 hfirst]
    refine ⟨_, rfl, ?_, ?_, vseLost_threads .., vseLost_count ..⟩
    · rw [vseLost_block, hfirst]
    · rw [vseLost_block, hlive]
  case vseSecond =>
    intro hlive hsecond hnew
    rw [exec_vseFailure s hb hu, retireVse_second hlive hnew 3 hsecond]
    refine ⟨_, rfl, ?_⟩
    have hlive' : (((vseLost s b u).updBlock b (fun x => { x with testing := false })).block b).retired = false := by
      simp [State.block_updBlock, vseLost_block, hlive]
    obtain ⟨hfenced, hretired, -⟩ := blockFails hlive' 3
    exact ⟨hfenced, hretired⟩
  case steer =>
    refine ⟨exec_steer_of_sound s hb hy, exec_steer_of_no_target s hb hy, exec_spread_of_room s hb, steered s hb hy,
      fun hfailed hnone hs => ⟨_, exec_spread s hb hfailed hnone, spread s hs⟩⟩
  case core =>
    intro hne hydead hleast
    obtain ⟨t, hexec, hboot⟩ := exec_coreRestart hcore hy hlive hdead hne hydead hleast
    exact ⟨t, hexec, by rw [hboot]; rfl, fun v hv => serviceCore_coreTaken hboot hv⟩
  case sp =>
    intro hown
    obtain ⟨t, hexec, hcore'⟩ := exec_spFailover hsp hcore hlive hdead hown
    exact ⟨t, hexec, by rw [hcore']; exact Tbl.find?_put_self ..⟩
  case stack =>
    intro many
    have hfew : cause = 0 ∧ many = false ↔ cause = 0 ∧ (badGranules s k).length ≤ 64 := by simp [many]
    refine ⟨?_, fun hor hlive => ⟨_, exec_stackLost s hk hc ?_, loseStack_spec hlive cause⟩⟩
    · rintro (h | h)
      · exact exec_stackLost_of_few s hk hc (hfew.mp h)
      · exact exec_stackLost_of_dead s hk hc h
    · rw [← hfew]
      rintro ⟨h0, hno⟩
      simp [h0, hno] at hor
  case sound =>
    intro h
    rw [exec_fenced s hc hk hu, fenceDevice_of_fenced h]
  case fence =>
    exact fun h => ⟨_, exec_fenced s hc hk hu, fenceDevice_spec h cause 0 kind unit⟩
  case flush =>
    refine ⟨exec_flush_of_early h, fun hnow => ?_⟩
    obtain ⟨t, hexec, hempty, hposted⟩ := exec_flush h hnow
    refine ⟨t, hexec, fun h0 => ?_, fun h0 => ?_⟩
    · rw [hempty h0]
      exact ⟨Tbl.find?_del_self .., rfl⟩
    · rw [hposted h0]
      exact ⟨Tbl.find?_put_self .., rfl⟩

end Sys2Proof.Machine
end

section
/-! Threads: how an evaluation ends and reaches its record, and what a replay keeps (O13, O14, R168, R285, R290). -/

namespace Sys2Proof.Machine

/-! Threads and records after updates. -/

theorem threads_of_eventless {s t : State} (h : t.eventless = s.eventless) : t.threads = s.threads := (congrArg State.threads h :)
theorem counters_of_eventless {s t : State} (h : t.eventless = s.eventless) : t.counters = s.counters := (congrArg State.counters h :)
theorem integ_threads (s : State) (e : Integ) : (s.integ e).threads = s.threads := threads_of_eventless (State.integ_eventless s e)
theorem integ_counters (s : State) (e : Integ) : (s.integ e).counters = s.counters := counters_of_eventless (State.integ_eventless s e)
theorem integ_now (s : State) (e : Integ) : (s.integ e).now = s.now := (congrArg State.now (State.integ_eventless s e) :)

theorem find_updThread_of_find {s : State} {n : Nat} {t : Thread} (h : Tbl.find? s.threads n = some t) (f : Thread → Thread) :
    Tbl.find? (s.updThread n f).threads n = some (f t) := by
  rw [State.find_updThread, if_pos rfl, h]; rfl

theorem getElem?_updAt_self {α : Type} {l : List α} {i : Nat} {a : α} (h : l[i]? = some a) (f : α → α) :
    (updAt l i f)[i]? = some (f a) := by
  obtain ⟨hi, rfl⟩ := List.getElem?_eq_some_iff.mp h
  simp [updAt, hi]

theorem find_updRec_of_find {s : State} {r i : Nat} {q : Request} (h : Tbl.find? s.reqs r = some q) (f : QRec → QRec) :
    Tbl.find? (s.updRec r i f).reqs r = some { q with recs := updAt q.recs i f } := by
  rw [State.updRec, State.find_updReq, if_pos rfl, h]; rfl

/-! The end of an evaluation (R168). -/

/-- A thread whose evaluation is over. -/
def Thread.ended (t : Thread) : Thread := { t with done := true, sums := [], sumFrom := none }

/-- The record of a thread whose evaluation is over. -/
def QRec.answered (r : QRec) (t : Thread) : QRec :=
  { r with status := t.status, scores := if t.status = 0 then t.scores.map Prod.snd else [], ready := true }

theorem endThread_of_find {s : State} {n : Nat} {t : Thread} (h : Tbl.find? s.threads n = some t) :
    s.endThread n = (s.updThread n Thread.ended).updRec t.req t.qi (fun r => r.answered t) := by
  simp only [State.endThread, h]; rfl

theorem find_endThread {s : State} {n : Nat} {t : Thread} (h : Tbl.find? s.threads n = some t) :
    Tbl.find? (s.endThread n).threads n = some t.ended := by
  rw [endThread_of_find h]
  exact find_updThread_of_find h _

theorem rec_endThread {s : State} {n : Nat} {t : Thread} {q : Request} {c : QRec} (h : Tbl.find? s.threads n = some t)
    (hq : Tbl.find? s.reqs t.req = some q) (hc : q.recs[t.qi]? = some c) :
    ∃ p, Tbl.find? (s.endThread n).reqs t.req = some p ∧ p.recs[t.qi]? = some (c.answered t) := by
  rw [endThread_of_find h]
  exact ⟨_, find_updRec_of_find hq _, getElem?_updAt_self hc _⟩

theorem endThread_counters (s : State) (n : Nat) : (s.endThread n).counters = s.counters := by
  unfold State.endThread; split <;> rfl
theorem endThread_blocks (s : State) (n : Nat) : (s.endThread n).blocks = s.blocks := by
  unfold State.endThread; split <;> rfl

theorem find_threadFault {s : State} {n : Nat} {t : Thread} (h : Tbl.find? s.threads n = some t) :
    Tbl.find? (s.threadFault n).threads n = some { t with fault := true }.ended :=
  find_endThread (find_updThread_of_find h _)
theorem threadFault_counters (s : State) (n : Nat) : (s.threadFault n).counters = s.counters := endThread_counters ..
theorem threadFault_blocks (s : State) (n : Nat) : (s.threadFault n).blocks = s.blocks := endThread_blocks ..

/-! A replay starts a thread over, but that it has been replayed stays noted (R285). -/

/-- Whether a thread has been replayed, where there is one. -/
def State.replayNoted (s : State) (n : Nat) : Option Bool := (Tbl.find? s.threads n).map Thread.replayed

theorem replayNoted_of_threads {s t : State} (h : t.threads = s.threads) (n : Nat) : t.replayNoted n = s.replayNoted n := by
  rw [State.replayNoted, h]; rfl

theorem updThread_replayNoted {s : State} {n : Nat} {f : Thread → Thread}
    (hf : ∀ t, Tbl.find? s.threads n = some t → (f t).replayed = t.replayed) : (s.updThread n f).replayNoted n = s.replayNoted n := by
  rw [State.replayNoted, State.find_updThread, if_pos rfl, Option.map_map]
  exact Option.map_congr hf

theorem endThread_replayNoted (s : State) (n : Nat) : (s.endThread n).replayNoted n = s.replayNoted n := by
  cases h : Tbl.find? s.threads n with
  | none => rw [State.endThread, h]
  | some t => rw [State.replayNoted, find_endThread h, State.replayNoted, h]; rfl

theorem threadFault_replayNoted (s : State) (n : Nat) : (s.threadFault n).replayNoted n = s.replayNoted n :=
  (endThread_replayNoted ..).trans (updThread_replayNoted fun _ _ => rfl)
theorem threadInvalid_replayNoted (s : State) (n : Nat) : (s.threadInvalid n).replayNoted n = s.replayNoted n :=
  (endThread_replayNoted ..).trans (updThread_replayNoted fun _ _ => rfl)

theorem sendQmsg_threads {s t : State} {dev kind fn ctx : Nat} {p : Bytes} (h : sendQmsg s dev kind fn ctx p = some t) :
    t.threads = s.threads := by
  unfold sendQmsg at h
  split at h
  · cases h
  · cases h
    exact congrArg (fun v : State × (Nat → PortSt) × (Nat → BlSt) => v.1.threads) (sendBlp_unsent ..)

/-- A QMSG that finds no route faults its thread (R231). -/
theorem sendQmsgOrFault_replayNoted (s : State) (dev kind fn ctx : Nat) (p : Bytes) (n : Nat) :
    (match sendQmsg s dev kind fn ctx p with | some u => u | none => s.threadFault n).replayNoted n = s.replayNoted n := by
  split
  · next h => exact replayNoted_of_threads (sendQmsg_threads h) n
  · exact threadFault_replayNoted s n

theorem sendFeatures_replayNoted (s : State) (n : Nat) (t : Thread) : (sendFeatures s n t).replayNoted n = s.replayNoted n := by
  unfold sendFeatures
  split
  · rfl
  · exact foldl_keeps (State.replayNoted · n) (fun s x => sendQmsgOrFault_replayNoted ..) _ _

theorem sendRow_replayNoted (s : State) (n : Nat) : (sendRow s n).replayNoted n = s.replayNoted n := by
  unfold sendRow
  split
  · rfl
  · exact ite_keeps (State.replayNoted · n) rfl (foldl_keeps (State.replayNoted · n) (fun s x =>
      foldl_keeps (State.replayNoted · n) (fun s q => sendQmsgOrFault_replayNoted ..) _ _) _ _)

theorem count_replayNoted (s : State) (c : CName) (o n i k : Nat) : (s.count c o n i).replayNoted k = s.replayNoted k := rfl

section
variable {s : State} {n : Nat} {t : Thread} (h : Tbl.find? s.threads n = some t) (img : Bytes)
include h

/-- A thread that is written anew from its own record keeps the note. -/
theorem rewrite_replayNoted {y : Thread} (hy : y.replayed = t.replayed) : (s.updThread n (fun _ => y)).replayNoted n = s.replayNoted n :=
  updThread_replayNoted fun x hx => by rw [← Option.some.inj (h.symm.trans hx), hy]

theorem startTree_replayNoted : (startTree s n t img).replayNoted n = s.replayNoted n := by
  simp only [startTree, apply_ite (State.replayNoted · n), threadInvalid_replayNoted, sendFeatures_replayNoted, count_replayNoted, ite_self]
  exact rewrite_replayNoted h rfl

theorem startNeural_replayNoted : (startNeural s n t img).replayNoted n = s.replayNoted n := by
  unfold startNeural
  refine ite_keeps (State.replayNoted · n) (threadInvalid_replayNoted ..) ((sendRow_replayNoted ..).trans ?_)
  exact rewrite_replayNoted h rfl

end

theorem startThread_replayNoted (s : State) (n : Nat) : (startThread s n).replayNoted n = s.replayNoted n := by
  unfold startThread
  split
  · rfl
  · next h => exact ite_keeps (State.replayNoted · n) (startTree_replayNoted h _) (startNeural_replayNoted h _)

theorem replayThread_replayNoted (s : State) (n : Nat) : (replayThread s n).replayNoted n = s.replayNoted n :=
  ite_keeps (State.replayNoted · n) (threadFault_replayNoted s n)
    ((startThread_replayNoted ..).trans (updThread_replayNoted fun _ _ => rfl))

end Sys2Proof.Machine
end

section
/-! FEATURE_PRESENTATION and TREE_LOOKUP: the compare network and the rule banks (O13, R107 to R115). -/

namespace Sys2Proof.Machine

/-! The compare network (R101 to R111). -/

theorem block_of_sliceOf {s : State} {t : Thread} {b : Nat} {x : Slice} (h : sliceOf s t b = some x) : x.block = b := by
  unfold sliceOf at h
  split at h
  · have hx := List.find?_some h
    simp only [Bool.and_eq_true, beq_iff_eq] at hx
    exact hx.2
  · cases h

/-- Two items with one image are the same where the images are all different (core Lean has no such lemma). -/
theorem eq_of_nodup_map {α β : Type} {f : α → β} {l : List α} {a b : α} (h : (l.map f).Nodup) (ha : a ∈ l) (hb : b ∈ l)
    (hab : f a = f b) : a = b := by
  induction l with
  | nil => cases ha
  | cons c l ih =>
    rw [List.map_cons, List.nodup_cons] at h
    obtain ⟨hnew, hrest⟩ := h
    rcases List.mem_cons.mp ha with rfl | hal <;> rcases List.mem_cons.mp hb with rfl | hbl
    · rfl
    · exact absurd (hab ▸ List.mem_map_of_mem hbl) hnew
    · exact absurd (hab ▸ List.mem_map_of_mem hal) hnew
    · exact ih hrest hal hbl

/-- Entries written one after the other, at most one of them at the place of `c`. -/
theorem getD_foldl_put_of_inj {α β : Type} {key : β → Nat} {val : β → α} {c : β} {l : List β} {t : Tbl α} (d : α)
    (hinj : ∀ j ∈ l, key j = key c → j = c) (h : c ∈ l ∨ Tbl.getD t (key c) d = val c) :
    Tbl.getD (l.foldl (fun a j => Tbl.put a (key j) (val j)) t) (key c) d = val c := by
  induction l generalizing t with
  | nil => exact h.resolve_left List.not_mem_nil
  | cons j l ih =>
    refine ih (fun i hi => hinj i (List.mem_cons_of_mem j hi)) ?_
    rw [Tbl.getD_put]
    by_cases hkey : key j = key c
    · rw [if_pos hkey.symm, hinj j List.mem_cons_self hkey]
      exact .inr rfl
    · rw [if_neg (Ne.symm hkey)]
      exact h.imp_left fun hc => (List.mem_cons.mp hc).resolve_left fun heq => hkey (heq ▸ rfl)

/-- A prepared feature's value is a NaN that its predicates give a meaning (R100, R103). -/
def mapsNan (img : Bytes) (prep v : Nat) : Bool :=
  nanPolicy (prepSec img) != 0 && !peOutI (imgAccept img) (prepEntry (prepSec img) prep) && fp32.isNan v

/-- The first NaN of a thread that is given a meaning is counted (R100). -/
def nanCounted (s : State) (t : Thread) (img : Bytes) (prep v : Nat) : State :=
  if mapsNan img prep v && !t.nanMapped then s.count .prepNanMapped t.model 1 else s

theorem nanCounted_threads (s : State) (t : Thread) (img : Bytes) (prep v : Nat) : (nanCounted s t img prep v).threads = s.threads :=
  ite_keeps State.threads rfl rfl

/-- A thread once the comparators of a prepared feature have set their bits on a block (R107). -/
def Thread.presents (t : Thread) (img : Bytes) (x : Slice) (b prep v : Nat) : Thread :=
  { t with pvec := (x.comps.filter (fun c => thrPrep img c.pred == prep)).foldl
             (fun a c => Tbl.put a (b * 4096 + c.bit) (predBit img (prepSec img) (imgAccept img) c.pred v)) t.pvec,
           presented := (b * 4096 + prep) :: t.presented, nanMapped := t.nanMapped || mapsNan img prep v }

theorem presents_pvec (t : Thread) (img : Bytes) {x : Slice} (b prep v : Nat) (hbits : (x.comps.map CompPl.bit).Nodup)
    {c : CompPl} (hc : c ∈ x.comps) (hprep : thrPrep img c.pred = prep) :
    Tbl.getD (t.presents img x b prep v).pvec (b * 4096 + c.bit) false = predBit img (prepSec img) (imgAccept img) c.pred v := by
  refine getD_foldl_put_of_inj (key := fun c : CompPl => b * 4096 + c.bit)
    (val := fun c : CompPl => predBit img (prepSec img) (imgAccept img) c.pred v) false (fun j hj hkey => ?_) (.inl ?_)
  · exact eq_of_nodup_map hbits (List.mem_filter.mp hj).1 hc (Nat.add_left_cancel hkey)
  · exact List.mem_filter.mpr ⟨hc, by simp [hprep]⟩

/-- A tree that is set off and has every bit is queued, or has been looked up (R107, R111). -/
theorem queued_of_ready {img : Bytes} {t : Thread} {x : Slice} {k : Nat} (hk : k ∈ x.trees.map TreePl.tree)
    (htrig : triggered img t x.block k = true) (hready : treeReady img t x.block k = true) :
    k ∈ t.queued ++ newlyReady img t x ∨ Tbl.has t.matched k = true := by
  by_cases hq : k ∈ t.queued
  · exact .inl (List.mem_append_left _ hq)
  · by_cases hm : Tbl.has t.matched k = true
    · exact .inr hm
    · exact .inl (List.mem_append_right _ (List.mem_filter.mpr ⟨hk, by simp [htrig, hready, hq, hm]⟩))

theorem exec_featurePresentation {s : State} {th b prep v : Nat} {t : Thread} {x : Slice} (hth : okThread th = true) (hb : okBlock b = true)
    (ht : Tbl.find? s.threads th = some t) (hx : sliceOf s t b = some x) (hv : Tbl.find? t.prepd prep = some v)
    (hfenced : (s.block b).fenced = false) (hwaits : (waitingPreps s t b).contains prep = true)
    (hfree : lanesFree s b t.tArrive (lanesOf (s.verOf t).image x prep) = true) :
    let y := t.presents (s.verOf t).image x b prep v
    exec (.featurePresentation th b prep) s = .next ((nanCounted s t (s.verOf t).image prep v).updThread th
      (fun _ => { y with queued := t.queued ++ newlyReady (s.verOf t).image y x })) := by
  have hbusy : ¬ ((s.block b).fenced || !(waitingPreps s t b).contains prep ||
      !lanesFree s b t.tArrive (lanesOf (s.verOf t).image x prep)) = true := by
    rw [hfenced, hwaits, hfree]
    decide
  refine (onObj_of_named (by simp [hth, hb])).trans (congrArg _ ?_)
  rw [ht]
  dsimp only
  rw [hx, hv]
  exact if_neg hbusy

/-! Output sums (R115). -/

theorem mem_sums_of_needed {img : Bytes} {th b c : Nat} {t : Thread} (hord : imgOrdered img = false) (hc : c = b ∨ c = th / 4096) :
    c ∈ sumsNeeded img th t b ++ t.sums := by
  by_cases hheld : c ∈ t.sums
  · exact List.mem_append_right _ hheld
  · exact List.mem_append_left _ (by simp [sumsNeeded, hord, hheld, hc])

/-! Lookups (R108 to R114). -/

/-- The name under which a faulty lookup is counted (R113). -/
def lookupCounter (multi : Bool) : CName := if multi then .treeMultimatch else .treeNomatch

theorem lookupFault_threads (s : State) (ctx b bank g : Nat) (multi : Bool) : (lookupFault s ctx b bank g multi).threads = s.threads :=
  integ_threads ..

theorem lookupFault_count (s : State) (ctx b bank g : Nat) (multi : Bool) :
    cntGet (lookupFault s ctx b bank g multi).counters (lookupCounter multi) ctx =
      sat64 (cntGet s.counters (lookupCounter multi) ctx + 1) :=
  (congrArg (cntGet · (lookupCounter multi) ctx) (integ_counters ..)).trans ((State.cntGet_count ..).trans (if_pos rfl))

/-- The entries a thread's lookup of a tree hits. -/
def lookupHits (s : State) (t : Thread) (tree : Nat) (x : Slice) (pl : TreePl) : List Nat :=
  treeHits s (s.verOf t).image x pl (treeKey (s.verOf t).image x tree (fun b => Tbl.getD t.pvec (x.block * 4096 + b) false))

/-- What a lookup comes to once its banks and sums are free: the leaf of the one entry hit, or a fault (R113, R115). -/
def lookedUp (s : State) (th tree : Nat) (t : Thread) (x : Slice) (pl : TreePl) : State :=
  let u := s.updThread th (fun y => { y with queued := y.queued.erase tree })
  match lookupHits s t tree x pl with
  | [e] => u.updThread th (fun y =>
      { y with matched := Tbl.put y.matched tree (e - pl.first), sums := sumsNeeded (s.verOf t).image th t x.block ++ y.sums })
  | l => (lookupFault u t.model x.block pl.bank pl.group (!l.isEmpty)).updThread th (fun y =>
      { y with fault := true, matched := Tbl.put y.matched tree (treeDir (s.verOf t).image tree).rcount })

section
variable {s : State} {th tree : Nat} {t : Thread} {x : Slice} {pl : TreePl} (ht : Tbl.find? s.threads th = some t)
include ht

theorem lookedUp_of_hit {e : Nat} (hhit : lookupHits s t tree x pl = [e]) :
    Tbl.find? (lookedUp s th tree t x pl).threads th = some { t with
      queued := t.queued.erase tree, matched := Tbl.put t.matched tree (e - pl.first),
      sums := sumsNeeded (s.verOf t).image th t x.block ++ t.sums } ∧
    (lookedUp s th tree t x pl).counters = s.counters := by
  simp only [lookedUp, hhit]
  exact ⟨find_updThread_of_find (find_updThread_of_find ht _) _, rfl⟩

theorem lookedUp_of_fault (hmiss : (lookupHits s t tree x pl).length ≠ 1) :
    let c := lookupCounter (!(lookupHits s t tree x pl).isEmpty)
    ∃ y, Tbl.find? (lookedUp s th tree t x pl).threads th = some y ∧ y.queued = t.queued.erase tree ∧ y.fault = true ∧
      cntGet (lookedUp s th tree t x pl).counters c t.model = sat64 (cntGet s.counters c t.model + 1) := by
  unfold lookedUp
  extract_lets c u
  split
  · next e he => exact absurd (congrArg List.length he) hmiss
  · exact ⟨_, find_updThread_of_find ((congrArg (Tbl.find? · th) (lookupFault_threads ..)).trans (find_updThread_of_find ht _)) _,
      rfl, rfl, lookupFault_count ..⟩

variable (hth : okThread th = true) (hpl : treePlace s t tree = some (x, pl)) (hdone : t.done = false)
  (hqueued : t.queued.contains tree = true) (hfenced : (s.block x.block).fenced = false)
  (hbanks : ∀ k ∈ treeBanks (s.verOf t).image pl, bankServes s x.block k = true ∧ bankTurn s x.block k t.tArrive = true)
  (hsums : ∀ b ∈ sumsNeeded (s.verOf t).image th t x.block, sumsFree s (s.verOf t).image t b = true)
include hth hpl hdone hqueued hfenced hbanks hsums

theorem exec_treeLookup : exec (.treeLookup th tree) s = .next (lookedUp s th tree t x pl) := by
  have hbusy : ¬ (t.done || !t.queued.contains tree || (s.block x.block).fenced || !banksFree s (s.verOf t).image x.block t.tArrive pl ||
      !(sumsNeeded (s.verOf t).image th t x.block).all (sumsFree s (s.verOf t).image t)) = true := by
    rw [hdone, hqueued, hfenced, show banksFree s (s.verOf t).image x.block t.tArrive pl = true by simpa [banksFree] using hbanks]
    simpa using hsums
  refine (onObj_of_named hth).trans (congrArg _ ?_)
  rw [ht]
  dsimp only
  rw [hpl]
  exact if_neg hbusy

end

/-- Settles O13: the bits of a presented feature are its predicates' outcomes, and one matching entry alone gives a leaf. -/
theorem treesMatch : Obligations.TreesMatch := by
  intro s th t hth ht img
  refine ⟨fun b prep v x hb hx hv hfenced hwaits hfree hbits => ?presented,
    fun tree x pl hpl hdone hqueued hfenced hbanks hsums => ?lookedUp⟩
  case presented =>
    refine ⟨_, _, exec_featurePresentation hth hb ht hx hv hfenced hwaits hfree,
      find_updThread_of_find ((congrArg (Tbl.find? · th) (nanCounted_threads ..)).trans ht) _, rfl,
      fun c hc hprep => presents_pvec t img b prep v hbits hc hprep, fun pl hpl htrig hready => ?_, fun k hk => ?_⟩
    · obtain rfl := block_of_sliceOf hx
      exact queued_of_ready (t := t.presents img x x.block prep v) (List.mem_map_of_mem hpl) htrig hready
    · rw [State.find_updThread, if_neg hk, nanCounted_threads]
  case lookedUp =>
    intro hits
    have hexec := exec_treeLookup ht hth hpl hdone hqueued hfenced hbanks hsums
    by_cases hone : hits.length = 1
    · obtain ⟨e, he⟩ := List.length_eq_one_iff.mp hone
      obtain ⟨hfound, hcounters⟩ := lookedUp_of_hit ht he
      refine ⟨_, _, hexec, hfound, rfl, fun e' he' => ?_, fun h0 => ?_, fun h2 => ?_⟩
      · obtain rfl : e = e' := List.singleton_inj.mp (he.symm.trans he')
        exact ⟨Tbl.find?_put_self .., rfl, hcounters, fun hord =>
          ⟨mem_sums_of_needed hord (.inl rfl), mem_sums_of_needed hord (.inr rfl)⟩⟩
      · exact absurd hone (by simp [h0])
      · omega
    · obtain ⟨y, hy, hqueue, hfault, hcount⟩ := lookedUp_of_fault ht hone
      refine ⟨_, y, hexec, hy, hqueue, fun e he => absurd (congrArg List.length he) hone,
        fun h0 => ⟨hfault, ?_⟩, fun h2 => ⟨hfault, ?_⟩⟩
      · rwa [show (lookupHits s t tree x pl).isEmpty = true from List.isEmpty_iff.mpr h0] at hcount
      · have hsome : (lookupHits s t tree x pl).isEmpty = false := by
          rw [List.isEmpty_eq_false_iff_exists_mem]
          exact List.exists_mem_of_length_pos (Nat.lt_of_lt_of_le Nat.zero_lt_two h2)
        rwa [hsome] at hcount

end Sys2Proof.Machine
end

section
/-! COMBINE_MARGIN: the combine stage (O14, R115 to R123, R256, R284, R285). -/

namespace Sys2Proof.Machine

/-! Lists over the outputs. -/

theorem firstIdx_eq_none_iff {α : Type} {p : α → Bool} {l : List α} {i : Nat} : firstIdx p l i = none ↔ ∀ a ∈ l, p a = false := by
  induction l generalizing i with
  | nil => simp [firstIdx]
  | cons a l ih => cases h : p a <;> simp [firstIdx, h, ih]

theorem mapIdx_map_upTo {α β : Type} (n : Nat) (g : Nat → α) (f : Nat → α → β) :
    ((upTo n).map g).mapIdx f = (upTo n).map (fun j => f j (g j)) := by
  apply List.ext_getElem <;> simp [upTo]

theorem map_snd_mapIdx {α : Type} (l : List α) : (l.mapIdx (fun i v => (i, v))).map Prod.snd = l := by
  apply List.ext_getElem <;> simp

/-! Margins and their check. -/

/-- The margins the combine stage delivers, those of a disturbed sum replaced. -/
def margins (img : Bytes) (t : Thread) (upset : List (Nat × Nat)) : List Nat :=
  (upTo (imgNout img)).map (fun j =>
    match upset.find? (fun p => p.1 == j) with
    | some p => p.2 % 2 ^ 32
    | none => marginOf img t j)

/-- The first output whose margin is out of its bound (R284). -/
def firstOutside (img : Bytes) (m : List Nat) : Option Nat :=
  firstIdx (fun p => !p) (m.mapIdx (fun j x => marginOk x (boundOf img j))) 0

section
variable {img : Bytes} {t : Thread}

theorem firstOutside_of_within (h : ∀ j, j < imgNout img → marginOk (marginOf img t j) (boundOf img j) = true) :
    firstOutside img (margins img t []) = none := by
  rw [firstOutside, margins, mapIdx_map_upTo, firstIdx_eq_none_iff]
  simpa [upTo] using h

theorem firstOutside_of_upset {j m : Nat} (hj : j < imgNout img) (hm : marginOk (m % 2 ^ 32) (boundOf img j) = false) :
    ∃ k, firstOutside img (margins img t [(j, m)]) = some k := by
  rw [← Option.ne_none_iff_exists', firstOutside, margins, mapIdx_map_upTo, ne_eq, firstIdx_eq_none_iff]
  intro h
  have hin : marginOk (m % 2 ^ 32) (boundOf img j) = true := by
    simpa using h _ (List.mem_map.mpr ⟨j, List.mem_range.mpr hj, rfl⟩)
  rw [hm] at hin
  cases hin

end

/-! What a delivery leads to. -/

/-- The state with the scores of a thread: infinite ones counted, its evaluation over (R119 to R123). -/
def scored (s : State) (n : Nat) (t : Thread) (y : List Nat) : State :=
  let inf := (y.filter (fun v => v % 2 ^ 31 == 0x7F800000)).length
  let s := if inf = 0 then s else s.count .scoreOverflow t.model inf
  (s.updThread n (fun x => { x with scores := y.mapIdx (fun i v => (i, v)) })).endThread n

section
variable {s : State} {n : Nat} {t : Thread} (h : Tbl.find? s.threads n = some t)
include h

theorem scored_spec (y : List Nat) :
    ∃ x, Tbl.find? (scored s n t y).threads n = some x ∧ x.done = true ∧ x.scores.map Prod.snd = y ∧
      ∀ q c, Tbl.find? s.reqs t.req = some q → q.recs[t.qi]? = some c →
        ∃ q' c', Tbl.find? (scored s n t y).reqs t.req = some q' ∧ q'.recs[t.qi]? = some c' ∧ c'.ready = true ∧
          c'.status = t.status ∧ (t.status = 0 → c'.scores = x.scores.map Prod.snd) := by
  unfold scored
  extract_lets inf u
  have hthreads : u.threads = s.threads := ite_keeps State.threads rfl rfl
  have hreqs : u.reqs = s.reqs := ite_keeps State.reqs rfl rfl
  have hu := find_updThread_of_find ((congrArg (Tbl.find? · n) hthreads).trans h)
    (fun x => { x with scores := y.mapIdx (fun i v => (i, v)) })
  refine ⟨_, find_endThread hu, rfl, map_snd_mapIdx y, fun q c hq hc => ?_⟩
  obtain ⟨q', hq', hc'⟩ := rec_endThread hu ((congrArg (Tbl.find? · t.req) hreqs).trans hq) hc
  exact ⟨q', _, hq', hc', rfl, rfl, fun h0 => if_pos h0⟩

theorem combineException_spec (e : Nat) :
    ∃ x, Tbl.find? (combineException s n t e).threads n = some x ∧ x.fault = true ∧ x.done = true ∧
      cntGet (combineException s n t e).counters .vseExc t.model = sat64 (cntGet s.counters .vseExc t.model + 1) := by
  refine ⟨_, find_threadFault ((congrArg (Tbl.find? · n) (integ_threads ..)).trans h), rfl, rfl, ?_⟩
  rw [combineException, threadFault_counters, integ_counters, State.cntGet_count, if_pos rfl]

theorem marginFault_first (hfirst : t.replayed = false) (j : Nat) :
    ∃ x, Tbl.find? (marginFault s n t j).threads n = some x ∧ x.replayed = true := by
  have hnoted : (marginFault s n t j).replayNoted n = some true := by
    rw [marginFault, if_neg (by simp [hfirst]), replayThread_replayNoted]
    simp only [State.replayNoted, State.find_updThread, if_true, integ_threads, State.count_threads, h, Option.map_some]
  exact Option.map_eq_some_iff.mp hnoted

end

/-- The blocks whose tests fall due at once. -/
def testsDue (s : State) (bs : List Nat) : State := bs.foldl (fun s b => s.updBlock b (fun x => { x with testDue := some s.now })) s

theorem testsDue_now (s : State) (bs : List Nat) : (testsDue s bs).now = s.now :=
  foldl_keeps State.now (f := fun s b => s.updBlock b _) (fun _ _ => rfl) bs s
theorem testsDue_threads (s : State) (bs : List Nat) : (testsDue s bs).threads = s.threads :=
  foldl_keeps State.threads (f := fun s b => s.updBlock b _) (fun _ _ => rfl) bs s

theorem testsDue_block {bs : List Nat} {b : Nat} (s : State) (hb : b ∈ bs) : ((testsDue s bs).block b).testDue = some s.now := by
  have hdue : ((testsDue s bs).block b).testDue = some (testsDue s bs).now := by
    refine foldl_reaches (P := fun u : State => (u.block b).testDue = some u.now) (fun u k hk => ?_) (.inl hb)
    rw [State.block_updBlock]
    split
    · rfl
    · next hne => exact hk.resolve_left hne
  rw [hdue, testsDue_now]

theorem marginFault_second {s : State} {n : Nat} {t : Thread} (h : Tbl.find? s.threads n = some t) (hsecond : t.replayed = true) (j : Nat) :
    ∃ x, Tbl.find? (marginFault s n t j).threads n = some x ∧ x.fault = true ∧ x.done = true ∧
      ∀ b ∈ holders s t, ((marginFault s n t j).block b).testDue = some s.now := by
  rw [marginFault, if_pos hsecond]
  extract_lets hs told due
  have hnow : told.now = s.now := foldl_keeps State.now (f := fun s b => s.integ _) (fun _ _ => integ_now ..) hs s
  have hthreads : due.threads = s.threads :=
    (testsDue_threads told hs).trans (foldl_keeps State.threads (f := fun s b => s.integ _) (fun _ _ => integ_threads ..) hs s)
  refine ⟨_, find_threadFault ((congrArg (Tbl.find? · n) hthreads).trans h), rfl, rfl, fun b hb => ?_⟩
  rw [block_of_blocks (threadFault_blocks ..), ← hnow]
  exact testsDue_block told hb

/-- A thread's margins meet their check, and the scores, a fault of the firmware or of the check follow (R119 to R123, R167, R284,
R285). -/
def delivered (s : State) (n : Nat) (t : Thread) (run : CombineRun) : State :=
  let img := (s.verOf t).image
  let m := margins img t run.upset
  match firstOutside img m with
  | some j => marginFault s n t j
  | none =>
    match (if imgLink img = 3 then run.exc else none) with
    | some e => combineException s n t e
    | none => scored s n t (linkScores img m)

section
variable (s : State) (n : Nat) {t : Thread}

theorem delivered_of_within {exc : Option Nat} (hin : firstOutside (s.verOf t).image (margins (s.verOf t).image t []) = none)
    (hexc : imgLink (s.verOf t).image ≠ 3 ∨ exc = none) :
    delivered s n t ⟨[], exc⟩ =
      scored s n t (linkScores (s.verOf t).image ((upTo (imgNout (s.verOf t).image)).map (marginOf (s.verOf t).image t))) := by
  have hnone : (if imgLink (s.verOf t).image = 3 then exc else none) = none := by
    simpa using fun h3 => hexc.resolve_left (not_not_intro h3)
  simp only [delivered, hin, hnone]
  rfl

theorem delivered_of_exception {e : Nat} (hin : firstOutside (s.verOf t).image (margins (s.verOf t).image t []) = none)
    (hlink : imgLink (s.verOf t).image = 3) : delivered s n t ⟨[], some e⟩ = combineException s n t e := by
  simp only [delivered, hin, hlink, if_true]

theorem delivered_of_outside {run : CombineRun} {k : Nat}
    (hout : firstOutside (s.verOf t).image (margins (s.verOf t).image t run.upset) = some k) :
    delivered s n t run = marginFault s n t k := by
  simp only [delivered, hout]

end

/-! What COMBINE_MARGIN does with a thread whose leaves are all there. -/

section
variable {s : State} {n : Nat} {t : Thread} (run : CombineRun) (hn : okThread n = true) (hexc : okExc run.exc = true)
  (ht : Tbl.find? s.threads n = some t) (hdone : t.done = false) (hkind : imgKind (s.verOf t).image = 0)
  (hall : allLeaves s t (s.verOf t).image = true) (hwaiting : t.hook ≠ .waiting) (hbound : t.hook ≠ .bound)
include hn hexc ht hdone hkind hall hwaiting hbound

theorem exec_combineMargin_of_fault (hf : t.fault = true) : exec (.combineMargin n run) s = .next (s.endThread n) := by
  refine (onObj_of_named (by simp [hn, hexc])).trans (congrArg _ ?_)
  simp [ht, hdone, hkind, hall, hwaiting, hbound, hf]

theorem exec_combineMargin_of_unbegun (hf : t.fault = false) (hord : imgOrdered (s.verOf t).image = true) (hfrom : t.sumFrom = none) :
    exec (.combineMargin n run) s =
      .next (if sumTurn s n t then s.updThread n (fun x => { x with sumFrom := some s.cycle }) else s) := by
  refine (onObj_of_named (by simp [hn, hexc])).trans (congrArg _ ?_)
  simp [ht, hdone, hkind, hall, hwaiting, hbound, hf, hord, hfrom]

theorem exec_combineMargin_of_summed (hf : t.fault = false) (hbegun : imgOrdered (s.verOf t).image = true → t.sumFrom ≠ none)
    (hsummed : summed s (s.verOf t).image t = true)
    (hvse : imgLink (s.verOf t).image = 3 → ∃ v, chooseVse s (n / 4096) 1 = some v) :
    exec (.combineMargin n run) s = .next (delivered s n t run) := by
  refine (onObj_of_named (by simp [hn, hexc])).trans (congrArg _ ?_)
  have hordered : ¬ (imgOrdered (s.verOf t).image && t.sumFrom.isNone) = true := by simpa [Option.isSome_iff_ne_none] using hbegun
  have hready : ¬ (!summed s (s.verOf t).image t || (imgLink (s.verOf t).image == 3 && (chooseVse s (n / 4096) 1).isNone)) = true := by
    simpa [hsummed, ← Option.ne_none_iff_exists'] using hvse
  rw [ht]
  refine (if_neg ?_).trans ((if_neg (by simp [hf])).trans ((if_neg hordered).trans ((if_neg hready).trans rfl)))
  simp [hdone, hkind, hall, hwaiting, hbound]

end

/-- Settles O14: a thread whose leaves are all there is answered with its fault, begins its additions when its turn has come, or has its
margins delivered; their check leads to the scores, to the first fault's replay, or to 0x30. -/
theorem marginsCombine : Obligations.MarginsCombine := by
  intro s n t hn ht hdone img hkind hall hwaiting hbound
  refine ⟨fun hf => ?fault, fun hf hord hfrom => ⟨fun hturn => ?begins, fun hfull => ?full⟩,
    fun hf hbegun hsummed hvse => ⟨fun hin => ⟨fun exc hexc hlink => ?scores, fun e he hlink => ?exception⟩,
      fun j m hj hm => ?outside⟩⟩
  case fault =>
    exact ⟨_, _, exec_combineMargin_of_fault _ hn rfl ht hdone hkind hall hwaiting hbound hf, find_endThread ht, rfl, rfl⟩
  case begins =>
    refine ⟨_, exec_combineMargin_of_unbegun _ hn rfl ht hdone hkind hall hwaiting hbound hf hord hfrom, ?_⟩
    rw [if_pos hturn]
    exact ⟨find_updThread_of_find ht _, rfl⟩
  case full =>
    have hturn : sumTurn s n t = false := by
      rw [sumTurn, decide_eq_false (Nat.not_lt.mpr hfull), Bool.false_and]
    rw [exec_combineMargin_of_unbegun _ hn rfl ht hdone hkind hall hwaiting hbound hf hord hfrom, if_neg (by simp [hturn])]
  case scores =>
    rw [exec_combineMargin_of_summed _ hn hexc ht hdone hkind hall hwaiting hbound hf hbegun hsummed hvse,
      delivered_of_within s n (firstOutside_of_within hin) hlink]
    obtain ⟨y, hy⟩ := scored_spec ht _
    exact ⟨_, y, rfl, hy⟩
  case exception =>
    rw [exec_combineMargin_of_summed _ hn he ht hdone hkind hall hwaiting hbound hf hbegun hsummed hvse,
      delivered_of_exception s n (firstOutside_of_within hin) hlink]
    obtain ⟨y, hy⟩ := combineException_spec ht e
    exact ⟨_, y, rfl, hy⟩
  case outside =>
    obtain ⟨k, hk⟩ := firstOutside_of_upset (t := t) hj hm
    rw [exec_combineMargin_of_summed _ hn rfl ht hdone hkind hall hwaiting hbound hf hbegun hsummed hvse, delivered_of_outside s n hk]
    refine ⟨fun hfirst => ?_, fun hsecond => ?_⟩
    · obtain ⟨y, hy⟩ := marginFault_first ht hfirst k
      exact ⟨_, y, rfl, hy⟩
    · obtain ⟨y, hy⟩ := marginFault_second ht hsecond k
      exact ⟨_, y, rfl, hy⟩

end Sys2Proof.Machine
end
